-- ==== Sys2Proof/Word.lean ====
section
/-! DEFINITION. Sys2Proof/Word.lean: the word types of the part (00 R4, R5) and their plainest arithmetic. -/
namespace Sys2Proof

/-- Eight bits: the smallest unit that has an address (00 R4). -/
abbrev Byte := BitVec 8

/-- A 64-bit word: a scalar register, an address, a management register. -/
abbrev Word := BitVec 64

/-- A 32-bit word: an instruction, a tile element, a distribution value. -/
abbrev W32 := BitVec 32

end Sys2Proof
end

