-- ==== Sys2Proof/Config.lean ====
section
/-! DEFINITION. Sys2Proof/Config.lean: what the spec leaves open. Each constant is opaque: no proof can see a value of it, so a claim holds whatever it is.
A constant applied to `State.free` gives a fresh value each time, since the step that reads it advances the counter. -/
namespace Sys2Proof.Config

/-- A free 64-bit value (log 3): timing counters, bytes of entropy (log 13), ECC syndromes. -/
opaque freeWord : Nat → Word

/-- Which of two results that the spec allows is taken (log 12): the elements of VFILL past the saved vl (09 R212). -/
opaque freeBit : Nat → Bool

/-- The ML-DSA-44 signature of FIPS 204 (22 R444): by key seed, over a message (log 10). The spec names the standard and does not restate it. -/
opaque mldsaSign : BitVec 256 → List Byte → List Byte

/-- Verification of an ML-DSA-44 signature (22 R444): public key named by a seed, message, signature (log 10). -/
opaque mldsaVerify : BitVec 256 → List Byte → List Byte → Bool

/-- The fused debug key, as a seed (22 R444 OZVRFY key 0, R451). -/
opaque debugKey : BitVec 256

/-- The context fixed in ROM from which the attestation key of slot 1 is derived at start (22 R444). -/
opaque attestContext : List Byte

/-- The message that an SPDM version, 1.3 or else 1.2, has a responder sign for a nonce and the measurement registers (22 R447, log 29): the spec names the versions
and does not restate them. -/
opaque spdmMessage : Bool → BitVec 256 → List (BitVec 256) → List Byte

/-- Laniorarok's enterprise number in the IANA registry (22 R447, log 29). -/
opaque enterpriseNumber : W32

/-- Minor version of the versioned structures that the scheduler image of a digest knows (21 R442, 22 R450; log 28). -/
opaque imageMinor : BitVec 256 → Nat

end Sys2Proof.Config
end

