-- ==== Sys2Proof/Syntax.lean ====
section
/-! DEFINITION. Sys2Proof/Syntax.lean: the instructions of the part, one constructor per row of the opcode table: first the 96
events of the part, whose operands the row names, then the 258 instruction words in the order of Table 5.4 (05 R109). A register
operand keeps the whole field of its format; an `m`, `t`, `d` or `q` operand with bits 6 to 4 set is a word that raises ILLEGAL_OPERAND
at issue (R110), so the field is not shortened here. -/
namespace Sys2Proof

/-- Every row of the opcode table. Field names: `d`, `a`, `b` register fields of Table 5.3; `m` the mask bit; `i`, `j`, `n`, `c` immediate
fields; `sc` a scope code (R358); events carry the hart number `h`, the node number `n`, the transfer number `x`, and so on. -/
inductive Instr where
  /-- `MONITOR_WAKE` (R367), an event: A write by another agent to the monitored block, or loss of the monitor, wakes MONWAIT with status 0. -/
  | monitorWake (h : Nat)
  /-- `MONWAIT_TIMEOUT` (R367), an event: The MONWAIT bound runs out and the hart wakes with status 1. -/
  | monwaitTimeout (h : Nat)
  /-- `ENGINE_COUNT` (R352), an event: An engine counts performed bytes against a barrier object, possibly completing a phase. -/
  | engineCount (x : Nat)
  /-- `TRANSFER_RETIRE` (R339), an event: An engine transfer's last byte is counted and its interlock entries are freed. -/
  | transferRetire (x : Nat)
  /-- `COLL_MATCH` (R338), an event: Every member's XCOLL has arrived; parameters are compared and the collective runs. -/
  | collMatch (x : Nat)
  /-- `COLL_TIMEOUT` (R338), an event: An XCOLL waits COLL_TMO without its match and ends with out bit 62. -/
  | collTimeout (x : Nat)
  /-- `BWAIT_WAKE` (R351), an event: A phase or OVR change wakes a sleeping BWAIT, which compares again. -/
  | bwaitWake (h : Nat)
  /-- `BWAIT_DEADLINE` (R351), an event: A BWAIT deadline passes and the hart returns status 1. -/
  | bwaitDeadline (h : Nat)
  /-- `DET_PHASE_MERGE` (R380), an event: Once every task has arrived, strict check runs, entries are dropped and dphase advances. -/
  | detPhaseMerge (n : Nat)
  /-- `AWAIT_RETURN` (R263), an event: The awaited MARK has occurred and the waiting context returns its flags. -/
  | awaitReturn (h : Nat)
  /-- `ADVICE_WATCHDOG` (R262), an event: An advice context's watchdog count reaches zero and the context ends. -/
  | adviceWatchdog (h : Nat)
  /-- `HART_WATCHDOG` (R386), an event: A resident hart retires nothing for HART_WDOG cycles and its task ends failed. -/
  | hartWatchdog (h : Nat)
  /-- `VECTOR_SOFT_ERROR` (R392), an event: A parity or residue error in the vector unit squashes and reissues the hart's vector window. -/
  | vectorSoftError (h : Nat)
  /-- `SECTOR_POISON` (R395), an event: An uncorrectable ECC error in memory or a cache poisons its sector. -/
  | sectorPoison (spad : Bool) (addr : BitVec 52) (unit : BitVec 16)
  /-- `HART_AGED` (R102), an event: A hart passed over for 256 control cycles becomes aged. -/
  | hartAged (h : Nat)
  /-- `HART_RESIDENT` (R105), an event: An arriving hart takes a context and partitions, pre-empting a lower-priority slot holder if needed. -/
  | hartResident (h : Nat)
  /-- `CONTEXT_SWITCH` (R106), an event: Scheduler firmware saves a parked hart's context and frees its resources. -/
  | contextSwitch (h : Nat)
  /-- `CONTEXT_RESTORE` (R107), an event: Firmware restores a saved hart context from its save area. -/
  | contextRestore (h : Nat)
  /-- `PARK_EXPIRY` (R143), an event: A parked hart's n × 64 cycle wait ends and it becomes ready. -/
  | parkExpiry (h : Nat)
  /-- `TIME_SLICE` (R79), an event: A time-sliced core switches logical cores when the quantum expires or its harts park. -/
  | timeSlice (die : BitVec 2) (phys : BitVec 7)
  /-- `GRAPH_POST` (R438), an event: A host graph-post message writes an armed word after earlier host writes perform. -/
  | graphPost (pa : BitVec 52) (v : BitVec 64)
  /-- `FOLLOW_ARMED_WORD` (R54), an event: The watch unit follows a non-zero armed word, posting its node and disarming the word. -/
  | followArmedWord (g : BitVec 6)
  /-- `NODE_READY` (R45), an event: The reads of a POSTED node complete or fail and it becomes READY. -/
  | nodeReady (n : Nat)
  /-- `ADMIT_NODE` (R58), an event: The scheduler admits and places a READY KERNEL node, installs its lease and launches harts. -/
  | admitNode (n : Nat)
  /-- `EVAL_COND` (R49), an event: A COND node reads its tested word and selects next or alt. -/
  | evalCond (n : Nat)
  /-- `EVAL_LOOP` (R50), an event: A LOOP node tests its word and iteration cap and selects body or next. -/
  | evalLoop (n : Nat)
  /-- `EVAL_SWITCH` (R51), an event: A SWITCH node reads its index and selects a table entry. -/
  | evalSwitch (n : Nat)
  /-- `SIGNAL_WRITE` (R53), an event: A SIGNAL node performs its store or atomic add, or queues it in egress. -/
  | signalWrite (n : Nat)
  /-- `NODE_DONE` (R46), an event: A node becomes DONE, queues its completion word, reads next and releases successors. -/
  | nodeDone (n : Nat)
  /-- `NODE_RETIRE` (R46), an event: The scheduler drops its references to a SEALED node and queues state 7. -/
  | nodeRetire (n : Nat)
  /-- `RES_DONE` (R72), an event: A write of RES_DONE makes the scheduler walk again and clears PEND. -/
  | resDone
  /-- `INV_GO` (R86), an event: A write of INV_CTL.GO starts a translation invalidation, or sets DROP if busy. -/
  | invGo (v : BitVec 64)
  /-- `INVALIDATION_DONE` (R87), an event: Every covered agent has withdrawn the translations and DONE becomes 1. -/
  | invalidationDone
  /-- `REMAP_WRITE` (R77), an event: A REMAP write is accepted or rejected and counted, taking effect at a later admission. -/
  | remapWrite (die : BitVec 2) (l : BitVec 6) (v : BitVec 64)
  /-- `MIGRATE_PAGE` (R84), an event: The scheduler migrates a page that no live lease covers. -/
  | migratePage (asid : BitVec 16) (vpn : BitVec 40) (die : BitVec 2)
  /-- `GRAPH_CTL_WRITE` (R54), an event: A GRAPH_CTL write enables and arms, disables, or clears HALT of a graph slot. -/
  | graphCtlWrite (g : BitVec 6) (v : BitVec 64)
  /-- `RDS` (R235), an event: The home handles a read-for-sharing request. -/
  | rds (r : BitVec 3) (line : BitVec 44)
  /-- `RDX` (R235), an event: The home handles a read-for-ownership request. -/
  | rdx (r : BitVec 3) (line : BitVec 44)
  /-- `UPG` (R235), an event: The home handles an ownership upgrade. -/
  | upg (r : BitVec 3) (line : BitVec 44)
  /-- `WBD` (R235), an event: The home merges written-back dirty sectors and answers WbAck. -/
  | wbd (r : BitVec 3) (line : BitVec 44) (sectors : BitVec 4)
  /-- `EVC` (R235), an event: The home absorbs a clean eviction. -/
  | evc (r : BitVec 3) (line : BitVec 44)
  /-- `INVACK` (R235), an event: The home counts an invalidation acknowledgement. -/
  | invack (r : BitVec 3) (line : BitVec 44)
  /-- `ACK` (R235), an event: The home completes a recall without data, honouring the wb flag. -/
  | ack (r : BitVec 3) (line : BitVec 44) (wb : Bool)
  /-- `ACKD` (R235), an event: The home completes a recall with dirty sectors. -/
  | ackd (r : BitVec 3) (line : BitVec 44) (sectors : BitVec 4)
  /-- `DATA` (R236), an event: An agent receives the line in S. -/
  | data (r : BitVec 3) (line : BitVec 44)
  /-- `DATAE` (R236), an event: An agent receives the line in E with data. -/
  | datae (r : BitVec 3) (line : BitVec 44)
  /-- `GRANTE` (R236), an event: An agent receives ownership without data. -/
  | grante (r : BitVec 3) (line : BitVec 44)
  /-- `INV` (R236), an event: An agent drops a shared copy and answers InvAck. -/
  | inv (r : BitVec 3) (line : BitVec 44)
  /-- `RECALLS` (R236), an event: An owner returns dirty sectors and keeps S. -/
  | recalls (r : BitVec 3) (line : BitVec 44)
  /-- `RECALLI` (R236), an event: An owner returns dirty sectors and drops the line. -/
  | recalli (r : BitVec 3) (line : BitVec 44)
  /-- `WBACK` (R236), an event: An agent's write-back is absorbed and the line becomes I. -/
  | wback (r : BitVec 3) (line : BitVec 44)
  /-- `HBM_ACT_REFRESH` (R250), an event: A row activation counter reaches ACT_TH or saturates and neighbouring rows are refreshed. -/
  | hbmActRefresh (die : BitVec 2) (row : BitVec 32)
  /-- `ACT_PARITY_ERROR` (R250), an event: An activation counter fails parity at precharge, triggering refresh and logging. -/
  | actParityError (die : BitVec 2) (row : BitVec 32)
  /-- `SEAL_TIMER` (R409), an event: The seal timer expires and requests the seal of the open interval. -/
  | sealTimer
  /-- `SEAL_REQUEST` (R409), an event: The coordinator receives a seal request frame and starts or defers the seal. -/
  | sealRequest (n : BitVec 32)
  /-- `START` (R410), an event: A chip receives START(n), writes its checkpoint record and advances the RIN. -/
  | start (n : BitVec 32)
  /-- `SEAL_DRAIN_DONE` (R411), an event: Every write tagged n or earlier reaches a protected point and the chip sends VOTE(n). -/
  | sealDrainDone
  /-- `VOTE` (R410), an event: The coordinator receives a vote and, with every vote in, sends SEALED(n). -/
  | vote (chip : BitVec 6) (n : BitVec 32)
  /-- `SEALED` (R410), an event: A chip releases undo and egress entries, commits the checkpoint and seals DONE nodes. -/
  | sealed (n : BitVec 32)
  /-- `VOTE_TIMEOUT` (R413), an event: A vote misses SEAL_TMO and the chip is lost, rolling the domain back. -/
  | voteTimeout (chip : BitVec 6)
  /-- `ROLLBACK` (R414), an event: On ROLLBACK the domain returns to the newest seal and relaunches from the checkpoint. -/
  | rollback
  /-- `PARITY_BUILD_DONE` (R430), an event: Every member has written its parity slice and the generation is committed. -/
  | parityBuildDone
  /-- `PAR_RB_GO` (R432), an event: A write of PAR_RB.GO starts the rebuild of a lost chip. -/
  | parRbGo (v : BitVec 64)
  /-- `STRAIT_LINK_TRAIN` (R423), an event: A Strait link trains, exchanging chip numbers and setting DOMX. -/
  | straitLinkTrain (port : BitVec 4) (peer : BitVec 6) (dom : BitVec 64) (ver : BitVec 8) (lanes : BitVec 4)
  /-- `STRAIT_LINK_DOWN` (R424), an event: Sixteen failed replays in a row take a Strait link down. -/
  | straitLinkDown (port : BitVec 4)
  /-- `CW_PORT_TRAIN` (R435), an event: A Causeway port trains its lanes and version, or stays down after 20 ms. -/
  | cwPortTrain (port : BitVec 1) (ver : BitVec 8) (lanes : BitVec 4)
  /-- `CW_PORT_DOWN` (R435), an event: Thirty-two failed replays take a Causeway port down and it retrains once. -/
  | cwPortDown (port : BitVec 1)
  /-- `HOST_POSTED_WRITE` (R405), an event: An untagged host write is applied to its sector and to its version-store entries. -/
  | hostPostedWrite (pa : BitVec 52) (bytes : List (BitVec 8))
  /-- `HOST_READ` (R240), an event: A host read is served at the home, answering poison by status. -/
  | hostRead (pa : BitVec 52) (n : Nat)
  /-- `HOST_ATOMIC` (R437), an event: A host atomic on device memory is performed at the home. -/
  | hostAtomic (op : BitVec 4) (w4 : Bool) (pa : BitVec 52) (v : BitVec 64)
  /-- `ERR_POP` (R398), an event: A write of ERR_POP retires the primary error log event. -/
  | errPop (die : BitVec 2)
  /-- `ERR_OVF_CLEAR` (R398), an event: Writing 1 to ERR_OVF.OVF clears OVF and LOST. -/
  | errOvfClear (die : BitVec 2)
  /-- `FW_UPDATE_GO` (R449), an event: FW_CTL.GO starts a live update: Ozsis verifies the spare image and admission stops. -/
  | fwUpdateGo (v : BitVec 64) (signed : Bool) (digest : BitVec 256)
  /-- `FW_QUIESCE_DONE` (R449), an event: No node is LEASED or RUNNING, and the old image requests a seal. -/
  | fwQuiesceDone
  /-- `FW_QUIESCE_TIMEOUT` (R449), an event: Quiescing exceeds FW_QTMO; admission resumes with RESULT 3. -/
  | fwQuiesceTimeout
  /-- `FW_HANDOVER` (R449), an event: After the seal the old image writes the handover and Ozsis starts the new image. -/
  | fwHandover
  /-- `FW_HB` (R449), an event: The new image's first heartbeat write commits the update. -/
  | fwHb (v : BitVec 64)
  /-- `FW_HB_TIMEOUT` (R449), an event: No heartbeat within 50 ms; Ozsis restores the old slot. -/
  | fwHbTimeout
  /-- `DEBUG_UNLOCK` (R451), an event: Ozsis checks an unlock token, wipes tenant keys, extends M[5] and opens the debug port. -/
  | debugUnlock (token : List (BitVec 8))
  /-- `NEGOTIATE_ALGORITHMS` (R447), an event: Ozsis answers SPDM algorithm negotiation with SHA3-256 and ML-DSA-44. -/
  | negotiateAlgorithms (sha3 : Bool) (ext : Bool)
  /-- `GET_MEASUREMENTS` (R447), an event: Ozsis returns the measurement registers, signed or unsigned. -/
  | getMeasurements (sign : Bool) (nonce : BitVec 256)
  /-- `RST_CTL_COLD` (R456), an event: Writing RST_CTL.COLD resets the module cold and starts from ROM. -/
  | rstCtlCold
  /-- `RST_CTL_WARM` (R456), an event: Writing RST_CTL.WARM resets the module warm and starts from Ozsis. -/
  | rstCtlWarm
  /-- `RESET_INPUT` (R456), an event: The reset input ball requests a module reset. -/
  | resetInput (cold : Bool)
  /-- `SUPPLY_FAULT` (R452), an event: A supply leaves its range for over 10 µs and the module resets cold. -/
  | supplyFault
  /-- `REFERENCE_LOSS` (R455), an event: Loss of the reference clock input causes a cold reset. -/
  | referenceLoss
  /-- `THERMAL_THROTTLE` (R454), an event: A die's junction reaches 100 °C and it moves to operating point 0. -/
  | thermalThrottle (die : BitVec 2) (tj : BitVec 8)
  /-- `THERMAL_RECOVER` (R454), an event: The junction falls below 90 °C and the die returns to its selected point. -/
  | thermalRecover (die : BitVec 2) (tj : BitVec 8)
  /-- `THERMAL_TRIP` (R454), an event: A junction reaches 110 °C and the module resets cold with kind 3. -/
  | thermalTrip (die : BitVec 2) (tj : BitVec 8)
  /-- `MGMT_REGISTER_WRITE` (R8), an event: A write to a management register without behaviour of its own sets its writable fields. -/
  | mgmtRegisterWrite (off : BitVec 32) (v : BitVec 64)
  /-- `RESERVED_ENCODING` (R110), an event: A hart fetches a word that is not an instruction and takes ILLEGAL_INSTR precisely; the advice sequencer drops and counts it instead. -/
  | reservedEncoding (w : BitVec 32)
  /-- `POWER_UP` (R452), an event: VDD_AON and then the other supplies come into range and the module starts cold from ROM. -/
  | powerUp
  /-- `REBUILD_DONE` (R432), an event: The engines finish rebuilding the lost chip's region and parity, the coordinator seals, and BUSY clears so that leasing resumes. -/
  | rebuildDone
  /-- `STRAIT_FLIT_REPLAY` (R424), an event: A Strait flit fails its CRC and is replayed at link level, and STRAIT_REPLAY is counted. -/
  | straitFlitReplay (port : BitVec 4)
  /-- `CW_FLIT_REPLAY` (R435), an event: A Causeway flit fails its CRC and is replayed at link level, and CW_REPLAY is counted. -/
  | cwFlitReplay (port : BitVec 1)
  /-- `FRAME_FORWARD` (R424), an event: A Strait frame addressed to another chip arrives and is sent on through the port that STRAIT_ROUTE names, or is lost when that chip is unreachable. -/
  | frameForward (dst : BitVec 6) (cls : BitVec 2) (body : List (BitVec 8))
  /-- `ADD` (R119): Writes the 64-bit sum of two scalar registers. -/
  | add (d : BitVec 7) (a : BitVec 7) (b : BitVec 7)
  /-- `SUB` (R119): Writes the 64-bit difference of two scalar registers. -/
  | sub (d : BitVec 7) (a : BitVec 7) (b : BitVec 7)
  /-- `AND` (R119): Writes the bitwise and of two scalar registers. -/
  | and (d : BitVec 7) (a : BitVec 7) (b : BitVec 7)
  /-- `OR` (R119): Writes the bitwise or of two scalar registers. -/
  | or (d : BitVec 7) (a : BitVec 7) (b : BitVec 7)
  /-- `XOR` (R119): Writes the bitwise exclusive or of two scalar registers. -/
  | xor (d : BitVec 7) (a : BitVec 7) (b : BitVec 7)
  /-- `ANDN` (R119): Writes a and not b. -/
  | andn (d : BitVec 7) (a : BitVec 7) (b : BitVec 7)
  /-- `SHL` (R119): Shifts a scalar left by b[5:0], zeros in. -/
  | shl (d : BitVec 7) (a : BitVec 7) (b : BitVec 7)
  /-- `SHR` (R119): Shifts a scalar right by b[5:0], zeros in. -/
  | shr (d : BitVec 7) (a : BitVec 7) (b : BitVec 7)
  /-- `SRA` (R119): Shifts a scalar right arithmetically by b[5:0]. -/
  | sra (d : BitVec 7) (a : BitVec 7) (b : BitVec 7)
  /-- `ROTR` (R119): Rotates a scalar right by b[5:0]. -/
  | rotr (d : BitVec 7) (a : BitVec 7) (b : BitVec 7)
  /-- `SLT` (R119): Writes 1 if a is signed-less than b, else 0. -/
  | slt (d : BitVec 7) (a : BitVec 7) (b : BitVec 7)
  /-- `SLTU` (R119): Writes 1 if a is unsigned-less than b, else 0. -/
  | sltu (d : BitVec 7) (a : BitVec 7) (b : BitVec 7)
  /-- `MIN` (R119): Writes the signed smaller of two scalars. -/
  | min (d : BitVec 7) (a : BitVec 7) (b : BitVec 7)
  /-- `MAX` (R119): Writes the signed larger of two scalars. -/
  | max (d : BitVec 7) (a : BitVec 7) (b : BitVec 7)
  /-- `MINU` (R119): Writes the unsigned smaller of two scalars. -/
  | minu (d : BitVec 7) (a : BitVec 7) (b : BitVec 7)
  /-- `MAXU` (R119): Writes the unsigned larger of two scalars. -/
  | maxu (d : BitVec 7) (a : BitVec 7) (b : BitVec 7)
  /-- `MUL` (R119): Writes the low 64 bits of the product. -/
  | mul (d : BitVec 7) (a : BitVec 7) (b : BitVec 7)
  /-- `MULH` (R119): Writes the high 64 bits of the signed 128-bit product. -/
  | mulh (d : BitVec 7) (a : BitVec 7) (b : BitVec 7)
  /-- `MULHU` (R119): Writes the high 64 bits of the unsigned 128-bit product. -/
  | mulhu (d : BitVec 7) (a : BitVec 7) (b : BitVec 7)
  /-- `DIV` (R120): Writes the signed quotient truncated toward zero, never trapping. -/
  | div (d : BitVec 7) (a : BitVec 7) (b : BitVec 7)
  /-- `DIVU` (R120): Writes the unsigned quotient, never trapping. -/
  | divu (d : BitVec 7) (a : BitVec 7) (b : BitVec 7)
  /-- `REM` (R120): Writes the signed remainder with the sign of a. -/
  | rem (d : BitVec 7) (a : BitVec 7) (b : BitVec 7)
  /-- `REMU` (R120): Writes the unsigned remainder. -/
  | remu (d : BitVec 7) (a : BitVec 7) (b : BitVec 7)
  /-- `CLZ` (R119): Writes the count of leading zero bits. -/
  | clz (d : BitVec 7) (a : BitVec 7)
  /-- `CTZ` (R119): Writes the count of trailing zero bits. -/
  | ctz (d : BitVec 7) (a : BitVec 7)
  /-- `POPC` (R119): Writes the count of one bits. -/
  | popc (d : BitVec 7) (a : BitVec 7)
  /-- `SEL` (R119): Writes S[ra] if the old destination is non-zero, else S[rb]. -/
  | sel (d : BitVec 7) (a : BitVec 7) (b : BitVec 7)
  /-- `ADDI` (R121): Adds a sign-extended 11-bit immediate. -/
  | addi (d : BitVec 7) (a : BitVec 7) (i : BitVec 11)
  /-- `ANDI` (R121): Ands with a sign-extended immediate. -/
  | andi (d : BitVec 7) (a : BitVec 7) (i : BitVec 11)
  /-- `ORI` (R121): Ors with a sign-extended immediate. -/
  | ori (d : BitVec 7) (a : BitVec 7) (i : BitVec 11)
  /-- `XORI` (R121): Exclusive-ors with a sign-extended immediate. -/
  | xori (d : BitVec 7) (a : BitVec 7) (i : BitVec 11)
  /-- `SLTI` (R121): Signed comparison with a sign-extended immediate. -/
  | slti (d : BitVec 7) (a : BitVec 7) (i : BitVec 11)
  /-- `SHLI` (R122): Shifts left by an immediate amount. -/
  | shli (d : BitVec 6) (a : BitVec 6) (n : BitVec 6)
  /-- `SHRI` (R122): Shifts right logically by an immediate amount. -/
  | shri (d : BitVec 6) (a : BitVec 6) (n : BitVec 6)
  /-- `SRAI` (R122): Shifts right arithmetically by an immediate amount. -/
  | srai (d : BitVec 6) (a : BitVec 6) (n : BitVec 6)
  /-- `MOVI` (R123): Writes a sign-extended 18-bit immediate. -/
  | movi (d : BitVec 7) (i : BitVec 18)
  /-- `MOVHI` (R123): Shifts the destination left 18 and ors in an 18-bit immediate. -/
  | movhi (d : BitVec 6) (i : BitVec 18)
  /-- `ADDPC` (R123): Writes the instruction address plus four times a signed immediate. -/
  | addpc (d : BitVec 6) (i : BitVec 18)
  /-- `LDB` (R125): Loads a sign-extended byte after alignment, lease and permission checks. -/
  | ldb (d : BitVec 6) (a : BitVec 6) (i : BitVec 11)
  /-- `LDBU` (R125): Loads a zero-extended byte. -/
  | ldbu (d : BitVec 6) (a : BitVec 6) (i : BitVec 11)
  /-- `LDH` (R125): Loads a sign-extended halfword. -/
  | ldh (d : BitVec 6) (a : BitVec 6) (i : BitVec 11)
  /-- `LDHU` (R125): Loads a zero-extended halfword. -/
  | ldhu (d : BitVec 6) (a : BitVec 6) (i : BitVec 11)
  /-- `LDW` (R125): Loads a sign-extended word. -/
  | ldw (d : BitVec 6) (a : BitVec 6) (i : BitVec 11)
  /-- `LDWU` (R125): Loads a zero-extended word. -/
  | ldwu (d : BitVec 6) (a : BitVec 6) (i : BitVec 11)
  /-- `LDD` (R125): Loads a doubleword. -/
  | ldd (d : BitVec 6) (a : BitVec 6) (i : BitVec 11)
  /-- `LDP` (R125): Loads 16 bytes into an even register pair. -/
  | ldp (d : BitVec 6) (a : BitVec 6) (i : BitVec 11)
  /-- `STB` (R125): Stores the low byte of a scalar register. -/
  | stb (d : BitVec 6) (a : BitVec 6) (i : BitVec 11)
  /-- `STH` (R125): Stores the low halfword. -/
  | sth (d : BitVec 6) (a : BitVec 6) (i : BitVec 11)
  /-- `STW` (R125): Stores the low word. -/
  | stw (d : BitVec 6) (a : BitVec 6) (i : BitVec 11)
  /-- `STD` (R125): Stores a doubleword. -/
  | std (d : BitVec 6) (a : BitVec 6) (i : BitVec 11)
  /-- `STP` (R125): Stores an even register pair as 16 bytes. -/
  | stp (d : BitVec 6) (a : BitVec 6) (i : BitVec 11)
  /-- `BEQ` (R128): Branches when two scalars are equal. -/
  | beq (a : BitVec 6) (b : BitVec 6) (j : BitVec 11)
  /-- `BNE` (R128): Branches when two scalars differ. -/
  | bne (a : BitVec 6) (b : BitVec 6) (j : BitVec 11)
  /-- `BLT` (R128): Branches on signed less than. -/
  | blt (a : BitVec 6) (b : BitVec 6) (j : BitVec 11)
  /-- `BGE` (R128): Branches on signed greater or equal. -/
  | bge (a : BitVec 6) (b : BitVec 6) (j : BitVec 11)
  /-- `BLTU` (R128): Branches on unsigned less than. -/
  | bltu (a : BitVec 6) (b : BitVec 6) (j : BitVec 11)
  /-- `BGEU` (R128): Branches on unsigned greater or equal. -/
  | bgeu (a : BitVec 6) (b : BitVec 6) (j : BitVec 11)
  /-- `LOOP` (R131): Opens a hardware loop level counted by a scalar register. -/
  | loop (a : BitVec 6) (j : BitVec 11)
  /-- `LOOPI` (R131): Opens a hardware loop level with an immediate count. -/
  | loopi (n : BitVec 12) (j : BitVec 11)
  /-- `J` (R129): Jumps to a PC-relative target. -/
  | j (j : BitVec 25)
  /-- `JAL` (R129): Jumps PC-relative and writes the link. -/
  | jal (d : BitVec 6) (i : BitVec 18)
  /-- `JALR` (R129): Jumps to a register plus offset and writes the link. -/
  | jalr (d : BitVec 6) (a : BitVec 6) (i : BitVec 11)
  /-- `CSRR` (R137): Reads a CSR into a scalar register. -/
  | csrr (d : BitVec 7) (c : BitVec 12)
  /-- `CSRW` (R137): Writes a CSR from a scalar register, with the CSR's checks. -/
  | csrw (d : BitVec 7) (c : BitVec 12)
  /-- `CSRS` (R137): Sets CSR bits in one indivisible read-modify-write. -/
  | csrs (d : BitVec 7) (c : BitVec 12)
  /-- `CSRC` (R137): Clears CSR bits in one indivisible read-modify-write. -/
  | csrc (d : BitVec 7) (c : BitVec 12)
  /-- `WBASE` (R136): Moves the scalar register window base. -/
  | wbase (i : BitVec 11)
  /-- `MARK` (R139): Sets pm.id and increments pm.occ once earlier instructions have issued. -/
  | mark (i : BitVec 16)
  /-- `TRAP` (R141): Retires and raises BREAK with tval set to the code. -/
  | trap (c : BitVec 12)
  /-- `ERET` (R390): Returns from a trap handler, or ends the task failed when tstatus.END is set. -/
  | eret
  /-- `YIELD` (R142): Gives up the lane slot to a ready parked hart of at least equal priority. -/
  | yield
  /-- `PARK` (R143): Ends the task with n = 0, or parks the hart for at least n × 64 control cycles. -/
  | park (n : BitVec 12)
  /-- `OZHASH` (R444): Ozsis writes the SHA3-256 of a private-memory range. -/
  | ozhash (d : BitVec 7)
  /-- `OZVRFY` (R444): Ozsis verifies an ML-DSA-44 signature against a fused key or key slot. -/
  | ozvrfy (d : BitVec 7)
  /-- `OZSIGN` (R444): Ozsis signs a message with the private key in a slot. -/
  | ozsign (d : BitVec 7)
  /-- `OZKDF` (R444): Ozsis derives an ML-DSA-44 key pair into a slot from the device secret and a context. -/
  | ozkdf (d : BitVec 7)
  /-- `OZRAND` (R444): Ozsis writes bytes from the entropy source. -/
  | ozrand (d : BitVec 7)
  /-- `OZWIPE` (R444): Ozsis zeroes the tenant key slots named by a mask. -/
  | ozwipe (d : BitVec 7)
  /-- `AMOADD` (R362): Atomically adds to an 8-byte word and returns the old value, as acquire and release. -/
  | amoadd (sc : BitVec 3) (d : BitVec 6) (a : BitVec 6) (b : BitVec 6)
  /-- `AMOAND` (R362): Atomic 8-byte and. -/
  | amoand (sc : BitVec 3) (d : BitVec 6) (a : BitVec 6) (b : BitVec 6)
  /-- `AMOOR` (R362): Atomic 8-byte or. -/
  | amoor (sc : BitVec 3) (d : BitVec 6) (a : BitVec 6) (b : BitVec 6)
  /-- `AMOXOR` (R362): Atomic 8-byte exclusive or. -/
  | amoxor (sc : BitVec 3) (d : BitVec 6) (a : BitVec 6) (b : BitVec 6)
  /-- `AMOMIN` (R362): Atomic 8-byte signed minimum. -/
  | amomin (sc : BitVec 3) (d : BitVec 6) (a : BitVec 6) (b : BitVec 6)
  /-- `AMOMAX` (R362): Atomic 8-byte signed maximum. -/
  | amomax (sc : BitVec 3) (d : BitVec 6) (a : BitVec 6) (b : BitVec 6)
  /-- `AMOMINU` (R362): Atomic 8-byte unsigned minimum. -/
  | amominu (sc : BitVec 3) (d : BitVec 6) (a : BitVec 6) (b : BitVec 6)
  /-- `AMOMAXU` (R362): Atomic 8-byte unsigned maximum. -/
  | amomaxu (sc : BitVec 3) (d : BitVec 6) (a : BitVec 6) (b : BitVec 6)
  /-- `AMOSWAP` (R362): Atomic 8-byte swap. -/
  | amoswap (sc : BitVec 3) (d : BitVec 6) (a : BitVec 6) (b : BitVec 6)
  /-- `AMOADD_32` (R362): Atomic 4-byte add. -/
  | amoadd32 (sc : BitVec 3) (d : BitVec 6) (a : BitVec 6) (b : BitVec 6)
  /-- `AMOAND_32` (R362): Atomic 4-byte and. -/
  | amoand32 (sc : BitVec 3) (d : BitVec 6) (a : BitVec 6) (b : BitVec 6)
  /-- `AMOOR_32` (R362): Atomic 4-byte or. -/
  | amoor32 (sc : BitVec 3) (d : BitVec 6) (a : BitVec 6) (b : BitVec 6)
  /-- `AMOXOR_32` (R362): Atomic 4-byte exclusive or. -/
  | amoxor32 (sc : BitVec 3) (d : BitVec 6) (a : BitVec 6) (b : BitVec 6)
  /-- `AMOMIN_32` (R362): Atomic 4-byte signed minimum. -/
  | amomin32 (sc : BitVec 3) (d : BitVec 6) (a : BitVec 6) (b : BitVec 6)
  /-- `AMOMAX_32` (R362): Atomic 4-byte signed maximum. -/
  | amomax32 (sc : BitVec 3) (d : BitVec 6) (a : BitVec 6) (b : BitVec 6)
  /-- `AMOMINU_32` (R362): Atomic 4-byte unsigned minimum. -/
  | amominu32 (sc : BitVec 3) (d : BitVec 6) (a : BitVec 6) (b : BitVec 6)
  /-- `AMOMAXU_32` (R362): Atomic 4-byte unsigned maximum. -/
  | amomaxu32 (sc : BitVec 3) (d : BitVec 6) (a : BitVec 6) (b : BitVec 6)
  /-- `AMOSWAP_32` (R362): Atomic 4-byte swap. -/
  | amoswap32 (sc : BitVec 3) (d : BitVec 6) (a : BitVec 6) (b : BitVec 6)
  /-- `CAS` (R362): Compares an 8-byte word with the destination and stores the new value if equal, returning the old. -/
  | cas (sc : BitVec 3) (d : BitVec 6) (a : BitVec 6) (b : BitVec 6)
  /-- `CASP` (R362): Compare-and-swap on 16 bytes with register pairs. -/
  | casp (sc : BitVec 3) (d : BitVec 6) (a : BitVec 6) (b : BitVec 6)
  /-- `LDA` (R361): Acquire load of 4 or 8 bytes at a scope. -/
  | lda (d : BitVec 6) (a : BitVec 6) (sc : BitVec 3) (w4 : Bool) (o : BitVec 7)
  /-- `STL` (R361): Release store of 4 or 8 bytes at a scope. -/
  | stl (d : BitVec 6) (a : BitVec 6) (sc : BitVec 3) (w4 : Bool) (o : BitVec 7)
  /-- `FENCE` (R365): Orders earlier scalar and vector accesses before later ones at a scope. -/
  | fence (sc : BitVec 3)
  /-- `FENCE_SV` (R365): Orders earlier scalar accesses before later vector accesses. -/
  | fenceSv (sc : BitVec 3)
  /-- `FENCE_VS` (R365): Orders earlier vector accesses and engine transfers before later scalar accesses. -/
  | fenceVs (sc : BitVec 3)
  /-- `FENCE_VV` (R365): Orders earlier vector accesses before later vector accesses. -/
  | fenceVv (sc : BitVec 3)
  /-- `MONARM` (R367): Arms the hart's monitor on a 64-byte block. -/
  | monarm (a : BitVec 7)
  /-- `MONWAIT` (R367): Sleeps until the monitored block is written, the monitor is lost or a bound runs out. -/
  | monwait (d : BitVec 7) (b : BitVec 7)
  /-- `CWB` (R243): Writes back dirty sectors of a range on the issuing die, keeping clean copies. -/
  | cwb (a : BitVec 7) (b : BitVec 7)
  /-- `CINV` (R243): Drops the die's copies of a range, discarding unwritten NC writes. -/
  | cinv (a : BitVec 7) (b : BitVec 7)
  /-- `CFLUSH` (R243): Writes back and drops the die's copies of a range. -/
  | cflush (a : BitVec 7) (b : BitVec 7)
  /-- `VSETTYPE` (R169): Sets vtype from an immediate and returns VLMAXE. -/
  | vsettype (d : BitVec 7) (v : BitVec 13)
  /-- `VSETSHAPE` (R170): Sets vshape and vl to rows × columns. -/
  | vsetshape (d : BitVec 7) (a : BitVec 7) (b : BitVec 7)
  /-- `VSETL` (R170): Sets vl to the minimum of a scalar and VLMAXE. -/
  | vsetl (d : BitVec 7) (a : BitVec 7)
  /-- `VLQ` (R171): Returns the spill frame size for the current vl and vtype. -/
  | vlq (d : BitVec 7)
  /-- `VADD` (R176): Element-wise integer add with range handling. -/
  | vadd (d : BitVec 7) (a : BitVec 7) (b : BitVec 7) (m : Bool)
  /-- `VSUB` (R176): Element-wise integer subtract. -/
  | vsub (d : BitVec 7) (a : BitVec 7) (b : BitVec 7) (m : Bool)
  /-- `VMUL` (R176): Element-wise integer multiply. -/
  | vmul (d : BitVec 7) (a : BitVec 7) (b : BitVec 7) (m : Bool)
  /-- `VMULH` (R176): Element-wise high half of the integer product. -/
  | vmulh (d : BitVec 7) (a : BitVec 7) (b : BitVec 7) (m : Bool)
  /-- `VMADD` (R176): Element-wise integer multiply-add into the destination. -/
  | vmadd (d : BitVec 7) (a : BitVec 7) (b : BitVec 7) (m : Bool)
  /-- `VMIN` (R176): Element-wise signed minimum. -/
  | vmin (d : BitVec 7) (a : BitVec 7) (b : BitVec 7) (m : Bool)
  /-- `VMAX` (R176): Element-wise signed maximum. -/
  | vmax (d : BitVec 7) (a : BitVec 7) (b : BitVec 7) (m : Bool)
  /-- `VABSD` (R176): Element-wise absolute difference. -/
  | vabsd (d : BitVec 7) (a : BitVec 7) (b : BitVec 7) (m : Bool)
  /-- `VMINU` (R176): Element-wise unsigned minimum. -/
  | vminu (d : BitVec 7) (a : BitVec 7) (b : BitVec 7) (m : Bool)
  /-- `VMAXU` (R176): Element-wise unsigned maximum. -/
  | vmaxu (d : BitVec 7) (a : BitVec 7) (b : BitVec 7) (m : Bool)
  /-- `VADDS` (R176): Element-wise saturating add. -/
  | vadds (d : BitVec 7) (a : BitVec 7) (b : BitVec 7) (m : Bool)
  /-- `VSUBS` (R176): Element-wise saturating subtract. -/
  | vsubs (d : BitVec 7) (a : BitVec 7) (b : BitVec 7) (m : Bool)
  /-- `VAVG` (R176): Element-wise rounded-up average. -/
  | vavg (d : BitVec 7) (a : BitVec 7) (b : BitVec 7) (m : Bool)
  /-- `VSHL` (R176): Element-wise left shift with range handling. -/
  | vshl (d : BitVec 7) (a : BitVec 7) (b : BitVec 7) (m : Bool)
  /-- `VSHR` (R176): Element-wise logical right shift. -/
  | vshr (d : BitVec 7) (a : BitVec 7) (b : BitVec 7) (m : Bool)
  /-- `VSRA` (R176): Element-wise arithmetic right shift. -/
  | vsra (d : BitVec 7) (a : BitVec 7) (b : BitVec 7) (m : Bool)
  /-- `VWADD` (R177): Widening exact add into a register group. -/
  | vwadd (d : BitVec 7) (a : BitVec 7) (b : BitVec 7) (m : Bool)
  /-- `VWMUL` (R177): Widening exact multiply into a register group. -/
  | vwmul (d : BitVec 7) (a : BitVec 7) (b : BitVec 7) (m : Bool)
  /-- `VCMPEQ` (R178): Writes a mask of element equality. -/
  | vcmpeq (d : BitVec 7) (a : BitVec 7) (b : BitVec 7) (m : Bool)
  /-- `VCMPNE` (R178): Writes a mask of element inequality. -/
  | vcmpne (d : BitVec 7) (a : BitVec 7) (b : BitVec 7) (m : Bool)
  /-- `VCMPLT` (R178): Writes a mask of signed less than. -/
  | vcmplt (d : BitVec 7) (a : BitVec 7) (b : BitVec 7) (m : Bool)
  /-- `VCMPLE` (R178): Writes a mask of signed less or equal. -/
  | vcmple (d : BitVec 7) (a : BitVec 7) (b : BitVec 7) (m : Bool)
  /-- `VCMPLTU` (R178): Writes a mask of unsigned less than. -/
  | vcmpltu (d : BitVec 7) (a : BitVec 7) (b : BitVec 7) (m : Bool)
  /-- `VCMPLEU` (R178): Writes a mask of unsigned less or equal. -/
  | vcmpleu (d : BitVec 7) (a : BitVec 7) (b : BitVec 7) (m : Bool)
  /-- `VFADD` (R179): Element-wise floating-point add, one rounding by frm. -/
  | vfadd (d : BitVec 7) (a : BitVec 7) (b : BitVec 7) (m : Bool)
  /-- `VFSUB` (R179): Element-wise floating-point subtract. -/
  | vfsub (d : BitVec 7) (a : BitVec 7) (b : BitVec 7) (m : Bool)
  /-- `VFMUL` (R179): Element-wise floating-point multiply. -/
  | vfmul (d : BitVec 7) (a : BitVec 7) (b : BitVec 7) (m : Bool)
  /-- `VFMA` (R179): Fused a × b + d with one rounding. -/
  | vfma (d : BitVec 7) (a : BitVec 7) (b : BitVec 7) (m : Bool)
  /-- `VFMS` (R179): Fused a × b − d with one rounding. -/
  | vfms (d : BitVec 7) (a : BitVec 7) (b : BitVec 7) (m : Bool)
  /-- `VFNMA` (R179): Fused d − a × b with one rounding. -/
  | vfnma (d : BitVec 7) (a : BitVec 7) (b : BitVec 7) (m : Bool)
  /-- `VFDIV` (R179): Element-wise floating-point divide. -/
  | vfdiv (d : BitVec 7) (a : BitVec 7) (b : BitVec 7) (m : Bool)
  /-- `VFMIN` (R180): Element-wise floating-point minimum. -/
  | vfmin (d : BitVec 7) (a : BitVec 7) (b : BitVec 7) (m : Bool)
  /-- `VFMAX` (R180): Element-wise floating-point maximum. -/
  | vfmax (d : BitVec 7) (a : BitVec 7) (b : BitVec 7) (m : Bool)
  /-- `VFABS` (R179): Clears the sign bit of each element. -/
  | vfabs (d : BitVec 7) (a : BitVec 7) (m : Bool)
  /-- `VFNEG` (R179): Inverts the sign bit of each element. -/
  | vfneg (d : BitVec 7) (a : BitVec 7) (m : Bool)
  /-- `VFCLASS` (R181): Writes a one-hot class of each element. -/
  | vfclass (d : BitVec 7) (a : BitVec 7) (m : Bool)
  /-- `VFSQRT` (R179): Element-wise square root. -/
  | vfsqrt (d : BitVec 7) (a : BitVec 7) (m : Bool)
  /-- `VFRCP` (R159): Element-wise reciprocal by TablePoly. -/
  | vfrcp (d : BitVec 7) (a : BitVec 7) (m : Bool)
  /-- `VFRSQ` (R159): Element-wise reciprocal square root by TablePoly. -/
  | vfrsq (d : BitVec 7) (a : BitVec 7) (m : Bool)
  /-- `VFEXP2` (R159): Element-wise 2^x by TablePoly. -/
  | vfexp2 (d : BitVec 7) (a : BitVec 7) (m : Bool)
  /-- `VFLOG2` (R159): Element-wise log2 by TablePoly. -/
  | vflog2 (d : BitVec 7) (a : BitVec 7) (m : Bool)
  /-- `VFTANH` (R159): Element-wise tanh by TablePoly. -/
  | vftanh (d : BitVec 7) (a : BitVec 7) (m : Bool)
  /-- `VFCMPEQ` (R182): Writes a mask of floating-point equality. -/
  | vfcmpeq (d : BitVec 7) (a : BitVec 7) (b : BitVec 7) (m : Bool)
  /-- `VFCMPLT` (R182): Writes a mask of floating-point less than. -/
  | vfcmplt (d : BitVec 7) (a : BitVec 7) (b : BitVec 7) (m : Bool)
  /-- `VFCMPLE` (R182): Writes a mask of floating-point less or equal. -/
  | vfcmple (d : BitVec 7) (a : BitVec 7) (b : BitVec 7) (m : Bool)
  /-- `VCVT` (R183): Converts each element to a destination format. -/
  | vcvt (d : BitVec 7) (a : BitVec 7) (c : BitVec 5) (m : Bool)
  /-- `VNARROW` (R184): Quantises float elements to grouped codes using scale entries. -/
  | vnarrow (d : BitVec 7) (a : BitVec 7) (b : BitVec 7) (m : Bool)
  /-- `VDQ` (R185): Dequantises grouped codes to f32 exactly. -/
  | vdq (d : BitVec 7) (a : BitVec 7) (b : BitVec 7) (m : Bool)
  /-- `VAND` (R218): Element-wise bitwise and. -/
  | vand (d : BitVec 7) (a : BitVec 7) (b : BitVec 7) (m : Bool)
  /-- `VOR` (R218): Element-wise bitwise or. -/
  | vor (d : BitVec 7) (a : BitVec 7) (b : BitVec 7) (m : Bool)
  /-- `VXOR` (R218): Element-wise bitwise exclusive or. -/
  | vxor (d : BitVec 7) (a : BitVec 7) (b : BitVec 7) (m : Bool)
  /-- `VFSHL` (R218): Funnel shift left of a and the old destination. -/
  | vfshl (d : BitVec 7) (a : BitVec 7) (b : BitVec 7) (m : Bool)
  /-- `VFSHR` (R218): Funnel shift right of the old destination and a. -/
  | vfshr (d : BitVec 7) (a : BitVec 7) (b : BitVec 7) (m : Bool)
  /-- `VROT` (R218): Element-wise rotate right. -/
  | vrot (d : BitVec 7) (a : BitVec 7) (b : BitVec 7) (m : Bool)
  /-- `VPOPC` (R218): Element-wise population count. -/
  | vpopc (d : BitVec 7) (a : BitVec 7) (m : Bool)
  /-- `VCLZ` (R218): Element-wise leading-zero count. -/
  | vclz (d : BitVec 7) (a : BitVec 7) (m : Bool)
  /-- `VLUT3_TT7_1` (R219): Three-input bitwise truth table, form with table bit 7 set (major 0x31). -/
  | vlut3Tt71 (t : BitVec 7) (d : BitVec 6) (a : BitVec 6) (b : BitVec 6)
  /-- `VLUT3_TT7_0` (R219): Three-input bitwise truth table, form with table bit 7 clear (major 0x32). -/
  | vlut3Tt70 (t : BitVec 7) (d : BitVec 6) (a : BitVec 6) (b : BitVec 6)
  /-- `VSLIDEUP` (R220): Rotates elements up within vl by a scalar amount. -/
  | vslideup (d : BitVec 7) (a : BitVec 7) (b : BitVec 7) (m : Bool)
  /-- `VSLIDEDN` (R220): Rotates elements down within vl by a scalar amount. -/
  | vslidedn (d : BitVec 7) (a : BitVec 7) (b : BitVec 7) (m : Bool)
  /-- `VGATHER` (R220): Gathers elements by indices from another register. -/
  | vgather (d : BitVec 7) (a : BitVec 7) (b : BitVec 7) (m : Bool)
  /-- `VCOMPRESS` (R221): Packs the m0-selected elements to the front. -/
  | vcompress (d : BitVec 7) (a : BitVec 7)
  /-- `VEXPAND` (R221): Spreads leading elements to the m0-selected positions. -/
  | vexpand (d : BitVec 7) (a : BitVec 7)
  /-- `VBCAST` (R220): Broadcasts the low EW bits of a scalar to every element. -/
  | vbcast (d : BitVec 7) (a : BitVec 7) (m : Bool)
  /-- `VTRANS` (R222): Transposes the register under vshape. -/
  | vtrans (d : BitVec 7) (a : BitVec 7) (m : Bool)
  /-- `VROWSH` (R222): Shifts each row by a signed scalar, filling with zero. -/
  | vrowsh (d : BitVec 7) (a : BitVec 7) (b : BitVec 7) (m : Bool)
  /-- `VREDSUM` (R223): Integer sum by pairwise tree into element 0. -/
  | vredsum (d : BitVec 7) (a : BitVec 7) (m : Bool)
  /-- `VREDMAX` (R223): Integer maximum reduction. -/
  | vredmax (d : BitVec 7) (a : BitVec 7) (m : Bool)
  /-- `VREDMIN` (R223): Integer minimum reduction. -/
  | vredmin (d : BitVec 7) (a : BitVec 7) (m : Bool)
  /-- `VREDAND` (R223): Bitwise and reduction. -/
  | vredand (d : BitVec 7) (a : BitVec 7) (m : Bool)
  /-- `VREDOR` (R223): Bitwise or reduction. -/
  | vredor (d : BitVec 7) (a : BitVec 7) (m : Bool)
  /-- `VFREDSUM` (R223): Floating-point sum by pairwise tree, rounding each combine. -/
  | vfredsum (d : BitVec 7) (a : BitVec 7) (m : Bool)
  /-- `VFREDMAX` (R223): Floating-point maximum reduction. -/
  | vfredmax (d : BitVec 7) (a : BitVec 7) (m : Bool)
  /-- `MAND` (R225): Mask and. -/
  | mand (d : BitVec 7) (a : BitVec 7) (b : BitVec 7)
  /-- `MOR` (R225): Mask or. -/
  | mor (d : BitVec 7) (a : BitVec 7) (b : BitVec 7)
  /-- `MXOR` (R225): Mask exclusive or. -/
  | mxor (d : BitVec 7) (a : BitVec 7) (b : BitVec 7)
  /-- `MNOT` (R225): Mask not. -/
  | mnot (d : BitVec 7) (a : BitVec 7)
  /-- `MPOPC` (R225): Counts set mask bits into a scalar. -/
  | mpopc (d : BitVec 7) (a : BitVec 7)
  /-- `MFIRST` (R225): Writes the index of the first set mask bit. -/
  | mfirst (d : BitVec 7) (a : BitVec 7)
  /-- `MSET` (R225): Sets mask bits within a scalar index range. -/
  | mset (d : BitVec 7) (a : BitVec 7) (b : BitVec 7)
  /-- `VCHAIN` (R226): Skips its n recorded words when executed in line. -/
  | vchain (n : BitVec 4)
  /-- `VCHRUN` (R229): Runs a recorded chain as one vector instruction with scratch registers. -/
  | vchrun (a : BitVec 7) (b : BitVec 7)
  /-- `QSET` (R191): Sets a stream with an immediate stride. -/
  | qset (d : BitVec 7) (a : BitVec 7) (i : BitVec 7)
  /-- `QSETX` (R191): Sets a stream with stride and count from a scalar. -/
  | qsetx (d : BitVec 7) (a : BitVec 7) (b : BitVec 7)
  /-- `QBIND` (R208): Binds a vector register to a stream for bound reads. -/
  | qbind (d : BitVec 7) (a : BitVec 7) (k : Bool)
  /-- `QUNBIND` (R208): Unbinds a vector register from its stream. -/
  | qunbind (d : BitVec 7)
  /-- `VLD` (R199): Loads the next vl stream positions, with element traps. -/
  | vld (d : BitVec 7) (a : BitVec 7) (m : Bool)
  /-- `VLDS` (R199): Strided two-dimensional stream load. -/
  | vlds (d : BitVec 7) (a : BitVec 7) (b : BitVec 7) (m : Bool)
  /-- `VLDX` (R199): Indexed stream load. -/
  | vldx (d : BitVec 7) (a : BitVec 7) (b : BitVec 7) (m : Bool)
  /-- `VST` (R202): Ordered stream store performed at retirement. -/
  | vst (d : BitVec 7) (a : BitVec 7) (m : Bool)
  /-- `VSTS` (R202): Ordered strided two-dimensional stream store. -/
  | vsts (d : BitVec 7) (a : BitVec 7) (b : BitVec 7) (m : Bool)
  /-- `VSTX` (R202): Ordered indexed stream store. -/
  | vstx (d : BitVec 7) (a : BitVec 7) (b : BitVec 7) (m : Bool)
  /-- `VSTU` (R204): Unordered stream store. -/
  | vstu (d : BitVec 7) (a : BitVec 7) (m : Bool)
  /-- `VSTN` (R206): Ordered stream store that writes a progress word. -/
  | vstn (d : BitVec 7) (a : BitVec 7) (b : BitVec 7) (m : Bool)
  /-- `VSTRC` (R207): Stream store that installs a reader count on EPH lines. -/
  | vstrc (d : BitVec 7) (a : BitVec 7) (b : BitVec 7) (m : Bool)
  /-- `VSPILL` (R211): Writes a vector register to a spill frame. -/
  | vspill (d : BitVec 7) (a : BitVec 7)
  /-- `VFILL` (R212): Reads a spill frame back into a vector register. -/
  | vfill (d : BitVec 7) (a : BitVec 7)
  /-- `KLD` (R213): Loads consecutive scale-file entries from memory. -/
  | kld (n : BitVec 10) (a : BitVec 6) (c : BitVec 4) (j : BitVec 4)
  /-- `TOP` (R288): One FP8 rank-1 step into a tile. -/
  | top (t : BitVec 4) (a : BitVec 7) (b : BitVec 7) (c : BitVec 3) (r : BitVec 3)
  /-- `TOPI` (R289): One INT8 rank-1 step into an i32 tile. -/
  | topi (t : BitVec 4) (a : BitVec 7) (b : BitVec 7) (c : BitVec 3) (r : BitVec 3)
  /-- `TOPQ` (R290): One whole group of grouped-weight steps, toggling the scale bank. -/
  | topq (t : BitVec 4) (a : BitVec 7) (b : BitVec 7) (c : BitVec 3) (r : BitVec 3)
  /-- `TOPH` (R288): One f16 or bf16 rank-1 step. -/
  | toph (t : BitVec 4) (a : BitVec 7) (b : BitVec 7) (c : BitVec 3) (r : BitVec 3)
  /-- `TOPS` (R291): An outer product with one operand read from the scratchpad. -/
  | tops (t : BitVec 4) (a : BitVec 7) (b : BitVec 7) (side : Bool) (c : BitVec 3) (r : BitVec 3)
  /-- `TMOVV` (R298): Copies tile rows into a vector register. -/
  | tmovv (t : BitVec 4) (d : BitVec 7) (b : BitVec 7)
  /-- `TMOVT` (R298): Copies a vector register into tile rows. -/
  | tmovt (t : BitVec 4) (a : BitVec 7) (b : BitVec 7)
  /-- `TEPI` (R299): Epilogue: scales, biases, activates and narrows tile rows into a vector register. -/
  | tepi (t : BitVec 4) (d : BitVec 7) (b : BitVec 7) (cb : Bool) (o : BitVec 2) (u : BitVec 2)
  /-- `TCFG` (R278): Writes tshape, tfmt and tgrp from one configuration word. -/
  | tcfg (d : BitVec 7)
  /-- `TZERO` (R279): Zeroes a tile and clears its VER bit. -/
  | tzero (d : BitVec 7)
  /-- `TSTAT` (R280): Reads tstat after earlier matrix instructions, optionally clearing RERUN. -/
  | tstat (d : BitVec 7) (c : Bool)
  /-- `DADD` (R318): Adds distributions by independent or rank pairing and condenses. -/
  | dadd (d : BitVec 7) (a : BitVec 7) (b : BitVec 7)
  /-- `DSUB` (R318): Subtracts distributions and condenses. -/
  | dsub (d : BitVec 7) (a : BitVec 7) (b : BitVec 7)
  /-- `DMUL` (R318): Multiplies distributions and condenses. -/
  | dmul (d : BitVec 7) (a : BitVec 7) (b : BitVec 7)
  /-- `DMAX` (R318): Maximum of distributions, condensed. -/
  | dmax (d : BitVec 7) (a : BitVec 7) (b : BitVec 7)
  /-- `DMIN` (R318): Minimum of distributions, condensed. -/
  | dmin (d : BitVec 7) (a : BitVec 7) (b : BitVec 7)
  /-- `DMIX` (R319): Mixes a distribution into the destination by a mass fraction. -/
  | dmix (d : BitVec 7) (a : BitVec 7) (b : BitVec 7)
  /-- `DAFF` (R320): Applies an affine map to each point. -/
  | daff (d : BitVec 7) (a : BitVec 7) (b : BitVec 7)
  /-- `DMOM` (R322): Writes the mean or a central moment. -/
  | dmom (d : BitVec 7) (a : BitVec 7) (k : BitVec 3)
  /-- `DQNT` (R323): Writes a quantile value. -/
  | dqnt (d : BitVec 7) (a : BitVec 7) (b : BitVec 7)
  /-- `DCDF` (R324): Writes the weight at or below a threshold. -/
  | dcdf (d : BitVec 7) (a : BitVec 7) (b : BitVec 7)
  /-- `DLD` (R326): Loads 64-byte distributions from a stream with a tag. -/
  | dld (d : BitVec 7) (a : BitVec 7) (c : BitVec 5)
  /-- `DST` (R326): Stores 64-byte distributions through a stream. -/
  | dst (d : BitVec 7) (a : BitVec 7)
  /-- `DFROMV` (R327): Makes point masses from vector elements. -/
  | dfromv (d : BitVec 7) (a : BitVec 7) (c : BitVec 5)
  /-- `DBUILD` (R328): Builds distributions from value and weight vectors. -/
  | dbuild (d : BitVec 7) (a : BitVec 7) (b : BitVec 7)
  /-- `DTAG` (R329): Copies a distribution register and sets its tag. -/
  | dtag (d : BitVec 7) (a : BitVec 7) (b : BitVec 7)
  /-- `XCOPY` (R335): Hands a three-dimensional copy to the cluster copy engine. -/
  | xcopy (a : BitVec 7) (b : BitVec 7)
  /-- `XGATH` (R336): Hands an indexed gather or scatter to the gather engine. -/
  | xgath (a : BitVec 7) (b : BitVec 7)
  /-- `XCOLL` (R337): Hands a collective to the die's collective engine. -/
  | xcoll (a : BitVec 7) (b : BitVec 7)
  /-- `BINIT` (R348): Initialises a barrier object. -/
  | binit (a : BitVec 7) (b : BitVec 7)
  /-- `BARRIVE` (R349): Counts arrivals against a barrier object, trapping on overrun. -/
  | barrive (a : BitVec 7) (n : BitVec 4)
  /-- `BEXPECT` (R350): Adds expected bytes to the current phase. -/
  | bexpect (a : BitVec 7) (b : BitVec 7)
  /-- `BWAIT` (R351): Waits for a barrier phase change, overrun or deadline. -/
  | bwait (d : BitVec 7) (a : BitVec 7) (b : BitVec 7)
  /-- `BTEST` (R353): Reads a barrier object without waiting. -/
  | btest (d : BitVec 7) (a : BitVec 7)
  /-- `DBAR` (R380): Arrives at the deterministic phase barrier after the task's accesses perform. -/
  | dbar
  /-- `SEAL` (R420): Requests the seal of the current interval and optionally waits. -/
  | seal (d : BitVec 7) (w : Bool)
  /-- `RINQ` (R421): Reads the RIN, sealed interval or occupancy. -/
  | rinq (d : BitVec 7) (k : BitVec 2)
  /-- `EXTW` (R420): Waits until the hart's irrevocable writes are sealed and released. -/
  | extw (d : BitVec 7)
  /-- `AWAIT_IMM` (R263): Advice waits for a mark occurrence given by immediates. -/
  | awaitImm (d : BitVec 6) (i : BitVec 11) (n : BitVec 7)
  /-- `AWAIT_REG` (R263): Advice waits for a mark occurrence given by registers. -/
  | awaitReg (d : BitVec 6) (a : BitVec 7) (b : BitVec 7)
  /-- `APREF` (R264): Advice prefetches lines to a cache level. -/
  | apref (l : BitVec 7) (a : BitVec 7) (e : BitVec 7) (v : BitVec 2)
  /-- `APLACE` (R266): Advice queues placement requests for pages. -/
  | aplace (a : BitVec 7) (b : BitVec 7) (g : BitVec 2)
  /-- `APRIO` (R265): Sets the hart's advice priority. -/
  | aprio (p : BitVec 4)
  /-- `AORDER` (R265): Sets the hart's issue-order mode. -/
  | aorder (p : BitVec 4)
  /-- `ALD` (R267): Advice load that never faults. -/
  | ald (d : BitVec 7) (a : BitVec 7) (i : BitVec 11)
  /-- `ADROP` (R268): Withdraws the context's hints. -/
  | adrop (p : BitVec 3)
  /-- `AEND` (R268): Ends the advice context. -/
  | aend
deriving DecidableEq, Repr

end Sys2Proof
end

