-- ==== Sys2Proof/WellFormed.lean ====
section
/-! DEFINITION. Sys2Proof/WellFormed.lean: what makes an instruction well formed: the checks of the operand values that a field admits
and the spec does not (05 R109, 16 R358, 13 R292), and the bounds of the operands of events. -/
namespace Sys2Proof

/-- The checks, one arm per constructor. -/
def Instr.wf (i : Instr) : Bool :=
  match i with
  | .add _ _ _ => true
  | .sub _ _ _ => true
  | .and _ _ _ => true
  | .or _ _ _ => true
  | .xor _ _ _ => true
  | .andn _ _ _ => true
  | .shl _ _ _ => true
  | .shr _ _ _ => true
  | .sra _ _ _ => true
  | .rotr _ _ _ => true
  | .slt _ _ _ => true
  | .sltu _ _ _ => true
  | .min _ _ _ => true
  | .max _ _ _ => true
  | .minu _ _ _ => true
  | .maxu _ _ _ => true
  | .mul _ _ _ => true
  | .mulh _ _ _ => true
  | .mulhu _ _ _ => true
  | .div _ _ _ => true
  | .divu _ _ _ => true
  | .rem _ _ _ => true
  | .remu _ _ _ => true
  | .clz _ _ => true
  | .ctz _ _ => true
  | .popc _ _ => true
  | .sel _ _ _ => true
  | .addi _ _ _ => true
  | .andi _ _ _ => true
  | .ori _ _ _ => true
  | .xori _ _ _ => true
  | .slti _ _ _ => true
  | .shli _ _ _ => true
  | .shri _ _ _ => true
  | .srai _ _ _ => true
  | .movi _ _ => true
  | .movhi _ _ => true
  | .addpc _ _ => true
  | .ldb _ _ _ => true
  | .ldbu _ _ _ => true
  | .ldh _ _ _ => true
  | .ldhu _ _ _ => true
  | .ldw _ _ _ => true
  | .ldwu _ _ _ => true
  | .ldd _ _ _ => true
  | .ldp _ _ _ => true
  | .stb _ _ _ => true
  | .sth _ _ _ => true
  | .stw _ _ _ => true
  | .std _ _ _ => true
  | .stp _ _ _ => true
  | .beq _ _ _ => true
  | .bne _ _ _ => true
  | .blt _ _ _ => true
  | .bge _ _ _ => true
  | .bltu _ _ _ => true
  | .bgeu _ _ _ => true
  | .loop _ _ => true
  | .loopi _ _ => true
  | .j _ => true
  | .jal _ _ => true
  | .jalr _ _ _ => true
  | .csrr _ _ => true
  | .csrw _ _ => true
  | .csrs _ _ => true
  | .csrc _ _ => true
  | .wbase _ => true
  | .mark _ => true
  | .trap _ => true
  | .eret => true
  | .yield => true
  | .park _ => true
  | .ozhash _ => true
  | .ozvrfy _ => true
  | .ozsign _ => true
  | .ozkdf _ => true
  | .ozrand _ => true
  | .ozwipe _ => true
  | .amoadd sc _ _ _ => decide (sc.toNat < 6)
  | .amoand sc _ _ _ => decide (sc.toNat < 6)
  | .amoor sc _ _ _ => decide (sc.toNat < 6)
  | .amoxor sc _ _ _ => decide (sc.toNat < 6)
  | .amomin sc _ _ _ => decide (sc.toNat < 6)
  | .amomax sc _ _ _ => decide (sc.toNat < 6)
  | .amominu sc _ _ _ => decide (sc.toNat < 6)
  | .amomaxu sc _ _ _ => decide (sc.toNat < 6)
  | .amoswap sc _ _ _ => decide (sc.toNat < 6)
  | .amoadd32 sc _ _ _ => decide (sc.toNat < 6)
  | .amoand32 sc _ _ _ => decide (sc.toNat < 6)
  | .amoor32 sc _ _ _ => decide (sc.toNat < 6)
  | .amoxor32 sc _ _ _ => decide (sc.toNat < 6)
  | .amomin32 sc _ _ _ => decide (sc.toNat < 6)
  | .amomax32 sc _ _ _ => decide (sc.toNat < 6)
  | .amominu32 sc _ _ _ => decide (sc.toNat < 6)
  | .amomaxu32 sc _ _ _ => decide (sc.toNat < 6)
  | .amoswap32 sc _ _ _ => decide (sc.toNat < 6)
  | .cas sc _ _ _ => decide (sc.toNat < 6)
  | .casp sc _ _ _ => decide (sc.toNat < 6)
  | .lda _ _ sc _ _ => decide (sc.toNat < 6)
  | .stl _ _ sc _ _ => decide (sc.toNat < 6)
  | .fence sc => decide (sc.toNat < 6)
  | .fenceSv sc => decide (sc.toNat < 6)
  | .fenceVs sc => decide (sc.toNat < 6)
  | .fenceVv sc => decide (sc.toNat < 6)
  | .monarm _ => true
  | .monwait _ _ => true
  | .cwb _ _ => true
  | .cinv _ _ => true
  | .cflush _ _ => true
  | .vsettype _ _ => true
  | .vsetshape _ _ _ => true
  | .vsetl _ _ => true
  | .vlq _ => true
  | .vadd _ _ _ _ => true
  | .vsub _ _ _ _ => true
  | .vmul _ _ _ _ => true
  | .vmulh _ _ _ _ => true
  | .vmadd _ _ _ _ => true
  | .vmin _ _ _ _ => true
  | .vmax _ _ _ _ => true
  | .vabsd _ _ _ _ => true
  | .vminu _ _ _ _ => true
  | .vmaxu _ _ _ _ => true
  | .vadds _ _ _ _ => true
  | .vsubs _ _ _ _ => true
  | .vavg _ _ _ _ => true
  | .vshl _ _ _ _ => true
  | .vshr _ _ _ _ => true
  | .vsra _ _ _ _ => true
  | .vwadd _ _ _ _ => true
  | .vwmul _ _ _ _ => true
  | .vcmpeq _ _ _ _ => true
  | .vcmpne _ _ _ _ => true
  | .vcmplt _ _ _ _ => true
  | .vcmple _ _ _ _ => true
  | .vcmpltu _ _ _ _ => true
  | .vcmpleu _ _ _ _ => true
  | .vfadd _ _ _ _ => true
  | .vfsub _ _ _ _ => true
  | .vfmul _ _ _ _ => true
  | .vfma _ _ _ _ => true
  | .vfms _ _ _ _ => true
  | .vfnma _ _ _ _ => true
  | .vfdiv _ _ _ _ => true
  | .vfmin _ _ _ _ => true
  | .vfmax _ _ _ _ => true
  | .vfabs _ _ _ => true
  | .vfneg _ _ _ => true
  | .vfclass _ _ _ => true
  | .vfsqrt _ _ _ => true
  | .vfrcp _ _ _ => true
  | .vfrsq _ _ _ => true
  | .vfexp2 _ _ _ => true
  | .vflog2 _ _ _ => true
  | .vftanh _ _ _ => true
  | .vfcmpeq _ _ _ _ => true
  | .vfcmplt _ _ _ _ => true
  | .vfcmple _ _ _ _ => true
  | .vcvt _ _ _ _ => true
  | .vnarrow _ _ _ _ => true
  | .vdq _ _ _ _ => true
  | .vand _ _ _ _ => true
  | .vor _ _ _ _ => true
  | .vxor _ _ _ _ => true
  | .vfshl _ _ _ _ => true
  | .vfshr _ _ _ _ => true
  | .vrot _ _ _ _ => true
  | .vpopc _ _ _ => true
  | .vclz _ _ _ => true
  | .vlut3Tt71 _ _ _ _ => true
  | .vlut3Tt70 _ _ _ _ => true
  | .vslideup _ _ _ _ => true
  | .vslidedn _ _ _ _ => true
  | .vgather _ _ _ _ => true
  | .vcompress _ _ => true
  | .vexpand _ _ => true
  | .vbcast _ _ _ => true
  | .vtrans _ _ _ => true
  | .vrowsh _ _ _ _ => true
  | .vredsum _ _ _ => true
  | .vredmax _ _ _ => true
  | .vredmin _ _ _ => true
  | .vredand _ _ _ => true
  | .vredor _ _ _ => true
  | .vfredsum _ _ _ => true
  | .vfredmax _ _ _ => true
  | .mand _ _ _ => true
  | .mor _ _ _ => true
  | .mxor _ _ _ => true
  | .mnot _ _ => true
  | .mpopc _ _ => true
  | .mfirst _ _ => true
  | .mset _ _ _ => true
  | .vchain _ => true
  | .vchrun _ _ => true
  | .qset _ _ _ => true
  | .qsetx _ _ _ => true
  | .qbind _ _ _ => true
  | .qunbind _ => true
  | .vld _ _ _ => true
  | .vlds _ _ _ _ => true
  | .vldx _ _ _ _ => true
  | .vst _ _ _ => true
  | .vsts _ _ _ _ => true
  | .vstx _ _ _ _ => true
  | .vstu _ _ _ => true
  | .vstn _ _ _ _ => true
  | .vstrc _ _ _ _ => true
  | .vspill _ _ => true
  | .vfill _ _ => true
  | .kld _ _ _ _ => true
  | .top _ _ _ _ _ => true
  | .topi _ _ _ _ _ => true
  | .topq _ _ _ _ _ => true
  | .toph _ _ _ _ _ => true
  | .tops _ _ _ _ _ _ => true
  | .tmovv _ _ _ => true
  | .tmovt _ _ _ => true
  | .tepi _ _ _ _ _ u => decide (u ≠ 3)
  | .tcfg _ => true
  | .tzero _ => true
  | .tstat _ _ => true
  | .dadd _ _ _ => true
  | .dsub _ _ _ => true
  | .dmul _ _ _ => true
  | .dmax _ _ _ => true
  | .dmin _ _ _ => true
  | .dmix _ _ _ => true
  | .daff _ _ _ => true
  | .dmom _ _ _ => true
  | .dqnt _ _ _ => true
  | .dcdf _ _ _ => true
  | .dld _ _ _ => true
  | .dst _ _ => true
  | .dfromv _ _ _ => true
  | .dbuild _ _ _ => true
  | .dtag _ _ _ => true
  | .xcopy _ _ => true
  | .xgath _ _ => true
  | .xcoll _ _ => true
  | .binit _ _ => true
  | .barrive _ _ => true
  | .bexpect _ _ => true
  | .bwait _ _ _ => true
  | .btest _ _ => true
  | .dbar => true
  | .seal _ _ => true
  | .rinq _ _ => true
  | .extw _ => true
  | .awaitImm _ _ _ => true
  | .awaitReg _ _ _ => true
  | .apref _ _ _ _ => true
  | .aplace _ _ _ => true
  | .aprio _ => true
  | .aorder _ => true
  | .ald _ _ _ => true
  | .adrop _ => true
  | .aend => true
  | .monitorWake _ => true
  | .monwaitTimeout _ => true
  | .engineCount _ => true
  | .transferRetire _ => true
  | .collMatch _ => true
  | .collTimeout _ => true
  | .bwaitWake _ => true
  | .bwaitDeadline _ => true
  | .detPhaseMerge _ => true
  | .awaitReturn _ => true
  | .adviceWatchdog _ => true
  | .hartWatchdog _ => true
  | .vectorSoftError _ => true
  | .sectorPoison _ _ _ => true
  | .hartAged _ => true
  | .hartResident _ => true
  | .contextSwitch _ => true
  | .contextRestore _ => true
  | .parkExpiry _ => true
  | .timeSlice _ _ => true
  | .graphPost _ _ => true
  | .followArmedWord _ => true
  | .nodeReady _ => true
  | .admitNode _ => true
  | .evalCond _ => true
  | .evalLoop _ => true
  | .evalSwitch _ => true
  | .signalWrite _ => true
  | .nodeDone _ => true
  | .nodeRetire _ => true
  | .resDone => true
  | .invGo _ => true
  | .invalidationDone => true
  | .remapWrite _ _ _ => true
  | .migratePage _ _ _ => true
  | .graphCtlWrite _ _ => true
  | .rds r _ => decide (r.toNat < 5)
  | .rdx r _ => decide (r.toNat < 5)
  | .upg r _ => decide (r.toNat < 5)
  | .wbd r _ _ => decide (r.toNat < 5)
  | .evc r _ => decide (r.toNat < 5)
  | .invack r _ => decide (r.toNat < 5)
  | .ack r _ _ => decide (r.toNat < 5)
  | .ackd r _ _ => decide (r.toNat < 5)
  | .data r _ => decide (r.toNat < 5)
  | .datae r _ => decide (r.toNat < 5)
  | .grante r _ => decide (r.toNat < 5)
  | .inv r _ => decide (r.toNat < 5)
  | .recalls r _ => decide (r.toNat < 5)
  | .recalli r _ => decide (r.toNat < 5)
  | .wback r _ => decide (r.toNat < 5)
  | .hbmActRefresh _ _ => true
  | .actParityError _ _ => true
  | .sealTimer => true
  | .sealRequest _ => true
  | .start _ => true
  | .sealDrainDone => true
  | .vote _ _ => true
  | .sealed _ => true
  | .voteTimeout _ => true
  | .rollback => true
  | .parityBuildDone => true
  | .parRbGo _ => true
  | .straitLinkTrain _ _ _ _ _ => true
  | .straitLinkDown _ => true
  | .cwPortTrain _ _ _ => true
  | .cwPortDown _ => true
  | .hostPostedWrite _ _ => true
  | .hostRead _ _ => true
  | .hostAtomic _ _ _ _ => true
  | .errPop _ => true
  | .errOvfClear _ => true
  | .fwUpdateGo _ _ _ => true
  | .fwQuiesceDone => true
  | .fwQuiesceTimeout => true
  | .fwHandover => true
  | .fwHb _ => true
  | .fwHbTimeout => true
  | .debugUnlock _ => true
  | .negotiateAlgorithms _ _ => true
  | .getMeasurements _ _ => true
  | .rstCtlCold => true
  | .rstCtlWarm => true
  | .resetInput _ => true
  | .supplyFault => true
  | .referenceLoss => true
  | .thermalThrottle _ _ => true
  | .thermalRecover _ _ => true
  | .thermalTrip _ _ => true
  | .mgmtRegisterWrite _ _ => true
  | .reservedEncoding _ => true
  | .powerUp => true
  | .rebuildDone => true
  | .straitFlitReplay _ => true
  | .cwFlitReplay _ => true
  | .frameForward _ _ _ => true

/-- A well-formed instruction. -/
abbrev WellFormed (i : Instr) : Prop := i.wf = true

end Sys2Proof
end

