-- ==== Sys2Proof/Decode.lean ====
section
/-! DEFINITION. Sys2Proof/Decode.lean: from a 32-bit word to an instruction and back, written from Table 5.3 (formats) and Table 5.4
(opcode map) of 05. A word that matches no row, or has a bit set in a field shown as zero, is a reserved encoding and decodes to `none`
(R109); so do scope codes 6 and 7 (R358) and the function code 3 of TEPI (13 R292). The decoder is marked noncomputable for one reason:
the compiled runtime holds at most 245 constructor tags and Instr has 354; it is a plain definition that the kernel evaluates. -/
namespace Sys2Proof

/-- Bits `lo` to `lo + n - 1` of a word, as a number. -/
def bits (w : BitVec 32) (lo n : Nat) : Nat := w.toNat / 2 ^ lo % 2 ^ n

/-- The same bits as a field of width `n`. -/
def field (w : BitVec 32) (lo n : Nat) : BitVec n := BitVec.ofNat n (bits w lo n)

/-- One bit of a word. -/
def flag (w : BitVec 32) (lo : Nat) : Bool := decide (bits w lo 1 = 1)

/-- The words of major code 0x01 (Table 5.4). -/
noncomputable def decode01 (w : BitVec 32) : Option Instr :=
  if bits w 0 4 = 0 then some (.add (field w 18 7) (field w 11 7) (field w 4 7))
  else if bits w 0 4 = 1 then some (.sub (field w 18 7) (field w 11 7) (field w 4 7))
  else if bits w 0 4 = 2 then some (.and (field w 18 7) (field w 11 7) (field w 4 7))
  else if bits w 0 4 = 3 then some (.or (field w 18 7) (field w 11 7) (field w 4 7))
  else if bits w 0 4 = 4 then some (.xor (field w 18 7) (field w 11 7) (field w 4 7))
  else if bits w 0 4 = 5 then some (.andn (field w 18 7) (field w 11 7) (field w 4 7))
  else if bits w 0 4 = 6 then some (.shl (field w 18 7) (field w 11 7) (field w 4 7))
  else if bits w 0 4 = 7 then some (.shr (field w 18 7) (field w 11 7) (field w 4 7))
  else if bits w 0 4 = 8 then some (.sra (field w 18 7) (field w 11 7) (field w 4 7))
  else if bits w 0 4 = 9 then some (.rotr (field w 18 7) (field w 11 7) (field w 4 7))
  else if bits w 0 4 = 10 then some (.slt (field w 18 7) (field w 11 7) (field w 4 7))
  else if bits w 0 4 = 11 then some (.sltu (field w 18 7) (field w 11 7) (field w 4 7))
  else if bits w 0 4 = 12 then some (.min (field w 18 7) (field w 11 7) (field w 4 7))
  else if bits w 0 4 = 13 then some (.max (field w 18 7) (field w 11 7) (field w 4 7))
  else if bits w 0 4 = 14 then some (.minu (field w 18 7) (field w 11 7) (field w 4 7))
  else if bits w 0 4 = 15 then some (.maxu (field w 18 7) (field w 11 7) (field w 4 7))
  else none

/-- The words of major code 0x02 (Table 5.4). -/
noncomputable def decode02 (w : BitVec 32) : Option Instr :=
  if bits w 0 4 = 0 then some (.mul (field w 18 7) (field w 11 7) (field w 4 7))
  else if bits w 0 4 = 1 then some (.mulh (field w 18 7) (field w 11 7) (field w 4 7))
  else if bits w 0 4 = 2 then some (.mulhu (field w 18 7) (field w 11 7) (field w 4 7))
  else if bits w 0 4 = 3 then some (.div (field w 18 7) (field w 11 7) (field w 4 7))
  else if bits w 0 4 = 4 then some (.divu (field w 18 7) (field w 11 7) (field w 4 7))
  else if bits w 0 4 = 5 then some (.rem (field w 18 7) (field w 11 7) (field w 4 7))
  else if bits w 0 4 = 6 then some (.remu (field w 18 7) (field w 11 7) (field w 4 7))
  else none

/-- The words of major code 0x03 (Table 5.4). -/
noncomputable def decode03 (w : BitVec 32) : Option Instr :=
  if bits w 0 4 = 0 ∧ bits w 4 7 = 0 then some (.clz (field w 18 7) (field w 11 7))
  else if bits w 0 4 = 1 ∧ bits w 4 7 = 0 then some (.ctz (field w 18 7) (field w 11 7))
  else if bits w 0 4 = 2 ∧ bits w 4 7 = 0 then some (.popc (field w 18 7) (field w 11 7))
  else if bits w 0 4 = 3 then some (.sel (field w 18 7) (field w 11 7) (field w 4 7))
  else none

/-- The words of major code 0x04 (Table 5.4). -/
noncomputable def decode04 (w : BitVec 32) : Option Instr :=
  some (.addi (field w 18 7) (field w 11 7) (field w 0 11))

/-- The words of major code 0x05 (Table 5.4). -/
noncomputable def decode05 (w : BitVec 32) : Option Instr :=
  some (.andi (field w 18 7) (field w 11 7) (field w 0 11))

/-- The words of major code 0x06 (Table 5.4). -/
noncomputable def decode06 (w : BitVec 32) : Option Instr :=
  some (.ori (field w 18 7) (field w 11 7) (field w 0 11))

/-- The words of major code 0x07 (Table 5.4). -/
noncomputable def decode07 (w : BitVec 32) : Option Instr :=
  some (.xori (field w 18 7) (field w 11 7) (field w 0 11))

/-- The words of major code 0x08 (Table 5.4). -/
noncomputable def decode08 (w : BitVec 32) : Option Instr :=
  some (.slti (field w 18 7) (field w 11 7) (field w 0 11))

/-- The words of major code 0x09 (Table 5.4). -/
noncomputable def decode09 (w : BitVec 32) : Option Instr :=
  if bits w 24 1 = 0 ∧ bits w 17 1 = 0 ∧ bits w 6 5 = 0 then some (.shli (field w 18 6) (field w 11 6) (field w 0 6))
  else if bits w 24 1 = 0 ∧ bits w 17 1 = 1 ∧ bits w 6 5 = 0 then some (.shri (field w 18 6) (field w 11 6) (field w 0 6))
  else if bits w 24 1 = 1 ∧ bits w 17 1 = 0 ∧ bits w 6 5 = 0 then some (.srai (field w 18 6) (field w 11 6) (field w 0 6))
  else none

/-- The words of major code 0x0A (Table 5.4). -/
noncomputable def decode0A (w : BitVec 32) : Option Instr :=
  some (.movi (field w 18 7) (field w 0 18))

/-- The words of major code 0x0B (Table 5.4). -/
noncomputable def decode0B (w : BitVec 32) : Option Instr :=
  if bits w 24 1 = 0 then some (.movhi (field w 18 6) (field w 0 18))
  else if bits w 24 1 = 1 then some (.addpc (field w 18 6) (field w 0 18))
  else none

/-- The words of major code 0x0C (Table 5.4). -/
noncomputable def decode0C (w : BitVec 32) : Option Instr :=
  if bits w 24 1 = 0 ∧ bits w 17 1 = 0 then some (.ldb (field w 18 6) (field w 11 6) (field w 0 11))
  else if bits w 24 1 = 0 ∧ bits w 17 1 = 1 then some (.ldbu (field w 18 6) (field w 11 6) (field w 0 11))
  else if bits w 24 1 = 1 ∧ bits w 17 1 = 0 then some (.ldh (field w 18 6) (field w 11 6) (field w 0 11))
  else if bits w 24 1 = 1 ∧ bits w 17 1 = 1 then some (.ldhu (field w 18 6) (field w 11 6) (field w 0 11))
  else none

/-- The words of major code 0x0D (Table 5.4). -/
noncomputable def decode0D (w : BitVec 32) : Option Instr :=
  if bits w 24 1 = 0 ∧ bits w 17 1 = 0 then some (.ldw (field w 18 6) (field w 11 6) (field w 0 11))
  else if bits w 24 1 = 0 ∧ bits w 17 1 = 1 then some (.ldwu (field w 18 6) (field w 11 6) (field w 0 11))
  else if bits w 24 1 = 1 ∧ bits w 17 1 = 0 then some (.ldd (field w 18 6) (field w 11 6) (field w 0 11))
  else if bits w 24 1 = 1 ∧ bits w 17 1 = 1 then some (.ldp (field w 18 6) (field w 11 6) (field w 0 11))
  else none

/-- The words of major code 0x0E (Table 5.4). -/
noncomputable def decode0E (w : BitVec 32) : Option Instr :=
  if bits w 24 1 = 0 ∧ bits w 17 1 = 0 then some (.stb (field w 18 6) (field w 11 6) (field w 0 11))
  else if bits w 24 1 = 0 ∧ bits w 17 1 = 1 then some (.sth (field w 18 6) (field w 11 6) (field w 0 11))
  else if bits w 24 1 = 1 ∧ bits w 17 1 = 0 then some (.stw (field w 18 6) (field w 11 6) (field w 0 11))
  else if bits w 24 1 = 1 ∧ bits w 17 1 = 1 then some (.std (field w 18 6) (field w 11 6) (field w 0 11))
  else none

/-- The words of major code 0x0F (Table 5.4). -/
noncomputable def decode0F (w : BitVec 32) : Option Instr :=
  if bits w 24 1 = 0 ∧ bits w 17 1 = 0 then some (.stp (field w 18 6) (field w 11 6) (field w 0 11))
  else none

/-- The words of major code 0x10 (Table 5.4). -/
noncomputable def decode10 (w : BitVec 32) : Option Instr :=
  if bits w 24 1 = 0 ∧ bits w 17 1 = 0 then some (.beq (field w 18 6) (field w 11 6) (field w 0 11))
  else if bits w 24 1 = 0 ∧ bits w 17 1 = 1 then some (.bne (field w 18 6) (field w 11 6) (field w 0 11))
  else if bits w 24 1 = 1 ∧ bits w 17 1 = 0 then some (.blt (field w 18 6) (field w 11 6) (field w 0 11))
  else if bits w 24 1 = 1 ∧ bits w 17 1 = 1 then some (.bge (field w 18 6) (field w 11 6) (field w 0 11))
  else none

/-- The words of major code 0x11 (Table 5.4). -/
noncomputable def decode11 (w : BitVec 32) : Option Instr :=
  if bits w 24 1 = 0 ∧ bits w 17 1 = 0 then some (.bltu (field w 18 6) (field w 11 6) (field w 0 11))
  else if bits w 24 1 = 0 ∧ bits w 17 1 = 1 then some (.bgeu (field w 18 6) (field w 11 6) (field w 0 11))
  else if bits w 24 1 = 1 ∧ bits w 17 1 = 0 ∧ bits w 11 6 = 0 then some (.loop (field w 18 6) (field w 0 11))
  else if bits w 24 1 = 1 ∧ bits w 17 1 = 1 then some (.loopi (BitVec.ofNat 12 (bits w 18 6 * 64 + bits w 11 6)) (field w 0 11))
  else none

/-- The words of major code 0x12 (Table 5.4). -/
noncomputable def decode12 (w : BitVec 32) : Option Instr :=
  some (.j (field w 0 25))

/-- The words of major code 0x13 (Table 5.4). -/
noncomputable def decode13 (w : BitVec 32) : Option Instr :=
  if bits w 24 1 = 0 then some (.jal (field w 18 6) (field w 0 18))
  else if bits w 24 1 = 1 ∧ bits w 17 1 = 0 then some (.jalr (field w 18 6) (field w 11 6) (field w 0 11))
  else none

/-- The words of major code 0x14 (Table 5.4). -/
noncomputable def decode14 (w : BitVec 32) : Option Instr :=
  if bits w 0 6 = 0 then some (.csrr (field w 18 7) (field w 6 12))
  else if bits w 0 6 = 1 then some (.csrw (field w 18 7) (field w 6 12))
  else if bits w 0 6 = 2 then some (.csrs (field w 18 7) (field w 6 12))
  else if bits w 0 6 = 3 then some (.csrc (field w 18 7) (field w 6 12))
  else none

/-- The words of major code 0x15 (Table 5.4). -/
noncomputable def decode15 (w : BitVec 32) : Option Instr :=
  if bits w 18 7 = 0 ∧ bits w 11 7 = 0 then some (.wbase (field w 0 11))
  else none

/-- The words of major code 0x16 (Table 5.4). -/
noncomputable def decode16 (w : BitVec 32) : Option Instr :=
  if bits w 16 2 = 0 ∧ bits w 18 7 = 0 then some (.mark (field w 0 16))
  else none

/-- The words of major code 0x17 (Table 5.4). -/
noncomputable def decode17 (w : BitVec 32) : Option Instr :=
  if bits w 0 6 = 0 ∧ bits w 18 7 = 0 then some (.trap (field w 6 12))
  else if bits w 0 6 = 1 ∧ bits w 18 7 = 0 ∧ bits w 6 12 = 0 then some .eret
  else if bits w 0 6 = 2 ∧ bits w 18 7 = 0 ∧ bits w 6 12 = 0 then some .yield
  else if bits w 0 6 = 3 ∧ bits w 18 7 = 0 then some (.park (field w 6 12))
  else if bits w 0 6 = 8 ∧ bits w 6 12 = 0 then some (.ozhash (field w 18 7))
  else if bits w 0 6 = 9 ∧ bits w 6 12 = 0 then some (.ozvrfy (field w 18 7))
  else if bits w 0 6 = 10 ∧ bits w 6 12 = 0 then some (.ozsign (field w 18 7))
  else if bits w 0 6 = 11 ∧ bits w 6 12 = 0 then some (.ozkdf (field w 18 7))
  else if bits w 0 6 = 12 ∧ bits w 6 12 = 0 then some (.ozrand (field w 18 7))
  else if bits w 0 6 = 13 ∧ bits w 6 12 = 0 then some (.ozwipe (field w 18 7))
  else none

/-- The words of major code 0x18 (Table 5.4). -/
noncomputable def decode18 (w : BitVec 32) : Option Instr :=
  if bits w 0 4 = 0 ∧ bits w 24 1 * 4 + bits w 17 1 * 2 + bits w 10 1 < 6 then some (.amoadd (BitVec.ofNat 3 (bits w 24 1 * 4 + bits w 17 1 * 2 + bits w 10 1)) (field w 18 6) (field w 11 6) (field w 4 6))
  else if bits w 0 4 = 1 ∧ bits w 24 1 * 4 + bits w 17 1 * 2 + bits w 10 1 < 6 then some (.amoand (BitVec.ofNat 3 (bits w 24 1 * 4 + bits w 17 1 * 2 + bits w 10 1)) (field w 18 6) (field w 11 6) (field w 4 6))
  else if bits w 0 4 = 2 ∧ bits w 24 1 * 4 + bits w 17 1 * 2 + bits w 10 1 < 6 then some (.amoor (BitVec.ofNat 3 (bits w 24 1 * 4 + bits w 17 1 * 2 + bits w 10 1)) (field w 18 6) (field w 11 6) (field w 4 6))
  else if bits w 0 4 = 3 ∧ bits w 24 1 * 4 + bits w 17 1 * 2 + bits w 10 1 < 6 then some (.amoxor (BitVec.ofNat 3 (bits w 24 1 * 4 + bits w 17 1 * 2 + bits w 10 1)) (field w 18 6) (field w 11 6) (field w 4 6))
  else if bits w 0 4 = 4 ∧ bits w 24 1 * 4 + bits w 17 1 * 2 + bits w 10 1 < 6 then some (.amomin (BitVec.ofNat 3 (bits w 24 1 * 4 + bits w 17 1 * 2 + bits w 10 1)) (field w 18 6) (field w 11 6) (field w 4 6))
  else if bits w 0 4 = 5 ∧ bits w 24 1 * 4 + bits w 17 1 * 2 + bits w 10 1 < 6 then some (.amomax (BitVec.ofNat 3 (bits w 24 1 * 4 + bits w 17 1 * 2 + bits w 10 1)) (field w 18 6) (field w 11 6) (field w 4 6))
  else if bits w 0 4 = 6 ∧ bits w 24 1 * 4 + bits w 17 1 * 2 + bits w 10 1 < 6 then some (.amominu (BitVec.ofNat 3 (bits w 24 1 * 4 + bits w 17 1 * 2 + bits w 10 1)) (field w 18 6) (field w 11 6) (field w 4 6))
  else if bits w 0 4 = 7 ∧ bits w 24 1 * 4 + bits w 17 1 * 2 + bits w 10 1 < 6 then some (.amomaxu (BitVec.ofNat 3 (bits w 24 1 * 4 + bits w 17 1 * 2 + bits w 10 1)) (field w 18 6) (field w 11 6) (field w 4 6))
  else if bits w 0 4 = 8 ∧ bits w 24 1 * 4 + bits w 17 1 * 2 + bits w 10 1 < 6 then some (.amoswap (BitVec.ofNat 3 (bits w 24 1 * 4 + bits w 17 1 * 2 + bits w 10 1)) (field w 18 6) (field w 11 6) (field w 4 6))
  else none

/-- The words of major code 0x19 (Table 5.4). -/
noncomputable def decode19 (w : BitVec 32) : Option Instr :=
  if bits w 0 4 = 0 ∧ bits w 24 1 * 4 + bits w 17 1 * 2 + bits w 10 1 < 6 then some (.amoadd32 (BitVec.ofNat 3 (bits w 24 1 * 4 + bits w 17 1 * 2 + bits w 10 1)) (field w 18 6) (field w 11 6) (field w 4 6))
  else if bits w 0 4 = 1 ∧ bits w 24 1 * 4 + bits w 17 1 * 2 + bits w 10 1 < 6 then some (.amoand32 (BitVec.ofNat 3 (bits w 24 1 * 4 + bits w 17 1 * 2 + bits w 10 1)) (field w 18 6) (field w 11 6) (field w 4 6))
  else if bits w 0 4 = 2 ∧ bits w 24 1 * 4 + bits w 17 1 * 2 + bits w 10 1 < 6 then some (.amoor32 (BitVec.ofNat 3 (bits w 24 1 * 4 + bits w 17 1 * 2 + bits w 10 1)) (field w 18 6) (field w 11 6) (field w 4 6))
  else if bits w 0 4 = 3 ∧ bits w 24 1 * 4 + bits w 17 1 * 2 + bits w 10 1 < 6 then some (.amoxor32 (BitVec.ofNat 3 (bits w 24 1 * 4 + bits w 17 1 * 2 + bits w 10 1)) (field w 18 6) (field w 11 6) (field w 4 6))
  else if bits w 0 4 = 4 ∧ bits w 24 1 * 4 + bits w 17 1 * 2 + bits w 10 1 < 6 then some (.amomin32 (BitVec.ofNat 3 (bits w 24 1 * 4 + bits w 17 1 * 2 + bits w 10 1)) (field w 18 6) (field w 11 6) (field w 4 6))
  else if bits w 0 4 = 5 ∧ bits w 24 1 * 4 + bits w 17 1 * 2 + bits w 10 1 < 6 then some (.amomax32 (BitVec.ofNat 3 (bits w 24 1 * 4 + bits w 17 1 * 2 + bits w 10 1)) (field w 18 6) (field w 11 6) (field w 4 6))
  else if bits w 0 4 = 6 ∧ bits w 24 1 * 4 + bits w 17 1 * 2 + bits w 10 1 < 6 then some (.amominu32 (BitVec.ofNat 3 (bits w 24 1 * 4 + bits w 17 1 * 2 + bits w 10 1)) (field w 18 6) (field w 11 6) (field w 4 6))
  else if bits w 0 4 = 7 ∧ bits w 24 1 * 4 + bits w 17 1 * 2 + bits w 10 1 < 6 then some (.amomaxu32 (BitVec.ofNat 3 (bits w 24 1 * 4 + bits w 17 1 * 2 + bits w 10 1)) (field w 18 6) (field w 11 6) (field w 4 6))
  else if bits w 0 4 = 8 ∧ bits w 24 1 * 4 + bits w 17 1 * 2 + bits w 10 1 < 6 then some (.amoswap32 (BitVec.ofNat 3 (bits w 24 1 * 4 + bits w 17 1 * 2 + bits w 10 1)) (field w 18 6) (field w 11 6) (field w 4 6))
  else none

/-- The words of major code 0x1A (Table 5.4). -/
noncomputable def decode1A (w : BitVec 32) : Option Instr :=
  if bits w 0 4 = 0 ∧ bits w 24 1 * 4 + bits w 17 1 * 2 + bits w 10 1 < 6 then some (.cas (BitVec.ofNat 3 (bits w 24 1 * 4 + bits w 17 1 * 2 + bits w 10 1)) (field w 18 6) (field w 11 6) (field w 4 6))
  else if bits w 0 4 = 1 ∧ bits w 24 1 * 4 + bits w 17 1 * 2 + bits w 10 1 < 6 then some (.casp (BitVec.ofNat 3 (bits w 24 1 * 4 + bits w 17 1 * 2 + bits w 10 1)) (field w 18 6) (field w 11 6) (field w 4 6))
  else none

/-- The words of major code 0x1B (Table 5.4). -/
noncomputable def decode1B (w : BitVec 32) : Option Instr :=
  if bits w 24 1 = 0 ∧ bits w 17 1 = 0 ∧ bits w 8 3 < 6 then some (.lda (field w 18 6) (field w 11 6) (field w 8 3) (flag w 7) (field w 0 7))
  else if bits w 24 1 = 1 ∧ bits w 17 1 = 0 ∧ bits w 8 3 < 6 then some (.stl (field w 18 6) (field w 11 6) (field w 8 3) (flag w 7) (field w 0 7))
  else none

/-- The words of major code 0x1C (Table 5.4). -/
noncomputable def decode1C (w : BitVec 32) : Option Instr :=
  if bits w 0 3 = 0 ∧ bits w 18 7 = 0 ∧ bits w 6 12 = 0 ∧ bits w 3 3 < 6 then some (.fence (field w 3 3))
  else if bits w 0 3 = 1 ∧ bits w 18 7 = 0 ∧ bits w 6 12 = 0 ∧ bits w 3 3 < 6 then some (.fenceSv (field w 3 3))
  else if bits w 0 3 = 2 ∧ bits w 18 7 = 0 ∧ bits w 6 12 = 0 ∧ bits w 3 3 < 6 then some (.fenceVs (field w 3 3))
  else if bits w 0 3 = 3 ∧ bits w 18 7 = 0 ∧ bits w 6 12 = 0 ∧ bits w 3 3 < 6 then some (.fenceVv (field w 3 3))
  else none

/-- The words of major code 0x1D (Table 5.4). -/
noncomputable def decode1D (w : BitVec 32) : Option Instr :=
  if bits w 0 4 = 0 ∧ bits w 18 7 = 0 ∧ bits w 4 7 = 0 then some (.monarm (field w 11 7))
  else if bits w 0 4 = 1 ∧ bits w 11 7 = 0 then some (.monwait (field w 18 7) (field w 4 7))
  else none

/-- The words of major code 0x1E (Table 5.4). -/
noncomputable def decode1E (w : BitVec 32) : Option Instr :=
  if bits w 0 4 = 0 ∧ bits w 18 7 = 0 then some (.cwb (field w 11 7) (field w 4 7))
  else if bits w 0 4 = 1 ∧ bits w 18 7 = 0 then some (.cinv (field w 11 7) (field w 4 7))
  else if bits w 0 4 = 2 ∧ bits w 18 7 = 0 then some (.cflush (field w 11 7) (field w 4 7))
  else none

/-- The words of major code 0x20 (Table 5.4). -/
noncomputable def decode20 (w : BitVec 32) : Option Instr :=
  if bits w 0 4 = 0 ∧ bits w 17 1 = 0 then some (.vsettype (field w 18 7) (field w 4 13))
  else if bits w 0 4 = 1 then some (.vsetshape (field w 18 7) (field w 11 7) (field w 4 7))
  else if bits w 0 4 = 2 ∧ bits w 4 7 = 0 then some (.vsetl (field w 18 7) (field w 11 7))
  else if bits w 0 4 = 3 ∧ bits w 11 7 = 0 ∧ bits w 4 7 = 0 then some (.vlq (field w 18 7))
  else none

/-- The words of major code 0x21 (Table 5.4). -/
noncomputable def decode21 (w : BitVec 32) : Option Instr :=
  if bits w 0 3 = 0 then some (.vadd (field w 18 7) (field w 11 7) (field w 4 7) (flag w 3))
  else if bits w 0 3 = 1 then some (.vsub (field w 18 7) (field w 11 7) (field w 4 7) (flag w 3))
  else if bits w 0 3 = 2 then some (.vmul (field w 18 7) (field w 11 7) (field w 4 7) (flag w 3))
  else if bits w 0 3 = 3 then some (.vmulh (field w 18 7) (field w 11 7) (field w 4 7) (flag w 3))
  else if bits w 0 3 = 4 then some (.vmadd (field w 18 7) (field w 11 7) (field w 4 7) (flag w 3))
  else if bits w 0 3 = 5 then some (.vmin (field w 18 7) (field w 11 7) (field w 4 7) (flag w 3))
  else if bits w 0 3 = 6 then some (.vmax (field w 18 7) (field w 11 7) (field w 4 7) (flag w 3))
  else if bits w 0 3 = 7 then some (.vabsd (field w 18 7) (field w 11 7) (field w 4 7) (flag w 3))
  else none

/-- The words of major code 0x22 (Table 5.4). -/
noncomputable def decode22 (w : BitVec 32) : Option Instr :=
  if bits w 0 3 = 0 then some (.vminu (field w 18 7) (field w 11 7) (field w 4 7) (flag w 3))
  else if bits w 0 3 = 1 then some (.vmaxu (field w 18 7) (field w 11 7) (field w 4 7) (flag w 3))
  else if bits w 0 3 = 2 then some (.vadds (field w 18 7) (field w 11 7) (field w 4 7) (flag w 3))
  else if bits w 0 3 = 3 then some (.vsubs (field w 18 7) (field w 11 7) (field w 4 7) (flag w 3))
  else if bits w 0 3 = 4 then some (.vavg (field w 18 7) (field w 11 7) (field w 4 7) (flag w 3))
  else if bits w 0 3 = 5 then some (.vshl (field w 18 7) (field w 11 7) (field w 4 7) (flag w 3))
  else if bits w 0 3 = 6 then some (.vshr (field w 18 7) (field w 11 7) (field w 4 7) (flag w 3))
  else if bits w 0 3 = 7 then some (.vsra (field w 18 7) (field w 11 7) (field w 4 7) (flag w 3))
  else none

/-- The words of major code 0x23 (Table 5.4). -/
noncomputable def decode23 (w : BitVec 32) : Option Instr :=
  if bits w 0 3 = 0 then some (.vwadd (field w 18 7) (field w 11 7) (field w 4 7) (flag w 3))
  else if bits w 0 3 = 1 then some (.vwmul (field w 18 7) (field w 11 7) (field w 4 7) (flag w 3))
  else none

/-- The words of major code 0x24 (Table 5.4). -/
noncomputable def decode24 (w : BitVec 32) : Option Instr :=
  if bits w 0 3 = 0 then some (.vcmpeq (field w 18 7) (field w 11 7) (field w 4 7) (flag w 3))
  else if bits w 0 3 = 1 then some (.vcmpne (field w 18 7) (field w 11 7) (field w 4 7) (flag w 3))
  else if bits w 0 3 = 2 then some (.vcmplt (field w 18 7) (field w 11 7) (field w 4 7) (flag w 3))
  else if bits w 0 3 = 3 then some (.vcmple (field w 18 7) (field w 11 7) (field w 4 7) (flag w 3))
  else if bits w 0 3 = 4 then some (.vcmpltu (field w 18 7) (field w 11 7) (field w 4 7) (flag w 3))
  else if bits w 0 3 = 5 then some (.vcmpleu (field w 18 7) (field w 11 7) (field w 4 7) (flag w 3))
  else none

/-- The words of major code 0x28 (Table 5.4). -/
noncomputable def decode28 (w : BitVec 32) : Option Instr :=
  if bits w 0 3 = 0 then some (.vfadd (field w 18 7) (field w 11 7) (field w 4 7) (flag w 3))
  else if bits w 0 3 = 1 then some (.vfsub (field w 18 7) (field w 11 7) (field w 4 7) (flag w 3))
  else if bits w 0 3 = 2 then some (.vfmul (field w 18 7) (field w 11 7) (field w 4 7) (flag w 3))
  else if bits w 0 3 = 3 then some (.vfma (field w 18 7) (field w 11 7) (field w 4 7) (flag w 3))
  else if bits w 0 3 = 4 then some (.vfms (field w 18 7) (field w 11 7) (field w 4 7) (flag w 3))
  else if bits w 0 3 = 5 then some (.vfnma (field w 18 7) (field w 11 7) (field w 4 7) (flag w 3))
  else if bits w 0 3 = 6 then some (.vfdiv (field w 18 7) (field w 11 7) (field w 4 7) (flag w 3))
  else if bits w 0 3 = 7 then some (.vfmin (field w 18 7) (field w 11 7) (field w 4 7) (flag w 3))
  else none

/-- The words of major code 0x29 (Table 5.4). -/
noncomputable def decode29 (w : BitVec 32) : Option Instr :=
  if bits w 0 3 = 0 then some (.vfmax (field w 18 7) (field w 11 7) (field w 4 7) (flag w 3))
  else if bits w 0 3 = 1 ∧ bits w 4 7 = 0 then some (.vfabs (field w 18 7) (field w 11 7) (flag w 3))
  else if bits w 0 3 = 2 ∧ bits w 4 7 = 0 then some (.vfneg (field w 18 7) (field w 11 7) (flag w 3))
  else if bits w 0 3 = 3 ∧ bits w 4 7 = 0 then some (.vfclass (field w 18 7) (field w 11 7) (flag w 3))
  else if bits w 0 3 = 4 ∧ bits w 4 7 = 0 then some (.vfsqrt (field w 18 7) (field w 11 7) (flag w 3))
  else none

/-- The words of major code 0x2A (Table 5.4). -/
noncomputable def decode2A (w : BitVec 32) : Option Instr :=
  if bits w 0 3 = 0 ∧ bits w 4 7 = 0 then some (.vfrcp (field w 18 7) (field w 11 7) (flag w 3))
  else if bits w 0 3 = 1 ∧ bits w 4 7 = 0 then some (.vfrsq (field w 18 7) (field w 11 7) (flag w 3))
  else if bits w 0 3 = 2 ∧ bits w 4 7 = 0 then some (.vfexp2 (field w 18 7) (field w 11 7) (flag w 3))
  else if bits w 0 3 = 3 ∧ bits w 4 7 = 0 then some (.vflog2 (field w 18 7) (field w 11 7) (flag w 3))
  else if bits w 0 3 = 4 ∧ bits w 4 7 = 0 then some (.vftanh (field w 18 7) (field w 11 7) (flag w 3))
  else none

/-- The words of major code 0x2B (Table 5.4). -/
noncomputable def decode2B (w : BitVec 32) : Option Instr :=
  if bits w 0 3 = 0 then some (.vfcmpeq (field w 18 7) (field w 11 7) (field w 4 7) (flag w 3))
  else if bits w 0 3 = 1 then some (.vfcmplt (field w 18 7) (field w 11 7) (field w 4 7) (flag w 3))
  else if bits w 0 3 = 2 then some (.vfcmple (field w 18 7) (field w 11 7) (field w 4 7) (flag w 3))
  else none

/-- The words of major code 0x2C (Table 5.4). -/
noncomputable def decode2C (w : BitVec 32) : Option Instr :=
  if bits w 0 3 = 0 ∧ bits w 9 2 = 0 then some (.vcvt (field w 18 7) (field w 11 7) (field w 4 5) (flag w 3))
  else if bits w 0 3 = 1 then some (.vnarrow (field w 18 7) (field w 11 7) (field w 4 7) (flag w 3))
  else if bits w 0 3 = 2 then some (.vdq (field w 18 7) (field w 11 7) (field w 4 7) (flag w 3))
  else none

/-- The words of major code 0x30 (Table 5.4). -/
noncomputable def decode30 (w : BitVec 32) : Option Instr :=
  if bits w 0 3 = 0 then some (.vand (field w 18 7) (field w 11 7) (field w 4 7) (flag w 3))
  else if bits w 0 3 = 1 then some (.vor (field w 18 7) (field w 11 7) (field w 4 7) (flag w 3))
  else if bits w 0 3 = 2 then some (.vxor (field w 18 7) (field w 11 7) (field w 4 7) (flag w 3))
  else if bits w 0 3 = 3 then some (.vfshl (field w 18 7) (field w 11 7) (field w 4 7) (flag w 3))
  else if bits w 0 3 = 4 then some (.vfshr (field w 18 7) (field w 11 7) (field w 4 7) (flag w 3))
  else if bits w 0 3 = 5 then some (.vrot (field w 18 7) (field w 11 7) (field w 4 7) (flag w 3))
  else if bits w 0 3 = 6 ∧ bits w 4 7 = 0 then some (.vpopc (field w 18 7) (field w 11 7) (flag w 3))
  else if bits w 0 3 = 7 ∧ bits w 4 7 = 0 then some (.vclz (field w 18 7) (field w 11 7) (flag w 3))
  else none

/-- The words of major code 0x31 (Table 5.4). -/
noncomputable def decode31 (w : BitVec 32) : Option Instr :=
  some (.vlut3Tt71 (BitVec.ofNat 7 (bits w 24 1 * 64 + bits w 17 1 * 32 + bits w 10 1 * 16 + bits w 0 4)) (field w 18 6) (field w 11 6) (field w 4 6))

/-- The words of major code 0x32 (Table 5.4). -/
noncomputable def decode32 (w : BitVec 32) : Option Instr :=
  some (.vlut3Tt70 (BitVec.ofNat 7 (bits w 24 1 * 64 + bits w 17 1 * 32 + bits w 10 1 * 16 + bits w 0 4)) (field w 18 6) (field w 11 6) (field w 4 6))

/-- The words of major code 0x33 (Table 5.4). -/
noncomputable def decode33 (w : BitVec 32) : Option Instr :=
  if bits w 0 3 = 0 then some (.vslideup (field w 18 7) (field w 11 7) (field w 4 7) (flag w 3))
  else if bits w 0 3 = 1 then some (.vslidedn (field w 18 7) (field w 11 7) (field w 4 7) (flag w 3))
  else if bits w 0 3 = 2 then some (.vgather (field w 18 7) (field w 11 7) (field w 4 7) (flag w 3))
  else if bits w 0 3 = 3 ∧ bits w 3 1 = 1 ∧ bits w 4 7 = 0 then some (.vcompress (field w 18 7) (field w 11 7))
  else if bits w 0 3 = 4 ∧ bits w 3 1 = 1 ∧ bits w 4 7 = 0 then some (.vexpand (field w 18 7) (field w 11 7))
  else if bits w 0 3 = 5 ∧ bits w 4 7 = 0 then some (.vbcast (field w 18 7) (field w 11 7) (flag w 3))
  else if bits w 0 3 = 6 ∧ bits w 4 7 = 0 then some (.vtrans (field w 18 7) (field w 11 7) (flag w 3))
  else if bits w 0 3 = 7 then some (.vrowsh (field w 18 7) (field w 11 7) (field w 4 7) (flag w 3))
  else none

/-- The words of major code 0x34 (Table 5.4). -/
noncomputable def decode34 (w : BitVec 32) : Option Instr :=
  if bits w 0 3 = 0 ∧ bits w 4 7 = 0 then some (.vredsum (field w 18 7) (field w 11 7) (flag w 3))
  else if bits w 0 3 = 1 ∧ bits w 4 7 = 0 then some (.vredmax (field w 18 7) (field w 11 7) (flag w 3))
  else if bits w 0 3 = 2 ∧ bits w 4 7 = 0 then some (.vredmin (field w 18 7) (field w 11 7) (flag w 3))
  else if bits w 0 3 = 3 ∧ bits w 4 7 = 0 then some (.vredand (field w 18 7) (field w 11 7) (flag w 3))
  else if bits w 0 3 = 4 ∧ bits w 4 7 = 0 then some (.vredor (field w 18 7) (field w 11 7) (flag w 3))
  else if bits w 0 3 = 5 ∧ bits w 4 7 = 0 then some (.vfredsum (field w 18 7) (field w 11 7) (flag w 3))
  else if bits w 0 3 = 6 ∧ bits w 4 7 = 0 then some (.vfredmax (field w 18 7) (field w 11 7) (flag w 3))
  else none

/-- The words of major code 0x35 (Table 5.4). -/
noncomputable def decode35 (w : BitVec 32) : Option Instr :=
  if bits w 0 4 = 0 then some (.mand (field w 18 7) (field w 11 7) (field w 4 7))
  else if bits w 0 4 = 1 then some (.mor (field w 18 7) (field w 11 7) (field w 4 7))
  else if bits w 0 4 = 2 then some (.mxor (field w 18 7) (field w 11 7) (field w 4 7))
  else if bits w 0 4 = 3 ∧ bits w 4 7 = 0 then some (.mnot (field w 18 7) (field w 11 7))
  else if bits w 0 4 = 4 ∧ bits w 4 7 = 0 then some (.mpopc (field w 18 7) (field w 11 7))
  else if bits w 0 4 = 5 ∧ bits w 4 7 = 0 then some (.mfirst (field w 18 7) (field w 11 7))
  else if bits w 0 4 = 6 then some (.mset (field w 18 7) (field w 11 7) (field w 4 7))
  else none

/-- The words of major code 0x36 (Table 5.4). -/
noncomputable def decode36 (w : BitVec 32) : Option Instr :=
  if bits w 0 4 = 0 ∧ bits w 22 3 = 0 ∧ bits w 11 7 = 0 ∧ bits w 4 7 = 0 then some (.vchain (field w 18 4))
  else if bits w 0 4 = 1 ∧ bits w 18 7 = 0 then some (.vchrun (field w 11 7) (field w 4 7))
  else none

/-- The words of major code 0x38 (Table 5.4). -/
noncomputable def decode38 (w : BitVec 32) : Option Instr :=
  if bits w 0 4 = 0 then some (.qset (field w 18 7) (field w 11 7) (field w 4 7))
  else if bits w 0 4 = 1 then some (.qsetx (field w 18 7) (field w 11 7) (field w 4 7))
  else if bits w 0 4 = 2 ∧ bits w 5 6 = 0 then some (.qbind (field w 18 7) (field w 11 7) (flag w 4))
  else if bits w 0 4 = 3 ∧ bits w 11 7 = 0 ∧ bits w 4 7 = 0 then some (.qunbind (field w 18 7))
  else none

/-- The words of major code 0x39 (Table 5.4). -/
noncomputable def decode39 (w : BitVec 32) : Option Instr :=
  if bits w 0 3 = 0 ∧ bits w 4 7 = 0 then some (.vld (field w 18 7) (field w 11 7) (flag w 3))
  else if bits w 0 3 = 1 then some (.vlds (field w 18 7) (field w 11 7) (field w 4 7) (flag w 3))
  else if bits w 0 3 = 2 then some (.vldx (field w 18 7) (field w 11 7) (field w 4 7) (flag w 3))
  else none

/-- The words of major code 0x3A (Table 5.4). -/
noncomputable def decode3A (w : BitVec 32) : Option Instr :=
  if bits w 0 3 = 0 ∧ bits w 4 7 = 0 then some (.vst (field w 18 7) (field w 11 7) (flag w 3))
  else if bits w 0 3 = 1 then some (.vsts (field w 18 7) (field w 11 7) (field w 4 7) (flag w 3))
  else if bits w 0 3 = 2 then some (.vstx (field w 18 7) (field w 11 7) (field w 4 7) (flag w 3))
  else if bits w 0 3 = 3 ∧ bits w 4 7 = 0 then some (.vstu (field w 18 7) (field w 11 7) (flag w 3))
  else if bits w 0 3 = 4 then some (.vstn (field w 18 7) (field w 11 7) (field w 4 7) (flag w 3))
  else if bits w 0 3 = 5 then some (.vstrc (field w 18 7) (field w 11 7) (field w 4 7) (flag w 3))
  else none

/-- The words of major code 0x3B (Table 5.4). -/
noncomputable def decode3B (w : BitVec 32) : Option Instr :=
  if bits w 0 4 = 0 ∧ bits w 4 7 = 0 then some (.vspill (field w 18 7) (field w 11 7))
  else if bits w 0 4 = 1 ∧ bits w 4 7 = 0 then some (.vfill (field w 18 7) (field w 11 7))
  else none

/-- The words of major code 0x3C (Table 5.4). -/
noncomputable def decode3C (w : BitVec 32) : Option Instr :=
  if bits w 17 1 = 0 then some (.kld (BitVec.ofNat 10 (bits w 18 7 * 8 + bits w 8 3)) (field w 11 6) (field w 4 4) (field w 0 4))
  else none

/-- The words of major code 0x40 (Table 5.4). -/
noncomputable def decode40 (w : BitVec 32) : Option Instr :=
  if bits w 6 1 = 0 then some (.top (field w 21 4) (field w 14 7) (field w 7 7) (field w 3 3) (field w 0 3))
  else none

/-- The words of major code 0x41 (Table 5.4). -/
noncomputable def decode41 (w : BitVec 32) : Option Instr :=
  if bits w 6 1 = 0 then some (.topi (field w 21 4) (field w 14 7) (field w 7 7) (field w 3 3) (field w 0 3))
  else none

/-- The words of major code 0x42 (Table 5.4). -/
noncomputable def decode42 (w : BitVec 32) : Option Instr :=
  if bits w 6 1 = 0 then some (.topq (field w 21 4) (field w 14 7) (field w 7 7) (field w 3 3) (field w 0 3))
  else none

/-- The words of major code 0x43 (Table 5.4). -/
noncomputable def decode43 (w : BitVec 32) : Option Instr :=
  if bits w 6 1 = 0 then some (.toph (field w 21 4) (field w 14 7) (field w 7 7) (field w 3 3) (field w 0 3))
  else none

/-- The words of major code 0x44 (Table 5.4). -/
noncomputable def decode44 (w : BitVec 32) : Option Instr :=
  some (.tops (field w 21 4) (field w 14 7) (field w 7 7) (flag w 6) (field w 3 3) (field w 0 3))

/-- The words of major code 0x45 (Table 5.4). -/
noncomputable def decode45 (w : BitVec 32) : Option Instr :=
  if bits w 5 2 = 0 ∧ bits w 0 5 = 0 then some (.tmovv (field w 21 4) (field w 14 7) (field w 7 7))
  else if bits w 5 2 = 1 ∧ bits w 0 5 = 0 then some (.tmovt (field w 21 4) (field w 14 7) (field w 7 7))
  else if bits w 5 2 = 2 ∧ bits w 0 2 ≠ 3 then some (.tepi (field w 21 4) (field w 14 7) (field w 7 7) (flag w 4) (field w 2 2) (field w 0 2))
  else none

/-- The words of major code 0x46 (Table 5.4). -/
noncomputable def decode46 (w : BitVec 32) : Option Instr :=
  if bits w 0 6 = 0 ∧ bits w 6 12 = 0 then some (.tcfg (field w 18 7))
  else if bits w 0 6 = 1 ∧ bits w 6 12 = 0 then some (.tzero (field w 18 7))
  else if bits w 0 6 = 2 ∧ bits w 7 11 = 0 then some (.tstat (field w 18 7) (flag w 6))
  else none

/-- The words of major code 0x48 (Table 5.4). -/
noncomputable def decode48 (w : BitVec 32) : Option Instr :=
  if bits w 0 4 = 0 then some (.dadd (field w 18 7) (field w 11 7) (field w 4 7))
  else if bits w 0 4 = 1 then some (.dsub (field w 18 7) (field w 11 7) (field w 4 7))
  else if bits w 0 4 = 2 then some (.dmul (field w 18 7) (field w 11 7) (field w 4 7))
  else if bits w 0 4 = 3 then some (.dmax (field w 18 7) (field w 11 7) (field w 4 7))
  else if bits w 0 4 = 4 then some (.dmin (field w 18 7) (field w 11 7) (field w 4 7))
  else if bits w 0 4 = 5 then some (.dmix (field w 18 7) (field w 11 7) (field w 4 7))
  else none

/-- The words of major code 0x49 (Table 5.4). -/
noncomputable def decode49 (w : BitVec 32) : Option Instr :=
  if bits w 0 4 = 0 then some (.daff (field w 18 7) (field w 11 7) (field w 4 7))
  else none

/-- The words of major code 0x4A (Table 5.4). -/
noncomputable def decode4A (w : BitVec 32) : Option Instr :=
  if bits w 0 4 = 0 ∧ bits w 7 4 = 0 then some (.dmom (field w 18 7) (field w 11 7) (field w 4 3))
  else if bits w 0 4 = 1 then some (.dqnt (field w 18 7) (field w 11 7) (field w 4 7))
  else if bits w 0 4 = 2 then some (.dcdf (field w 18 7) (field w 11 7) (field w 4 7))
  else none

/-- The words of major code 0x4B (Table 5.4). -/
noncomputable def decode4B (w : BitVec 32) : Option Instr :=
  if bits w 0 4 = 0 ∧ bits w 9 2 = 0 then some (.dld (field w 18 7) (field w 11 7) (field w 4 5))
  else if bits w 0 4 = 1 ∧ bits w 4 7 = 0 then some (.dst (field w 18 7) (field w 11 7))
  else if bits w 0 4 = 2 ∧ bits w 9 2 = 0 then some (.dfromv (field w 18 7) (field w 11 7) (field w 4 5))
  else if bits w 0 4 = 3 then some (.dbuild (field w 18 7) (field w 11 7) (field w 4 7))
  else if bits w 0 4 = 4 then some (.dtag (field w 18 7) (field w 11 7) (field w 4 7))
  else none

/-- The words of major code 0x4C (Table 5.4). -/
noncomputable def decode4C (w : BitVec 32) : Option Instr :=
  if bits w 0 4 = 0 ∧ bits w 18 7 = 0 then some (.xcopy (field w 11 7) (field w 4 7))
  else if bits w 0 4 = 1 ∧ bits w 18 7 = 0 then some (.xgath (field w 11 7) (field w 4 7))
  else if bits w 0 4 = 2 ∧ bits w 18 7 = 0 then some (.xcoll (field w 11 7) (field w 4 7))
  else none

/-- The words of major code 0x4D (Table 5.4). -/
noncomputable def decode4D (w : BitVec 32) : Option Instr :=
  if bits w 0 4 = 0 ∧ bits w 18 7 = 0 then some (.binit (field w 11 7) (field w 4 7))
  else if bits w 0 4 = 1 ∧ bits w 18 7 = 0 ∧ bits w 8 3 = 0 then some (.barrive (field w 11 7) (field w 4 4))
  else if bits w 0 4 = 2 ∧ bits w 18 7 = 0 then some (.bexpect (field w 11 7) (field w 4 7))
  else if bits w 0 4 = 3 then some (.bwait (field w 18 7) (field w 11 7) (field w 4 7))
  else if bits w 0 4 = 4 ∧ bits w 4 7 = 0 then some (.btest (field w 18 7) (field w 11 7))
  else none

/-- The words of major code 0x50 (Table 5.4). -/
noncomputable def decode50 (w : BitVec 32) : Option Instr :=
  if bits w 0 4 = 0 ∧ bits w 18 7 = 0 ∧ bits w 11 7 = 0 ∧ bits w 4 7 = 0 then some .dbar
  else none

/-- The words of major code 0x51 (Table 5.4). -/
noncomputable def decode51 (w : BitVec 32) : Option Instr :=
  if bits w 0 4 = 0 ∧ bits w 5 6 = 0 ∧ bits w 11 7 = 0 then some (.seal (field w 18 7) (flag w 4))
  else if bits w 0 4 = 1 ∧ bits w 6 5 = 0 ∧ bits w 11 7 = 0 then some (.rinq (field w 18 7) (field w 4 2))
  else if bits w 0 4 = 2 ∧ bits w 4 7 = 0 ∧ bits w 11 7 = 0 then some (.extw (field w 18 7))
  else none

/-- The words of major code 0x52 (Table 5.4). -/
noncomputable def decode52 (w : BitVec 32) : Option Instr :=
  if bits w 24 1 = 0 then some (.awaitImm (field w 18 6) (field w 7 11) (field w 0 7))
  else if bits w 24 1 = 1 ∧ bits w 0 4 = 0 then some (.awaitReg (field w 18 6) (field w 11 7) (field w 4 7))
  else none

/-- The words of major code 0x53 (Table 5.4). -/
noncomputable def decode53 (w : BitVec 32) : Option Instr :=
  if bits w 2 2 = 0 then some (.apref (field w 18 7) (field w 11 7) (field w 4 7) (field w 0 2))
  else none

/-- The words of major code 0x54 (Table 5.4). -/
noncomputable def decode54 (w : BitVec 32) : Option Instr :=
  if bits w 18 7 = 0 ∧ bits w 2 2 = 0 then some (.aplace (field w 11 7) (field w 4 7) (field w 0 2))
  else none

/-- The words of major code 0x55 (Table 5.4). -/
noncomputable def decode55 (w : BitVec 32) : Option Instr :=
  if bits w 0 4 = 0 ∧ bits w 18 7 = 0 ∧ bits w 11 7 = 0 ∧ bits w 8 3 = 0 then some (.aprio (field w 4 4))
  else if bits w 0 4 = 1 ∧ bits w 18 7 = 0 ∧ bits w 11 7 = 0 ∧ bits w 8 3 = 0 then some (.aorder (field w 4 4))
  else none

/-- The words of major code 0x56 (Table 5.4). -/
noncomputable def decode56 (w : BitVec 32) : Option Instr :=
  some (.ald (field w 18 7) (field w 11 7) (field w 0 11))

/-- The words of major code 0x57 (Table 5.4). -/
noncomputable def decode57 (w : BitVec 32) : Option Instr :=
  if bits w 0 4 = 0 ∧ bits w 18 7 = 0 ∧ bits w 11 7 = 0 ∧ bits w 7 4 = 0 then some (.adrop (field w 4 3))
  else if bits w 0 4 = 1 ∧ bits w 18 7 = 0 ∧ bits w 11 7 = 0 ∧ bits w 4 7 = 0 then some .aend
  else none

/-- The instruction of a word: total, `none` for a reserved encoding (R109). -/
noncomputable def decode (w : BitVec 32) : Option Instr :=
  if bits w 25 7 = 1 then decode01 w
  else if bits w 25 7 = 2 then decode02 w
  else if bits w 25 7 = 3 then decode03 w
  else if bits w 25 7 = 4 then decode04 w
  else if bits w 25 7 = 5 then decode05 w
  else if bits w 25 7 = 6 then decode06 w
  else if bits w 25 7 = 7 then decode07 w
  else if bits w 25 7 = 8 then decode08 w
  else if bits w 25 7 = 9 then decode09 w
  else if bits w 25 7 = 10 then decode0A w
  else if bits w 25 7 = 11 then decode0B w
  else if bits w 25 7 = 12 then decode0C w
  else if bits w 25 7 = 13 then decode0D w
  else if bits w 25 7 = 14 then decode0E w
  else if bits w 25 7 = 15 then decode0F w
  else if bits w 25 7 = 16 then decode10 w
  else if bits w 25 7 = 17 then decode11 w
  else if bits w 25 7 = 18 then decode12 w
  else if bits w 25 7 = 19 then decode13 w
  else if bits w 25 7 = 20 then decode14 w
  else if bits w 25 7 = 21 then decode15 w
  else if bits w 25 7 = 22 then decode16 w
  else if bits w 25 7 = 23 then decode17 w
  else if bits w 25 7 = 24 then decode18 w
  else if bits w 25 7 = 25 then decode19 w
  else if bits w 25 7 = 26 then decode1A w
  else if bits w 25 7 = 27 then decode1B w
  else if bits w 25 7 = 28 then decode1C w
  else if bits w 25 7 = 29 then decode1D w
  else if bits w 25 7 = 30 then decode1E w
  else if bits w 25 7 = 32 then decode20 w
  else if bits w 25 7 = 33 then decode21 w
  else if bits w 25 7 = 34 then decode22 w
  else if bits w 25 7 = 35 then decode23 w
  else if bits w 25 7 = 36 then decode24 w
  else if bits w 25 7 = 40 then decode28 w
  else if bits w 25 7 = 41 then decode29 w
  else if bits w 25 7 = 42 then decode2A w
  else if bits w 25 7 = 43 then decode2B w
  else if bits w 25 7 = 44 then decode2C w
  else if bits w 25 7 = 48 then decode30 w
  else if bits w 25 7 = 49 then decode31 w
  else if bits w 25 7 = 50 then decode32 w
  else if bits w 25 7 = 51 then decode33 w
  else if bits w 25 7 = 52 then decode34 w
  else if bits w 25 7 = 53 then decode35 w
  else if bits w 25 7 = 54 then decode36 w
  else if bits w 25 7 = 56 then decode38 w
  else if bits w 25 7 = 57 then decode39 w
  else if bits w 25 7 = 58 then decode3A w
  else if bits w 25 7 = 59 then decode3B w
  else if bits w 25 7 = 60 then decode3C w
  else if bits w 25 7 = 64 then decode40 w
  else if bits w 25 7 = 65 then decode41 w
  else if bits w 25 7 = 66 then decode42 w
  else if bits w 25 7 = 67 then decode43 w
  else if bits w 25 7 = 68 then decode44 w
  else if bits w 25 7 = 69 then decode45 w
  else if bits w 25 7 = 70 then decode46 w
  else if bits w 25 7 = 72 then decode48 w
  else if bits w 25 7 = 73 then decode49 w
  else if bits w 25 7 = 74 then decode4A w
  else if bits w 25 7 = 75 then decode4B w
  else if bits w 25 7 = 76 then decode4C w
  else if bits w 25 7 = 77 then decode4D w
  else if bits w 25 7 = 80 then decode50 w
  else if bits w 25 7 = 81 then decode51 w
  else if bits w 25 7 = 82 then decode52 w
  else if bits w 25 7 = 83 then decode53 w
  else if bits w 25 7 = 84 then decode54 w
  else if bits w 25 7 = 85 then decode55 w
  else if bits w 25 7 = 86 then decode56 w
  else if bits w 25 7 = 87 then decode57 w
  else none

/-- The word of an instruction as a number, from the same tables (0 for an event, which has no word). -/
def encodeNat (i : Instr) : Nat :=
  match i with
  | .add d a b => 33554432 + d.toNat * 262144 + a.toNat * 2048 + b.toNat * 16
  | .sub d a b => 33554433 + d.toNat * 262144 + a.toNat * 2048 + b.toNat * 16
  | .and d a b => 33554434 + d.toNat * 262144 + a.toNat * 2048 + b.toNat * 16
  | .or d a b => 33554435 + d.toNat * 262144 + a.toNat * 2048 + b.toNat * 16
  | .xor d a b => 33554436 + d.toNat * 262144 + a.toNat * 2048 + b.toNat * 16
  | .andn d a b => 33554437 + d.toNat * 262144 + a.toNat * 2048 + b.toNat * 16
  | .shl d a b => 33554438 + d.toNat * 262144 + a.toNat * 2048 + b.toNat * 16
  | .shr d a b => 33554439 + d.toNat * 262144 + a.toNat * 2048 + b.toNat * 16
  | .sra d a b => 33554440 + d.toNat * 262144 + a.toNat * 2048 + b.toNat * 16
  | .rotr d a b => 33554441 + d.toNat * 262144 + a.toNat * 2048 + b.toNat * 16
  | .slt d a b => 33554442 + d.toNat * 262144 + a.toNat * 2048 + b.toNat * 16
  | .sltu d a b => 33554443 + d.toNat * 262144 + a.toNat * 2048 + b.toNat * 16
  | .min d a b => 33554444 + d.toNat * 262144 + a.toNat * 2048 + b.toNat * 16
  | .max d a b => 33554445 + d.toNat * 262144 + a.toNat * 2048 + b.toNat * 16
  | .minu d a b => 33554446 + d.toNat * 262144 + a.toNat * 2048 + b.toNat * 16
  | .maxu d a b => 33554447 + d.toNat * 262144 + a.toNat * 2048 + b.toNat * 16
  | .mul d a b => 67108864 + d.toNat * 262144 + a.toNat * 2048 + b.toNat * 16
  | .mulh d a b => 67108865 + d.toNat * 262144 + a.toNat * 2048 + b.toNat * 16
  | .mulhu d a b => 67108866 + d.toNat * 262144 + a.toNat * 2048 + b.toNat * 16
  | .div d a b => 67108867 + d.toNat * 262144 + a.toNat * 2048 + b.toNat * 16
  | .divu d a b => 67108868 + d.toNat * 262144 + a.toNat * 2048 + b.toNat * 16
  | .rem d a b => 67108869 + d.toNat * 262144 + a.toNat * 2048 + b.toNat * 16
  | .remu d a b => 67108870 + d.toNat * 262144 + a.toNat * 2048 + b.toNat * 16
  | .clz d a => 100663296 + d.toNat * 262144 + a.toNat * 2048
  | .ctz d a => 100663297 + d.toNat * 262144 + a.toNat * 2048
  | .popc d a => 100663298 + d.toNat * 262144 + a.toNat * 2048
  | .sel d a b => 100663299 + d.toNat * 262144 + a.toNat * 2048 + b.toNat * 16
  | .addi d a i => 134217728 + d.toNat * 262144 + a.toNat * 2048 + i.toNat
  | .andi d a i => 167772160 + d.toNat * 262144 + a.toNat * 2048 + i.toNat
  | .ori d a i => 201326592 + d.toNat * 262144 + a.toNat * 2048 + i.toNat
  | .xori d a i => 234881024 + d.toNat * 262144 + a.toNat * 2048 + i.toNat
  | .slti d a i => 268435456 + d.toNat * 262144 + a.toNat * 2048 + i.toNat
  | .shli d a n => 301989888 + d.toNat * 262144 + a.toNat * 2048 + n.toNat
  | .shri d a n => 302120960 + d.toNat * 262144 + a.toNat * 2048 + n.toNat
  | .srai d a n => 318767104 + d.toNat * 262144 + a.toNat * 2048 + n.toNat
  | .movi d i => 335544320 + d.toNat * 262144 + i.toNat
  | .movhi d i => 369098752 + d.toNat * 262144 + i.toNat
  | .addpc d i => 385875968 + d.toNat * 262144 + i.toNat
  | .ldb d a i => 402653184 + d.toNat * 262144 + a.toNat * 2048 + i.toNat
  | .ldbu d a i => 402784256 + d.toNat * 262144 + a.toNat * 2048 + i.toNat
  | .ldh d a i => 419430400 + d.toNat * 262144 + a.toNat * 2048 + i.toNat
  | .ldhu d a i => 419561472 + d.toNat * 262144 + a.toNat * 2048 + i.toNat
  | .ldw d a i => 436207616 + d.toNat * 262144 + a.toNat * 2048 + i.toNat
  | .ldwu d a i => 436338688 + d.toNat * 262144 + a.toNat * 2048 + i.toNat
  | .ldd d a i => 452984832 + d.toNat * 262144 + a.toNat * 2048 + i.toNat
  | .ldp d a i => 453115904 + d.toNat * 262144 + a.toNat * 2048 + i.toNat
  | .stb d a i => 469762048 + d.toNat * 262144 + a.toNat * 2048 + i.toNat
  | .sth d a i => 469893120 + d.toNat * 262144 + a.toNat * 2048 + i.toNat
  | .stw d a i => 486539264 + d.toNat * 262144 + a.toNat * 2048 + i.toNat
  | .std d a i => 486670336 + d.toNat * 262144 + a.toNat * 2048 + i.toNat
  | .stp d a i => 503316480 + d.toNat * 262144 + a.toNat * 2048 + i.toNat
  | .beq a b j => 536870912 + a.toNat * 262144 + b.toNat * 2048 + j.toNat
  | .bne a b j => 537001984 + a.toNat * 262144 + b.toNat * 2048 + j.toNat
  | .blt a b j => 553648128 + a.toNat * 262144 + b.toNat * 2048 + j.toNat
  | .bge a b j => 553779200 + a.toNat * 262144 + b.toNat * 2048 + j.toNat
  | .bltu a b j => 570425344 + a.toNat * 262144 + b.toNat * 2048 + j.toNat
  | .bgeu a b j => 570556416 + a.toNat * 262144 + b.toNat * 2048 + j.toNat
  | .loop a j => 587202560 + a.toNat * 262144 + j.toNat
  | .loopi n j => 587333632 + n.toNat / 64 % 64 * 262144 + n.toNat % 64 * 2048 + j.toNat
  | .j j => 603979776 + j.toNat
  | .jal d i => 637534208 + d.toNat * 262144 + i.toNat
  | .jalr d a i => 654311424 + d.toNat * 262144 + a.toNat * 2048 + i.toNat
  | .csrr d c => 671088640 + d.toNat * 262144 + c.toNat * 64
  | .csrw d c => 671088641 + d.toNat * 262144 + c.toNat * 64
  | .csrs d c => 671088642 + d.toNat * 262144 + c.toNat * 64
  | .csrc d c => 671088643 + d.toNat * 262144 + c.toNat * 64
  | .wbase i => 704643072 + i.toNat
  | .mark i => 738197504 + i.toNat
  | .trap c => 771751936 + c.toNat * 64
  | .eret => 771751937
  | .yield => 771751938
  | .park n => 771751939 + n.toNat * 64
  | .ozhash d => 771751944 + d.toNat * 262144
  | .ozvrfy d => 771751945 + d.toNat * 262144
  | .ozsign d => 771751946 + d.toNat * 262144
  | .ozkdf d => 771751947 + d.toNat * 262144
  | .ozrand d => 771751948 + d.toNat * 262144
  | .ozwipe d => 771751949 + d.toNat * 262144
  | .amoadd sc d a b => 805306368 + sc.toNat / 4 % 2 * 16777216 + sc.toNat / 2 % 2 * 131072 + sc.toNat % 2 * 1024 + d.toNat * 262144 + a.toNat * 2048 + b.toNat * 16
  | .amoand sc d a b => 805306369 + sc.toNat / 4 % 2 * 16777216 + sc.toNat / 2 % 2 * 131072 + sc.toNat % 2 * 1024 + d.toNat * 262144 + a.toNat * 2048 + b.toNat * 16
  | .amoor sc d a b => 805306370 + sc.toNat / 4 % 2 * 16777216 + sc.toNat / 2 % 2 * 131072 + sc.toNat % 2 * 1024 + d.toNat * 262144 + a.toNat * 2048 + b.toNat * 16
  | .amoxor sc d a b => 805306371 + sc.toNat / 4 % 2 * 16777216 + sc.toNat / 2 % 2 * 131072 + sc.toNat % 2 * 1024 + d.toNat * 262144 + a.toNat * 2048 + b.toNat * 16
  | .amomin sc d a b => 805306372 + sc.toNat / 4 % 2 * 16777216 + sc.toNat / 2 % 2 * 131072 + sc.toNat % 2 * 1024 + d.toNat * 262144 + a.toNat * 2048 + b.toNat * 16
  | .amomax sc d a b => 805306373 + sc.toNat / 4 % 2 * 16777216 + sc.toNat / 2 % 2 * 131072 + sc.toNat % 2 * 1024 + d.toNat * 262144 + a.toNat * 2048 + b.toNat * 16
  | .amominu sc d a b => 805306374 + sc.toNat / 4 % 2 * 16777216 + sc.toNat / 2 % 2 * 131072 + sc.toNat % 2 * 1024 + d.toNat * 262144 + a.toNat * 2048 + b.toNat * 16
  | .amomaxu sc d a b => 805306375 + sc.toNat / 4 % 2 * 16777216 + sc.toNat / 2 % 2 * 131072 + sc.toNat % 2 * 1024 + d.toNat * 262144 + a.toNat * 2048 + b.toNat * 16
  | .amoswap sc d a b => 805306376 + sc.toNat / 4 % 2 * 16777216 + sc.toNat / 2 % 2 * 131072 + sc.toNat % 2 * 1024 + d.toNat * 262144 + a.toNat * 2048 + b.toNat * 16
  | .amoadd32 sc d a b => 838860800 + sc.toNat / 4 % 2 * 16777216 + sc.toNat / 2 % 2 * 131072 + sc.toNat % 2 * 1024 + d.toNat * 262144 + a.toNat * 2048 + b.toNat * 16
  | .amoand32 sc d a b => 838860801 + sc.toNat / 4 % 2 * 16777216 + sc.toNat / 2 % 2 * 131072 + sc.toNat % 2 * 1024 + d.toNat * 262144 + a.toNat * 2048 + b.toNat * 16
  | .amoor32 sc d a b => 838860802 + sc.toNat / 4 % 2 * 16777216 + sc.toNat / 2 % 2 * 131072 + sc.toNat % 2 * 1024 + d.toNat * 262144 + a.toNat * 2048 + b.toNat * 16
  | .amoxor32 sc d a b => 838860803 + sc.toNat / 4 % 2 * 16777216 + sc.toNat / 2 % 2 * 131072 + sc.toNat % 2 * 1024 + d.toNat * 262144 + a.toNat * 2048 + b.toNat * 16
  | .amomin32 sc d a b => 838860804 + sc.toNat / 4 % 2 * 16777216 + sc.toNat / 2 % 2 * 131072 + sc.toNat % 2 * 1024 + d.toNat * 262144 + a.toNat * 2048 + b.toNat * 16
  | .amomax32 sc d a b => 838860805 + sc.toNat / 4 % 2 * 16777216 + sc.toNat / 2 % 2 * 131072 + sc.toNat % 2 * 1024 + d.toNat * 262144 + a.toNat * 2048 + b.toNat * 16
  | .amominu32 sc d a b => 838860806 + sc.toNat / 4 % 2 * 16777216 + sc.toNat / 2 % 2 * 131072 + sc.toNat % 2 * 1024 + d.toNat * 262144 + a.toNat * 2048 + b.toNat * 16
  | .amomaxu32 sc d a b => 838860807 + sc.toNat / 4 % 2 * 16777216 + sc.toNat / 2 % 2 * 131072 + sc.toNat % 2 * 1024 + d.toNat * 262144 + a.toNat * 2048 + b.toNat * 16
  | .amoswap32 sc d a b => 838860808 + sc.toNat / 4 % 2 * 16777216 + sc.toNat / 2 % 2 * 131072 + sc.toNat % 2 * 1024 + d.toNat * 262144 + a.toNat * 2048 + b.toNat * 16
  | .cas sc d a b => 872415232 + sc.toNat / 4 % 2 * 16777216 + sc.toNat / 2 % 2 * 131072 + sc.toNat % 2 * 1024 + d.toNat * 262144 + a.toNat * 2048 + b.toNat * 16
  | .casp sc d a b => 872415233 + sc.toNat / 4 % 2 * 16777216 + sc.toNat / 2 % 2 * 131072 + sc.toNat % 2 * 1024 + d.toNat * 262144 + a.toNat * 2048 + b.toNat * 16
  | .lda d a sc w4 o => 905969664 + d.toNat * 262144 + a.toNat * 2048 + sc.toNat * 256 + w4.toNat * 128 + o.toNat
  | .stl d a sc w4 o => 922746880 + d.toNat * 262144 + a.toNat * 2048 + sc.toNat * 256 + w4.toNat * 128 + o.toNat
  | .fence sc => 939524096 + sc.toNat * 8
  | .fenceSv sc => 939524097 + sc.toNat * 8
  | .fenceVs sc => 939524098 + sc.toNat * 8
  | .fenceVv sc => 939524099 + sc.toNat * 8
  | .monarm a => 973078528 + a.toNat * 2048
  | .monwait d b => 973078529 + d.toNat * 262144 + b.toNat * 16
  | .cwb a b => 1006632960 + a.toNat * 2048 + b.toNat * 16
  | .cinv a b => 1006632961 + a.toNat * 2048 + b.toNat * 16
  | .cflush a b => 1006632962 + a.toNat * 2048 + b.toNat * 16
  | .vsettype d v => 1073741824 + d.toNat * 262144 + v.toNat * 16
  | .vsetshape d a b => 1073741825 + d.toNat * 262144 + a.toNat * 2048 + b.toNat * 16
  | .vsetl d a => 1073741826 + d.toNat * 262144 + a.toNat * 2048
  | .vlq d => 1073741827 + d.toNat * 262144
  | .vadd d a b m => 1107296256 + d.toNat * 262144 + a.toNat * 2048 + b.toNat * 16 + m.toNat * 8
  | .vsub d a b m => 1107296257 + d.toNat * 262144 + a.toNat * 2048 + b.toNat * 16 + m.toNat * 8
  | .vmul d a b m => 1107296258 + d.toNat * 262144 + a.toNat * 2048 + b.toNat * 16 + m.toNat * 8
  | .vmulh d a b m => 1107296259 + d.toNat * 262144 + a.toNat * 2048 + b.toNat * 16 + m.toNat * 8
  | .vmadd d a b m => 1107296260 + d.toNat * 262144 + a.toNat * 2048 + b.toNat * 16 + m.toNat * 8
  | .vmin d a b m => 1107296261 + d.toNat * 262144 + a.toNat * 2048 + b.toNat * 16 + m.toNat * 8
  | .vmax d a b m => 1107296262 + d.toNat * 262144 + a.toNat * 2048 + b.toNat * 16 + m.toNat * 8
  | .vabsd d a b m => 1107296263 + d.toNat * 262144 + a.toNat * 2048 + b.toNat * 16 + m.toNat * 8
  | .vminu d a b m => 1140850688 + d.toNat * 262144 + a.toNat * 2048 + b.toNat * 16 + m.toNat * 8
  | .vmaxu d a b m => 1140850689 + d.toNat * 262144 + a.toNat * 2048 + b.toNat * 16 + m.toNat * 8
  | .vadds d a b m => 1140850690 + d.toNat * 262144 + a.toNat * 2048 + b.toNat * 16 + m.toNat * 8
  | .vsubs d a b m => 1140850691 + d.toNat * 262144 + a.toNat * 2048 + b.toNat * 16 + m.toNat * 8
  | .vavg d a b m => 1140850692 + d.toNat * 262144 + a.toNat * 2048 + b.toNat * 16 + m.toNat * 8
  | .vshl d a b m => 1140850693 + d.toNat * 262144 + a.toNat * 2048 + b.toNat * 16 + m.toNat * 8
  | .vshr d a b m => 1140850694 + d.toNat * 262144 + a.toNat * 2048 + b.toNat * 16 + m.toNat * 8
  | .vsra d a b m => 1140850695 + d.toNat * 262144 + a.toNat * 2048 + b.toNat * 16 + m.toNat * 8
  | .vwadd d a b m => 1174405120 + d.toNat * 262144 + a.toNat * 2048 + b.toNat * 16 + m.toNat * 8
  | .vwmul d a b m => 1174405121 + d.toNat * 262144 + a.toNat * 2048 + b.toNat * 16 + m.toNat * 8
  | .vcmpeq d a b m => 1207959552 + d.toNat * 262144 + a.toNat * 2048 + b.toNat * 16 + m.toNat * 8
  | .vcmpne d a b m => 1207959553 + d.toNat * 262144 + a.toNat * 2048 + b.toNat * 16 + m.toNat * 8
  | .vcmplt d a b m => 1207959554 + d.toNat * 262144 + a.toNat * 2048 + b.toNat * 16 + m.toNat * 8
  | .vcmple d a b m => 1207959555 + d.toNat * 262144 + a.toNat * 2048 + b.toNat * 16 + m.toNat * 8
  | .vcmpltu d a b m => 1207959556 + d.toNat * 262144 + a.toNat * 2048 + b.toNat * 16 + m.toNat * 8
  | .vcmpleu d a b m => 1207959557 + d.toNat * 262144 + a.toNat * 2048 + b.toNat * 16 + m.toNat * 8
  | .vfadd d a b m => 1342177280 + d.toNat * 262144 + a.toNat * 2048 + b.toNat * 16 + m.toNat * 8
  | .vfsub d a b m => 1342177281 + d.toNat * 262144 + a.toNat * 2048 + b.toNat * 16 + m.toNat * 8
  | .vfmul d a b m => 1342177282 + d.toNat * 262144 + a.toNat * 2048 + b.toNat * 16 + m.toNat * 8
  | .vfma d a b m => 1342177283 + d.toNat * 262144 + a.toNat * 2048 + b.toNat * 16 + m.toNat * 8
  | .vfms d a b m => 1342177284 + d.toNat * 262144 + a.toNat * 2048 + b.toNat * 16 + m.toNat * 8
  | .vfnma d a b m => 1342177285 + d.toNat * 262144 + a.toNat * 2048 + b.toNat * 16 + m.toNat * 8
  | .vfdiv d a b m => 1342177286 + d.toNat * 262144 + a.toNat * 2048 + b.toNat * 16 + m.toNat * 8
  | .vfmin d a b m => 1342177287 + d.toNat * 262144 + a.toNat * 2048 + b.toNat * 16 + m.toNat * 8
  | .vfmax d a b m => 1375731712 + d.toNat * 262144 + a.toNat * 2048 + b.toNat * 16 + m.toNat * 8
  | .vfabs d a m => 1375731713 + d.toNat * 262144 + a.toNat * 2048 + m.toNat * 8
  | .vfneg d a m => 1375731714 + d.toNat * 262144 + a.toNat * 2048 + m.toNat * 8
  | .vfclass d a m => 1375731715 + d.toNat * 262144 + a.toNat * 2048 + m.toNat * 8
  | .vfsqrt d a m => 1375731716 + d.toNat * 262144 + a.toNat * 2048 + m.toNat * 8
  | .vfrcp d a m => 1409286144 + d.toNat * 262144 + a.toNat * 2048 + m.toNat * 8
  | .vfrsq d a m => 1409286145 + d.toNat * 262144 + a.toNat * 2048 + m.toNat * 8
  | .vfexp2 d a m => 1409286146 + d.toNat * 262144 + a.toNat * 2048 + m.toNat * 8
  | .vflog2 d a m => 1409286147 + d.toNat * 262144 + a.toNat * 2048 + m.toNat * 8
  | .vftanh d a m => 1409286148 + d.toNat * 262144 + a.toNat * 2048 + m.toNat * 8
  | .vfcmpeq d a b m => 1442840576 + d.toNat * 262144 + a.toNat * 2048 + b.toNat * 16 + m.toNat * 8
  | .vfcmplt d a b m => 1442840577 + d.toNat * 262144 + a.toNat * 2048 + b.toNat * 16 + m.toNat * 8
  | .vfcmple d a b m => 1442840578 + d.toNat * 262144 + a.toNat * 2048 + b.toNat * 16 + m.toNat * 8
  | .vcvt d a c m => 1476395008 + d.toNat * 262144 + a.toNat * 2048 + c.toNat * 16 + m.toNat * 8
  | .vnarrow d a b m => 1476395009 + d.toNat * 262144 + a.toNat * 2048 + b.toNat * 16 + m.toNat * 8
  | .vdq d a b m => 1476395010 + d.toNat * 262144 + a.toNat * 2048 + b.toNat * 16 + m.toNat * 8
  | .vand d a b m => 1610612736 + d.toNat * 262144 + a.toNat * 2048 + b.toNat * 16 + m.toNat * 8
  | .vor d a b m => 1610612737 + d.toNat * 262144 + a.toNat * 2048 + b.toNat * 16 + m.toNat * 8
  | .vxor d a b m => 1610612738 + d.toNat * 262144 + a.toNat * 2048 + b.toNat * 16 + m.toNat * 8
  | .vfshl d a b m => 1610612739 + d.toNat * 262144 + a.toNat * 2048 + b.toNat * 16 + m.toNat * 8
  | .vfshr d a b m => 1610612740 + d.toNat * 262144 + a.toNat * 2048 + b.toNat * 16 + m.toNat * 8
  | .vrot d a b m => 1610612741 + d.toNat * 262144 + a.toNat * 2048 + b.toNat * 16 + m.toNat * 8
  | .vpopc d a m => 1610612742 + d.toNat * 262144 + a.toNat * 2048 + m.toNat * 8
  | .vclz d a m => 1610612743 + d.toNat * 262144 + a.toNat * 2048 + m.toNat * 8
  | .vlut3Tt71 t d a b => 1644167168 + t.toNat / 64 % 2 * 16777216 + t.toNat / 32 % 2 * 131072 + t.toNat / 16 % 2 * 1024 + t.toNat % 16 + d.toNat * 262144 + a.toNat * 2048 + b.toNat * 16
  | .vlut3Tt70 t d a b => 1677721600 + t.toNat / 64 % 2 * 16777216 + t.toNat / 32 % 2 * 131072 + t.toNat / 16 % 2 * 1024 + t.toNat % 16 + d.toNat * 262144 + a.toNat * 2048 + b.toNat * 16
  | .vslideup d a b m => 1711276032 + d.toNat * 262144 + a.toNat * 2048 + b.toNat * 16 + m.toNat * 8
  | .vslidedn d a b m => 1711276033 + d.toNat * 262144 + a.toNat * 2048 + b.toNat * 16 + m.toNat * 8
  | .vgather d a b m => 1711276034 + d.toNat * 262144 + a.toNat * 2048 + b.toNat * 16 + m.toNat * 8
  | .vcompress d a => 1711276043 + d.toNat * 262144 + a.toNat * 2048
  | .vexpand d a => 1711276044 + d.toNat * 262144 + a.toNat * 2048
  | .vbcast d a m => 1711276037 + d.toNat * 262144 + a.toNat * 2048 + m.toNat * 8
  | .vtrans d a m => 1711276038 + d.toNat * 262144 + a.toNat * 2048 + m.toNat * 8
  | .vrowsh d a b m => 1711276039 + d.toNat * 262144 + a.toNat * 2048 + b.toNat * 16 + m.toNat * 8
  | .vredsum d a m => 1744830464 + d.toNat * 262144 + a.toNat * 2048 + m.toNat * 8
  | .vredmax d a m => 1744830465 + d.toNat * 262144 + a.toNat * 2048 + m.toNat * 8
  | .vredmin d a m => 1744830466 + d.toNat * 262144 + a.toNat * 2048 + m.toNat * 8
  | .vredand d a m => 1744830467 + d.toNat * 262144 + a.toNat * 2048 + m.toNat * 8
  | .vredor d a m => 1744830468 + d.toNat * 262144 + a.toNat * 2048 + m.toNat * 8
  | .vfredsum d a m => 1744830469 + d.toNat * 262144 + a.toNat * 2048 + m.toNat * 8
  | .vfredmax d a m => 1744830470 + d.toNat * 262144 + a.toNat * 2048 + m.toNat * 8
  | .mand d a b => 1778384896 + d.toNat * 262144 + a.toNat * 2048 + b.toNat * 16
  | .mor d a b => 1778384897 + d.toNat * 262144 + a.toNat * 2048 + b.toNat * 16
  | .mxor d a b => 1778384898 + d.toNat * 262144 + a.toNat * 2048 + b.toNat * 16
  | .mnot d a => 1778384899 + d.toNat * 262144 + a.toNat * 2048
  | .mpopc d a => 1778384900 + d.toNat * 262144 + a.toNat * 2048
  | .mfirst d a => 1778384901 + d.toNat * 262144 + a.toNat * 2048
  | .mset d a b => 1778384902 + d.toNat * 262144 + a.toNat * 2048 + b.toNat * 16
  | .vchain n => 1811939328 + n.toNat * 262144
  | .vchrun a b => 1811939329 + a.toNat * 2048 + b.toNat * 16
  | .qset d a i => 1879048192 + d.toNat * 262144 + a.toNat * 2048 + i.toNat * 16
  | .qsetx d a b => 1879048193 + d.toNat * 262144 + a.toNat * 2048 + b.toNat * 16
  | .qbind d a k => 1879048194 + d.toNat * 262144 + a.toNat * 2048 + k.toNat * 16
  | .qunbind d => 1879048195 + d.toNat * 262144
  | .vld d a m => 1912602624 + d.toNat * 262144 + a.toNat * 2048 + m.toNat * 8
  | .vlds d a b m => 1912602625 + d.toNat * 262144 + a.toNat * 2048 + b.toNat * 16 + m.toNat * 8
  | .vldx d a b m => 1912602626 + d.toNat * 262144 + a.toNat * 2048 + b.toNat * 16 + m.toNat * 8
  | .vst d a m => 1946157056 + d.toNat * 262144 + a.toNat * 2048 + m.toNat * 8
  | .vsts d a b m => 1946157057 + d.toNat * 262144 + a.toNat * 2048 + b.toNat * 16 + m.toNat * 8
  | .vstx d a b m => 1946157058 + d.toNat * 262144 + a.toNat * 2048 + b.toNat * 16 + m.toNat * 8
  | .vstu d a m => 1946157059 + d.toNat * 262144 + a.toNat * 2048 + m.toNat * 8
  | .vstn d a b m => 1946157060 + d.toNat * 262144 + a.toNat * 2048 + b.toNat * 16 + m.toNat * 8
  | .vstrc d a b m => 1946157061 + d.toNat * 262144 + a.toNat * 2048 + b.toNat * 16 + m.toNat * 8
  | .vspill d a => 1979711488 + d.toNat * 262144 + a.toNat * 2048
  | .vfill d a => 1979711489 + d.toNat * 262144 + a.toNat * 2048
  | .kld n a c j => 2013265920 + n.toNat / 8 % 128 * 262144 + n.toNat % 8 * 256 + a.toNat * 2048 + c.toNat * 16 + j.toNat
  | .top t a b c r => 2147483648 + t.toNat * 2097152 + a.toNat * 16384 + b.toNat * 128 + c.toNat * 8 + r.toNat
  | .topi t a b c r => 2181038080 + t.toNat * 2097152 + a.toNat * 16384 + b.toNat * 128 + c.toNat * 8 + r.toNat
  | .topq t a b c r => 2214592512 + t.toNat * 2097152 + a.toNat * 16384 + b.toNat * 128 + c.toNat * 8 + r.toNat
  | .toph t a b c r => 2248146944 + t.toNat * 2097152 + a.toNat * 16384 + b.toNat * 128 + c.toNat * 8 + r.toNat
  | .tops t a b side c r => 2281701376 + t.toNat * 2097152 + a.toNat * 16384 + b.toNat * 128 + side.toNat * 64 + c.toNat * 8 + r.toNat
  | .tmovv t d b => 2315255808 + t.toNat * 2097152 + d.toNat * 16384 + b.toNat * 128
  | .tmovt t a b => 2315255840 + t.toNat * 2097152 + a.toNat * 16384 + b.toNat * 128
  | .tepi t d b cb o u => 2315255872 + t.toNat * 2097152 + d.toNat * 16384 + b.toNat * 128 + cb.toNat * 16 + o.toNat * 4 + u.toNat
  | .tcfg d => 2348810240 + d.toNat * 262144
  | .tzero d => 2348810241 + d.toNat * 262144
  | .tstat d c => 2348810242 + d.toNat * 262144 + c.toNat * 64
  | .dadd d a b => 2415919104 + d.toNat * 262144 + a.toNat * 2048 + b.toNat * 16
  | .dsub d a b => 2415919105 + d.toNat * 262144 + a.toNat * 2048 + b.toNat * 16
  | .dmul d a b => 2415919106 + d.toNat * 262144 + a.toNat * 2048 + b.toNat * 16
  | .dmax d a b => 2415919107 + d.toNat * 262144 + a.toNat * 2048 + b.toNat * 16
  | .dmin d a b => 2415919108 + d.toNat * 262144 + a.toNat * 2048 + b.toNat * 16
  | .dmix d a b => 2415919109 + d.toNat * 262144 + a.toNat * 2048 + b.toNat * 16
  | .daff d a b => 2449473536 + d.toNat * 262144 + a.toNat * 2048 + b.toNat * 16
  | .dmom d a k => 2483027968 + d.toNat * 262144 + a.toNat * 2048 + k.toNat * 16
  | .dqnt d a b => 2483027969 + d.toNat * 262144 + a.toNat * 2048 + b.toNat * 16
  | .dcdf d a b => 2483027970 + d.toNat * 262144 + a.toNat * 2048 + b.toNat * 16
  | .dld d a c => 2516582400 + d.toNat * 262144 + a.toNat * 2048 + c.toNat * 16
  | .dst d a => 2516582401 + d.toNat * 262144 + a.toNat * 2048
  | .dfromv d a c => 2516582402 + d.toNat * 262144 + a.toNat * 2048 + c.toNat * 16
  | .dbuild d a b => 2516582403 + d.toNat * 262144 + a.toNat * 2048 + b.toNat * 16
  | .dtag d a b => 2516582404 + d.toNat * 262144 + a.toNat * 2048 + b.toNat * 16
  | .xcopy a b => 2550136832 + a.toNat * 2048 + b.toNat * 16
  | .xgath a b => 2550136833 + a.toNat * 2048 + b.toNat * 16
  | .xcoll a b => 2550136834 + a.toNat * 2048 + b.toNat * 16
  | .binit a b => 2583691264 + a.toNat * 2048 + b.toNat * 16
  | .barrive a n => 2583691265 + a.toNat * 2048 + n.toNat * 16
  | .bexpect a b => 2583691266 + a.toNat * 2048 + b.toNat * 16
  | .bwait d a b => 2583691267 + d.toNat * 262144 + a.toNat * 2048 + b.toNat * 16
  | .btest d a => 2583691268 + d.toNat * 262144 + a.toNat * 2048
  | .dbar => 2684354560
  | .seal d w => 2717908992 + d.toNat * 262144 + w.toNat * 16
  | .rinq d k => 2717908993 + d.toNat * 262144 + k.toNat * 16
  | .extw d => 2717908994 + d.toNat * 262144
  | .awaitImm d i n => 2751463424 + d.toNat * 262144 + i.toNat * 128 + n.toNat
  | .awaitReg d a b => 2768240640 + d.toNat * 262144 + a.toNat * 2048 + b.toNat * 16
  | .apref l a e v => 2785017856 + l.toNat * 262144 + a.toNat * 2048 + e.toNat * 16 + v.toNat
  | .aplace a b g => 2818572288 + a.toNat * 2048 + b.toNat * 16 + g.toNat
  | .aprio p => 2852126720 + p.toNat * 16
  | .aorder p => 2852126721 + p.toNat * 16
  | .ald d a i => 2885681152 + d.toNat * 262144 + a.toNat * 2048 + i.toNat
  | .adrop p => 2919235584 + p.toNat * 16
  | .aend => 2919235585
  | .monitorWake _ => 0
  | .monwaitTimeout _ => 0
  | .engineCount _ => 0
  | .transferRetire _ => 0
  | .collMatch _ => 0
  | .collTimeout _ => 0
  | .bwaitWake _ => 0
  | .bwaitDeadline _ => 0
  | .detPhaseMerge _ => 0
  | .awaitReturn _ => 0
  | .adviceWatchdog _ => 0
  | .hartWatchdog _ => 0
  | .vectorSoftError _ => 0
  | .sectorPoison _ _ _ => 0
  | .hartAged _ => 0
  | .hartResident _ => 0
  | .contextSwitch _ => 0
  | .contextRestore _ => 0
  | .parkExpiry _ => 0
  | .timeSlice _ _ => 0
  | .graphPost _ _ => 0
  | .followArmedWord _ => 0
  | .nodeReady _ => 0
  | .admitNode _ => 0
  | .evalCond _ => 0
  | .evalLoop _ => 0
  | .evalSwitch _ => 0
  | .signalWrite _ => 0
  | .nodeDone _ => 0
  | .nodeRetire _ => 0
  | .resDone => 0
  | .invGo _ => 0
  | .invalidationDone => 0
  | .remapWrite _ _ _ => 0
  | .migratePage _ _ _ => 0
  | .graphCtlWrite _ _ => 0
  | .rds _ _ => 0
  | .rdx _ _ => 0
  | .upg _ _ => 0
  | .wbd _ _ _ => 0
  | .evc _ _ => 0
  | .invack _ _ => 0
  | .ack _ _ _ => 0
  | .ackd _ _ _ => 0
  | .data _ _ => 0
  | .datae _ _ => 0
  | .grante _ _ => 0
  | .inv _ _ => 0
  | .recalls _ _ => 0
  | .recalli _ _ => 0
  | .wback _ _ => 0
  | .hbmActRefresh _ _ => 0
  | .actParityError _ _ => 0
  | .sealTimer => 0
  | .sealRequest _ => 0
  | .start _ => 0
  | .sealDrainDone => 0
  | .vote _ _ => 0
  | .sealed _ => 0
  | .voteTimeout _ => 0
  | .rollback => 0
  | .parityBuildDone => 0
  | .parRbGo _ => 0
  | .straitLinkTrain _ _ _ _ _ => 0
  | .straitLinkDown _ => 0
  | .cwPortTrain _ _ _ => 0
  | .cwPortDown _ => 0
  | .hostPostedWrite _ _ => 0
  | .hostRead _ _ => 0
  | .hostAtomic _ _ _ _ => 0
  | .errPop _ => 0
  | .errOvfClear _ => 0
  | .fwUpdateGo _ _ _ => 0
  | .fwQuiesceDone => 0
  | .fwQuiesceTimeout => 0
  | .fwHandover => 0
  | .fwHb _ => 0
  | .fwHbTimeout => 0
  | .debugUnlock _ => 0
  | .negotiateAlgorithms _ _ => 0
  | .getMeasurements _ _ => 0
  | .rstCtlCold => 0
  | .rstCtlWarm => 0
  | .resetInput _ => 0
  | .supplyFault => 0
  | .referenceLoss => 0
  | .thermalThrottle _ _ => 0
  | .thermalRecover _ _ => 0
  | .thermalTrip _ _ => 0
  | .mgmtRegisterWrite _ _ => 0
  | .reservedEncoding _ => 0
  | .powerUp => 0
  | .rebuildDone => 0
  | .straitFlitReplay _ => 0
  | .cwFlitReplay _ => 0
  | .frameForward _ _ _ => 0

/-- An instruction that has a word (an event of the part has none). -/
def Instr.isWord (i : Instr) : Bool :=
  match i with
  | .add _ _ _ => true
  | .sub _ _ _ => true
  | .and _ _ _ => true
  | .or _ _ _ => true
  | .xor _ _ _ => true
  | .andn _ _ _ => true
  | .shl _ _ _ => true
  | .shr _ _ _ => true
  | .sra _ _ _ => true
  | .rotr _ _ _ => true
  | .slt _ _ _ => true
  | .sltu _ _ _ => true
  | .min _ _ _ => true
  | .max _ _ _ => true
  | .minu _ _ _ => true
  | .maxu _ _ _ => true
  | .mul _ _ _ => true
  | .mulh _ _ _ => true
  | .mulhu _ _ _ => true
  | .div _ _ _ => true
  | .divu _ _ _ => true
  | .rem _ _ _ => true
  | .remu _ _ _ => true
  | .clz _ _ => true
  | .ctz _ _ => true
  | .popc _ _ => true
  | .sel _ _ _ => true
  | .addi _ _ _ => true
  | .andi _ _ _ => true
  | .ori _ _ _ => true
  | .xori _ _ _ => true
  | .slti _ _ _ => true
  | .shli _ _ _ => true
  | .shri _ _ _ => true
  | .srai _ _ _ => true
  | .movi _ _ => true
  | .movhi _ _ => true
  | .addpc _ _ => true
  | .ldb _ _ _ => true
  | .ldbu _ _ _ => true
  | .ldh _ _ _ => true
  | .ldhu _ _ _ => true
  | .ldw _ _ _ => true
  | .ldwu _ _ _ => true
  | .ldd _ _ _ => true
  | .ldp _ _ _ => true
  | .stb _ _ _ => true
  | .sth _ _ _ => true
  | .stw _ _ _ => true
  | .std _ _ _ => true
  | .stp _ _ _ => true
  | .beq _ _ _ => true
  | .bne _ _ _ => true
  | .blt _ _ _ => true
  | .bge _ _ _ => true
  | .bltu _ _ _ => true
  | .bgeu _ _ _ => true
  | .loop _ _ => true
  | .loopi _ _ => true
  | .j _ => true
  | .jal _ _ => true
  | .jalr _ _ _ => true
  | .csrr _ _ => true
  | .csrw _ _ => true
  | .csrs _ _ => true
  | .csrc _ _ => true
  | .wbase _ => true
  | .mark _ => true
  | .trap _ => true
  | .eret => true
  | .yield => true
  | .park _ => true
  | .ozhash _ => true
  | .ozvrfy _ => true
  | .ozsign _ => true
  | .ozkdf _ => true
  | .ozrand _ => true
  | .ozwipe _ => true
  | .amoadd _ _ _ _ => true
  | .amoand _ _ _ _ => true
  | .amoor _ _ _ _ => true
  | .amoxor _ _ _ _ => true
  | .amomin _ _ _ _ => true
  | .amomax _ _ _ _ => true
  | .amominu _ _ _ _ => true
  | .amomaxu _ _ _ _ => true
  | .amoswap _ _ _ _ => true
  | .amoadd32 _ _ _ _ => true
  | .amoand32 _ _ _ _ => true
  | .amoor32 _ _ _ _ => true
  | .amoxor32 _ _ _ _ => true
  | .amomin32 _ _ _ _ => true
  | .amomax32 _ _ _ _ => true
  | .amominu32 _ _ _ _ => true
  | .amomaxu32 _ _ _ _ => true
  | .amoswap32 _ _ _ _ => true
  | .cas _ _ _ _ => true
  | .casp _ _ _ _ => true
  | .lda _ _ _ _ _ => true
  | .stl _ _ _ _ _ => true
  | .fence _ => true
  | .fenceSv _ => true
  | .fenceVs _ => true
  | .fenceVv _ => true
  | .monarm _ => true
  | .monwait _ _ => true
  | .cwb _ _ => true
  | .cinv _ _ => true
  | .cflush _ _ => true
  | .vsettype _ _ => true
  | .vsetshape _ _ _ => true
  | .vsetl _ _ => true
  | .vlq _ => true
  | .vadd _ _ _ _ => true
  | .vsub _ _ _ _ => true
  | .vmul _ _ _ _ => true
  | .vmulh _ _ _ _ => true
  | .vmadd _ _ _ _ => true
  | .vmin _ _ _ _ => true
  | .vmax _ _ _ _ => true
  | .vabsd _ _ _ _ => true
  | .vminu _ _ _ _ => true
  | .vmaxu _ _ _ _ => true
  | .vadds _ _ _ _ => true
  | .vsubs _ _ _ _ => true
  | .vavg _ _ _ _ => true
  | .vshl _ _ _ _ => true
  | .vshr _ _ _ _ => true
  | .vsra _ _ _ _ => true
  | .vwadd _ _ _ _ => true
  | .vwmul _ _ _ _ => true
  | .vcmpeq _ _ _ _ => true
  | .vcmpne _ _ _ _ => true
  | .vcmplt _ _ _ _ => true
  | .vcmple _ _ _ _ => true
  | .vcmpltu _ _ _ _ => true
  | .vcmpleu _ _ _ _ => true
  | .vfadd _ _ _ _ => true
  | .vfsub _ _ _ _ => true
  | .vfmul _ _ _ _ => true
  | .vfma _ _ _ _ => true
  | .vfms _ _ _ _ => true
  | .vfnma _ _ _ _ => true
  | .vfdiv _ _ _ _ => true
  | .vfmin _ _ _ _ => true
  | .vfmax _ _ _ _ => true
  | .vfabs _ _ _ => true
  | .vfneg _ _ _ => true
  | .vfclass _ _ _ => true
  | .vfsqrt _ _ _ => true
  | .vfrcp _ _ _ => true
  | .vfrsq _ _ _ => true
  | .vfexp2 _ _ _ => true
  | .vflog2 _ _ _ => true
  | .vftanh _ _ _ => true
  | .vfcmpeq _ _ _ _ => true
  | .vfcmplt _ _ _ _ => true
  | .vfcmple _ _ _ _ => true
  | .vcvt _ _ _ _ => true
  | .vnarrow _ _ _ _ => true
  | .vdq _ _ _ _ => true
  | .vand _ _ _ _ => true
  | .vor _ _ _ _ => true
  | .vxor _ _ _ _ => true
  | .vfshl _ _ _ _ => true
  | .vfshr _ _ _ _ => true
  | .vrot _ _ _ _ => true
  | .vpopc _ _ _ => true
  | .vclz _ _ _ => true
  | .vlut3Tt71 _ _ _ _ => true
  | .vlut3Tt70 _ _ _ _ => true
  | .vslideup _ _ _ _ => true
  | .vslidedn _ _ _ _ => true
  | .vgather _ _ _ _ => true
  | .vcompress _ _ => true
  | .vexpand _ _ => true
  | .vbcast _ _ _ => true
  | .vtrans _ _ _ => true
  | .vrowsh _ _ _ _ => true
  | .vredsum _ _ _ => true
  | .vredmax _ _ _ => true
  | .vredmin _ _ _ => true
  | .vredand _ _ _ => true
  | .vredor _ _ _ => true
  | .vfredsum _ _ _ => true
  | .vfredmax _ _ _ => true
  | .mand _ _ _ => true
  | .mor _ _ _ => true
  | .mxor _ _ _ => true
  | .mnot _ _ => true
  | .mpopc _ _ => true
  | .mfirst _ _ => true
  | .mset _ _ _ => true
  | .vchain _ => true
  | .vchrun _ _ => true
  | .qset _ _ _ => true
  | .qsetx _ _ _ => true
  | .qbind _ _ _ => true
  | .qunbind _ => true
  | .vld _ _ _ => true
  | .vlds _ _ _ _ => true
  | .vldx _ _ _ _ => true
  | .vst _ _ _ => true
  | .vsts _ _ _ _ => true
  | .vstx _ _ _ _ => true
  | .vstu _ _ _ => true
  | .vstn _ _ _ _ => true
  | .vstrc _ _ _ _ => true
  | .vspill _ _ => true
  | .vfill _ _ => true
  | .kld _ _ _ _ => true
  | .top _ _ _ _ _ => true
  | .topi _ _ _ _ _ => true
  | .topq _ _ _ _ _ => true
  | .toph _ _ _ _ _ => true
  | .tops _ _ _ _ _ _ => true
  | .tmovv _ _ _ => true
  | .tmovt _ _ _ => true
  | .tepi _ _ _ _ _ _ => true
  | .tcfg _ => true
  | .tzero _ => true
  | .tstat _ _ => true
  | .dadd _ _ _ => true
  | .dsub _ _ _ => true
  | .dmul _ _ _ => true
  | .dmax _ _ _ => true
  | .dmin _ _ _ => true
  | .dmix _ _ _ => true
  | .daff _ _ _ => true
  | .dmom _ _ _ => true
  | .dqnt _ _ _ => true
  | .dcdf _ _ _ => true
  | .dld _ _ _ => true
  | .dst _ _ => true
  | .dfromv _ _ _ => true
  | .dbuild _ _ _ => true
  | .dtag _ _ _ => true
  | .xcopy _ _ => true
  | .xgath _ _ => true
  | .xcoll _ _ => true
  | .binit _ _ => true
  | .barrive _ _ => true
  | .bexpect _ _ => true
  | .bwait _ _ _ => true
  | .btest _ _ => true
  | .dbar => true
  | .seal _ _ => true
  | .rinq _ _ => true
  | .extw _ => true
  | .awaitImm _ _ _ => true
  | .awaitReg _ _ _ => true
  | .apref _ _ _ _ => true
  | .aplace _ _ _ => true
  | .aprio _ => true
  | .aorder _ => true
  | .ald _ _ _ => true
  | .adrop _ => true
  | .aend => true
  | .monitorWake _ => false
  | .monwaitTimeout _ => false
  | .engineCount _ => false
  | .transferRetire _ => false
  | .collMatch _ => false
  | .collTimeout _ => false
  | .bwaitWake _ => false
  | .bwaitDeadline _ => false
  | .detPhaseMerge _ => false
  | .awaitReturn _ => false
  | .adviceWatchdog _ => false
  | .hartWatchdog _ => false
  | .vectorSoftError _ => false
  | .sectorPoison _ _ _ => false
  | .hartAged _ => false
  | .hartResident _ => false
  | .contextSwitch _ => false
  | .contextRestore _ => false
  | .parkExpiry _ => false
  | .timeSlice _ _ => false
  | .graphPost _ _ => false
  | .followArmedWord _ => false
  | .nodeReady _ => false
  | .admitNode _ => false
  | .evalCond _ => false
  | .evalLoop _ => false
  | .evalSwitch _ => false
  | .signalWrite _ => false
  | .nodeDone _ => false
  | .nodeRetire _ => false
  | .resDone => false
  | .invGo _ => false
  | .invalidationDone => false
  | .remapWrite _ _ _ => false
  | .migratePage _ _ _ => false
  | .graphCtlWrite _ _ => false
  | .rds _ _ => false
  | .rdx _ _ => false
  | .upg _ _ => false
  | .wbd _ _ _ => false
  | .evc _ _ => false
  | .invack _ _ => false
  | .ack _ _ _ => false
  | .ackd _ _ _ => false
  | .data _ _ => false
  | .datae _ _ => false
  | .grante _ _ => false
  | .inv _ _ => false
  | .recalls _ _ => false
  | .recalli _ _ => false
  | .wback _ _ => false
  | .hbmActRefresh _ _ => false
  | .actParityError _ _ => false
  | .sealTimer => false
  | .sealRequest _ => false
  | .start _ => false
  | .sealDrainDone => false
  | .vote _ _ => false
  | .sealed _ => false
  | .voteTimeout _ => false
  | .rollback => false
  | .parityBuildDone => false
  | .parRbGo _ => false
  | .straitLinkTrain _ _ _ _ _ => false
  | .straitLinkDown _ => false
  | .cwPortTrain _ _ _ => false
  | .cwPortDown _ => false
  | .hostPostedWrite _ _ => false
  | .hostRead _ _ => false
  | .hostAtomic _ _ _ _ => false
  | .errPop _ => false
  | .errOvfClear _ => false
  | .fwUpdateGo _ _ _ => false
  | .fwQuiesceDone => false
  | .fwQuiesceTimeout => false
  | .fwHandover => false
  | .fwHb _ => false
  | .fwHbTimeout => false
  | .debugUnlock _ => false
  | .negotiateAlgorithms _ _ => false
  | .getMeasurements _ _ => false
  | .rstCtlCold => false
  | .rstCtlWarm => false
  | .resetInput _ => false
  | .supplyFault => false
  | .referenceLoss => false
  | .thermalThrottle _ _ => false
  | .thermalRecover _ _ => false
  | .thermalTrip _ _ => false
  | .mgmtRegisterWrite _ _ => false
  | .reservedEncoding _ => false
  | .powerUp => false
  | .rebuildDone => false
  | .straitFlitReplay _ => false
  | .cwFlitReplay _ => false
  | .frameForward _ _ _ => false

/-- The word of an instruction. -/
def encode (i : Instr) : BitVec 32 := BitVec.ofNat 32 (encodeNat i)

/-- A word as it stands in memory: four bytes, the least significant first (00 R5, 05 R108). -/
def wordBytes (w : BitVec 32) : List Byte :=
  [BitVec.ofNat 8 (bits w 0 8), BitVec.ofNat 8 (bits w 8 8), BitVec.ofNat 8 (bits w 16 8), BitVec.ofNat 8 (bits w 24 8)]

/-- The word of four bytes, the least significant first. -/
def bytesWord (b0 b1 b2 b3 : Byte) : BitVec 32 :=
  BitVec.ofNat 32 (b0.toNat + b1.toNat * 256 + b2.toNat * 65536 + b3.toNat * 16777216)

/-- Decoding from bytes: the first instruction and the bytes after it; `none` when fewer than four bytes are left or the word is reserved. -/
noncomputable def decodeBytes (l : List Byte) : Option (Instr × List Byte) :=
  match l with
  | b0 :: b1 :: b2 :: b3 :: rest =>
    match decode (bytesWord b0 b1 b2 b3) with
    | some i => some (i, rest)
    | none => none
  | _ => none

/-- The instruction the decoder reads from a word whose bits are numbered as the opcode table numbers them: one 32-bit word. -/
noncomputable def decodeTableWord (nbits w : Nat) : Option Instr :=
  match decodeBytes (wordBytes (BitVec.ofNat 32 (w % 2 ^ nbits))) with
  | some (i, _) => some i
  | none => none

end Sys2Proof
end

