-- ==== Sys2Proof/Machine/State.lean ====
section
/-! DEFINITION. Sys2Proof/Machine/State.lean: the state of a CLT-C4-512 module as plain data, its reset, and the reasons a step can stop.
Field docstrings cite the rule of spec/ that names the state. -/
namespace Sys2Proof.Machine

/-- Sparse data by key: a list of (key, value) pairs with keys strictly rising and no entry equal to what an unlisted key reads as (`Store.wf`
in Machine/Store.lean). -/
abbrev Store (w : Nat) := List (Nat × BitVec w)

/-- Memory: bytes by 52-bit physical address (04 R66), in the same form. -/
abbrev Memory := List Host.Cell

/-- One active hardware loop level (06 R131): addresses of the first and the last instruction of the body. -/
structure Level where
  start : Word
  stop : Word
deriving DecidableEq, Repr

/-- A scalar front end: of a hart (05 R90), of an advice context (12 R251) or of Ozsis (22 R443). -/
structure Front where
  /-- Address of the next instruction (05 R90). -/
  pc : Word
  /-- Physical scalar registers by number (05 R94). -/
  regs : Store 64
  /-- Window base (06 R136). -/
  wbase : BitVec 8
  /-- lc0 to lc2 by level number (06 R131, Table 6.5). -/
  lc : Store 64
  /-- Active loop levels, the innermost first (06 R131 to R135). -/
  levels : List Level
deriving DecidableEq, Repr

/-- Who executes scalar words (05 R97, 12 R251, 22 R443). -/
inductive Agent where
  | hart
  | advice
  | ozsis
deriving DecidableEq, Repr

/-- Where a hart stands (05 R90, R103; 18 R389). -/
inductive HartStatus where
  | absent
  | running
  | parked
  | waiting
  | ended
  | failed
deriving DecidableEq, Repr

/-- What a hart waits for. `retry`: the instruction at pc has not issued, it waits for engine transfers (15 R341) or a stable line (11 R236). -/
inductive Wait where
  | none
  /-- BWAIT (15 R351): destination register, operand, phase, bound; PHASE has changed since the hart fell asleep. -/
  | bwait (rd : Nat) (op : Word) (p : BitVec 4) (bound : BitVec 48) (moved : Bool)
  /-- MONWAIT (16 R367): destination register and bound. -/
  | monwait (rd : Nat) (bound : Word)
  /-- DBAR (17 R380). -/
  | dbar
  /-- SEAL with w = 1, or EXTW (19 R420): destination register, interval awaited, value written. -/
  | sealWait (rd : Nat) (m : W32) (extw : Bool)
  /-- SEAL, EXTW or DBAR, not issued, waits without its slot for the hart's engine transfers (19 R420, 17 R380). -/
  | xfers
  /-- PARK n (06 R143): control cycles. -/
  | park (n : Nat)
  | retry
deriving DecidableEq, Repr

/-- An entry of the replay queue (05 R98): encoding, address, captured scalar operands. -/
structure Replay where
  word : BitVec 32
  addr : Word
  capA : Word
  capB : Word
deriving DecidableEq, Repr

/-- A stream register (09 R189, Table 9.1). -/
structure Stream where
  base : Word
  pos : BitVec 40
  stride : BitVec 32
  count : BitVec 32
  etype : BitVec 8
  valid : Bool
  bound : Bool
  keep : Bool
  breg : BitVec 6
deriving DecidableEq, Repr

/-- State of an advice context (12 R251). -/
inductive AdvStatus where
  | none
  | ready
  | waiting
  | ended
deriving DecidableEq, Repr

/-- An advice context (12 R251 to R268). -/
structure Advice where
  status : AdvStatus
  front : Front
  /-- ALDF (R251, R267). -/
  aldf : Bool
  /-- Action count (R261). -/
  actions : Nat
  /-- Watchdog count (R262). -/
  wdog : Nat
  /-- The AWAIT in progress (R263): destination register, id, occurrence. -/
  awaitRd : Nat
  awaitId : BitVec 16
  awaitN : BitVec 48
  /-- Id of the MARK that has set pm.occ to the awaited occurrence (R260, R263). -/
  markId : Option (BitVec 16)
  /-- Advice priority, key 3 of 05 R101 (R265). -/
  prio : BitVec 4
  /-- Issue-order mode (R265). -/
  order : BitVec 2
  /-- Prefetch lines not yet sent to memory (R268): physical 64-byte sector, level. -/
  unsent : List (Nat × BitVec 2)
  /-- Round since which the next word has waited for the sequencer, key 4 of 05 R101. -/
  since : Nat
  /-- Virtual bounds of the advice text (R256). -/
  text : Word
  textSize : Nat
deriving DecidableEq, Repr

/-- Vector side of a hart (08, 09, 07). -/
structure Vec where
  /-- vtype (08 R162). -/
  vtype : BitVec 13
  /-- vl (08 R170). -/
  vl : BitVec 18
  /-- vstart (08 R166). -/
  vstart : BitVec 18
  /-- vshape: columns and rows (08 R163, R170). -/
  vshape : BitVec 40
  /-- fflags (07 R149, Table 7.7). -/
  fflags : BitVec 6
  /-- frm (07 Table 7.4). -/
  frm : BitVec 2
  /-- Vector registers by byte: register number times 98304 plus byte (05 R92, R95). -/
  vrf : Store 8
  /-- Mask registers by bit: mask number times 2^18 plus element (05 R95). -/
  masks : Store 1
  /-- Stream registers q0 to q15 (09 R189). -/
  streams : List Stream
  /-- Scale file k[0] to k[1023]: FP16 scale in bits 15..0, zero point in bits 23..16, pad byte above (07 Table 7.3, 05 Table 5.2). -/
  scale : Store 32
  /-- Recompute-check LFSR (08 R186). -/
  lfsr : BitVec 32
deriving DecidableEq, Repr

/-- Matrix side of a hart (13). -/
structure Mat where
  /-- tshape (13 Table 13.1). -/
  tshape : Word
  /-- tfmt (13 Table 13.2). -/
  tfmt : Word
  /-- tgrp (13 Table 13.3). -/
  tgrp : Word
  /-- tstat (13 Table 13.4). -/
  tstat : Word
  /-- Tile cells: (tile times 128 plus row) times 256 plus column (13 R272). -/
  tiles : Store 32
  /-- Cells whose parity is wrong, by the same key (13 R296). -/
  bad : Store 1
deriving DecidableEq, Repr

/-- Distribution side of a hart (14). -/
structure Dist where
  /-- Values: (register times 256 plus element) times 8 plus point, f32 bits (14 R306). -/
  values : Store 32
  /-- Weights by the same key; an unlisted one is 0x0020_0000 (14 R306). -/
  weights : Store 32
  /-- Dependence tags by register (14 R311). -/
  tags : Store 16
deriving DecidableEq, Repr

/-- Trap registers (18 Table 18.2). -/
structure TrapRegs where
  tcause : BitVec 8
  tval : Word
  tepc : Word
  /-- PWB in bits 15..8, VEC 2, END 1, IH 0. -/
  tstatus : BitVec 16
  tvec : Word
deriving DecidableEq, Repr

/-- Fault injection (18 R399): tinject, the events counted for each kind, and the instruction whose loads have been counted and which has not completed: its address
and the number of its first load. -/
structure Inject where
  tinject : Word
  counts : Store 64
  held : Option (Word × Nat)
deriving DecidableEq, Repr

/-- Determinism state of a task (17 R381; 05 Table 5.2 section 11) and its arrival at DBAR (17 R380). -/
structure Det where
  sigR : Store 1
  sigW : Store 1
  arrived : Bool
deriving DecidableEq, Repr

/-- Counters of 18 Table 18.6. -/
structure Counters where
  cycle : Word
  acycle : Word
  retired : Word
  vstall : Word
deriving DecidableEq, Repr

/-- A hart: a resident hart context and the task it runs (05 R90). -/
structure Hart where
  /-- The model's name for the context; no register reads it. -/
  hid : Nat
  status : HartStatus
  /-- Switched out: the context lies in its save area (05 R106, 04 R79), at this physical address. -/
  out : Bool
  saveAt : Nat
  wait : Wait
  /-- Round in which the hart began its wait, or its next instruction entered the front end, or it became ready to run (05 R101 key 4; 06 R143); round in
  which it was parked last (05 R106); and round of its last retirement, or of its becoming resident (18 R386). -/
  since : Nat
  parkedAt : Nat
  retiredAt : Nat
  /-- Node that the task belongs to, by number in State.nodes, and its task index (03 R61). -/
  node : Nat
  task : BitVec 24
  /-- Logical core (01 R14), physical core of the die (04 R75), hart context (05 R105). -/
  lcore : BitVec 8
  pcore : BitVec 7
  ctx : BitVec 3
  /-- First partition and number of partitions (05 R92, R105). -/
  pfirst : BitVec 3
  parts : BitVec 4
  /-- Vector registers (05 R92). -/
  vregs : BitVec 7
  /-- Lane slots of the core, S of 05 R91, and split of the hart's own header (14 R304). -/
  slots : BitVec 4
  hsplit : BitVec 4
  /-- Node priority (05 R101), determinism mode (17 Table 17.1), wid and widf (05 Table 5.6). -/
  prio : BitVec 3
  det : BitVec 2
  wid : Word
  widf : Word
  front : Front
  vec : Vec
  mat : Mat
  dist : Dist
  trap : TrapRegs
  inj : Inject
  /-- Attempts of the next comparison of a checked instruction in which the lanes are wrong (08 R187); no register reads it. -/
  lane : BitVec 2
  detm : Det
  ctr : Counters
  /-- pm.id and pm.occ (06 Table 6.6). -/
  pmId : BitVec 16
  pmOcc : BitVec 48
  /-- Monitored 64-byte block by physical sector number (16 R367). -/
  monitor : Option Nat
  /-- Replay queue: instructions issued and not retired (05 R98). -/
  window : List Replay
  /-- Control cycles passed over, at any shared resource, and the aged flag (05 R102). -/
  passed : Nat
  aged : Bool
  adv : Advice
deriving DecidableEq, Repr

/-- A range of a lease (04 R71): first address, bytes, rights, place (Table 3.9). -/
structure LeaseRange where
  base : Word
  len : Nat
  rd : Bool
  wr : Bool
  ex : Bool
  place : BitVec 8
deriving DecidableEq, Repr

/-- Node states (03 R46). -/
inductive NodeState where
  | free
  | posted
  | ready
  | leased
  | running
  | done
  | sealed
  | retired
  | failed
deriving DecidableEq, Repr

/-- A next word that has not been read yet (03 R44): its page is absent, or lacks RD. -/
inductive NextWait where
  | none
  | page
  | halted
deriving DecidableEq, Repr

/-- An occurrence of a node and what the scheduler keeps of it (03 R42 to R64). -/
structure Node where
  num : Nat
  /-- Virtual address and graph slot. -/
  addr : Word
  slot : BitVec 6
  state : NodeState
  /-- Fields copied at POSTED (R44, R45): the node, its launch header, its range list, the binary header, the binary's digest. -/
  raw : List Byte
  hdr : List Byte
  ranges : List Byte
  sem : List Byte
  digest : BitVec 256
  /-- Failure recorded by the reads of R45; 0 for none. -/
  readFail : BitVec 8
  /-- On the main strand of its graph, and the model's number of its strand (R43). -/
  main : Bool
  strand : Nat
  /-- Place of the node on that strand: the strand reached it after every node with a lower one (R46). -/
  pos : Nat
  /-- LOOP nodes whose body leads here, and offset of the word of the node that holds the selected successor: 8 for next (R43, R46, R49 to R51). -/
  loops : List Word
  sel : Nat
  /-- Next word not yet read (R44), completion states queued and not yet written (R48), and whether the first of these waits for its page. -/
  nextWait : NextWait
  cwWait : List (BitVec 4 × BitVec 8)
  cwPage : Bool
  /-- Arrivals at a JOIN, occurrence number, LOOP counter and capped bit, cause (R46, R50, Table 3.5). -/
  arrivals : Nat
  /-- Order in which nodes became READY, and the round in which this one did (R58). -/
  readyNo : Nat
  readyAt : Nat
  occ : BitVec 16
  iter : Nat
  capped : Bool
  cause : BitVec 8
  /-- Admission waits for RES_DONE (04 R72); pages that it has asked for, which are taken where system software has placed them (R82). -/
  resWait : Bool
  asked : List Nat
  /-- Lease, the address space it was installed in, and the leaf of every page it meets, by virtual page number (04 R71, R72). -/
  lease : List LeaseRange
  asid : BitVec 16
  pages : Store 64
  /-- Logical core of each group (04 R80), next task to start in each group, groups not placed yet (04 R80), tasks ended, failed tasks with their cause (R47). -/
  cores : List (BitVec 8)
  nextTask : List Nat
  left : Nat
  endedTasks : Nat
  failedTasks : List (BitVec 24 × BitVec 8)
  /-- Phase number (17 R373); writer tags of the phase as (sector, task); writes of the phase as (task, sector, virtual address) (17 R376, R382). -/
  phase : BitVec 16
  tags : List (Nat × Nat)
  writes : List (Nat × Nat × Nat)
  /-- Interval current when DONE or FAILED (R46, 19 R407), pinned (19 R408). -/
  doneRin : W32
  pinned : Bool
  /-- Advice image bound at the lease (12 R256): virtual address of its text and its size. -/
  advText : Word
  advSize : Nat
  /-- Leaves of the pages of its text (12 R256, R258). -/
  advPages : Store 64
deriving DecidableEq, Repr

/-- A graph slot of the watch unit (03 R54): the armed word, the strand whose tail it is and the LOOP nodes whose body the strand is in
(R43, R46). Its registers are in State.mgmt. -/
structure Graph where
  armed : Option Word
  strand : Nat
  loops : List Word
deriving DecidableEq, Repr

/-- The scheduler's record (19 R410): nodes, armed words, control and fail registers by slot, the slot last served and the admissions it took (03 R58). -/
structure Ckpt where
  nodes : List Node
  graphs : List Graph
  ctl : Store 64
  fail : Store 64
  rot : BitVec 6
  rotUsed : Nat
  /-- Version of its layout, that of the handover (22 R450). -/
  version : BitVec 16
deriving DecidableEq, Repr

/-- An entry of a die's version store (19 R404 to R407, 17 R383): one entry may serve as undo, held, snapshot or private entry. -/
structure VsEntry where
  /-- Physical sector number (address divided by 64). -/
  sector : Nat
  data : BitVec 512
  poison : Bool
  tag : W32
  undo : Bool
  held : Bool
  /-- KERNEL node whose task or transfer made the write; another agent has written the sector in the same interval (R408). -/
  writer : Option Nat
  mixed : Bool
  /-- Deterministic node for which this is a snapshot entry. -/
  snap : Option Nat
  /-- Deterministic node and task for which this is a private entry. -/
  priv : Option (Nat × Nat)
deriving DecidableEq, Repr

/-- A tagged write to a data slice of the checkpoint region (20 R431). -/
structure ParWrite where
  sector : Nat
  tag : W32
  /-- A released egress write: it is applied to held entries too (19 R405), so that no rollback takes its bytes back. -/
  stays : Bool
deriving DecidableEq, Repr

/-- An entry of an egress buffer (19 R412): up to 64 bytes with a mask, or an addend. -/
structure Egress where
  die : BitVec 2
  pa : BitVec 52
  data : BitVec 512
  mask : BitVec 64
  /-- Only four bits of its one byte, the upper ones when true (09 R192). -/
  half : Option Bool
  add : Bool
  tag : W32
  /-- Address space and page through whose translation it was made (04 R87). -/
  asid : BitVec 16
  vpn : Nat
  /-- Hart that issued it, none for the scheduler. -/
  hid : Option Nat
  node : Option Nat
deriving DecidableEq, Repr

/-- A die's copy of a sector of an NC page (11 R241). -/
structure NcCopy where
  die : BitVec 2
  sector : Nat
  data : BitVec 512
  dirty : BitVec 64
  tag : W32
  poison : Bool
  /-- KERNEL node of the last write, and whether another agent has written the copy in the same interval (19 R408). -/
  writer : Option Nat
  mixed : Bool
  /-- One instruction or transfer has written all 64 bytes since the copy was taken (18 R395). -/
  whole : Bool
deriving DecidableEq, Repr

/-- A reader-count line (11 R248): line number, count, the bytes memory held before it became counted and their poison. -/
structure Counted where
  line : Nat
  count : Nat
  old : BitVec 2048
  oldPoison : BitVec 4
deriving DecidableEq, Repr

/-- A request a home handles (11 Tables 11.3, 11.4): from agent 0 to 3 (a die) or 4 (the host), or of the home die itself. -/
inductive HomeReq where
  | rds (r : BitVec 3)
  | rdx (r : BitVec 3)
  | upg (r : BitVec 3)
  /-- A read or a write by a core of the home die (R235 "Local"). -/
  | here (wr : Bool)
deriving DecidableEq, Repr

/-- Directory states (11 Table 11.1): agents are bits 0 to 3 for the dies and 4 for the host. WI and WR carry the waiting transaction. -/
inductive DirState where
  | shared (m : BitVec 5)
  | owned (o : BitVec 3)
  | wi (left : BitVec 5) (req : HomeReq)
  | wr (o : BitVec 3) (req : HomeReq) (received : Bool) (ackWb : Bool)
  | wv (left : BitVec 5) (received : Bool) (ackWb : Bool)
deriving DecidableEq, Repr

/-- A directory entry (11 R233): line number (address divided by 256) and state; the most recently used entry is last in State.dir (11 R237). -/
structure DirEntry where
  line : Nat
  st : DirState
deriving DecidableEq, Repr

/-- RDC line states (11 Table 11.2). -/
inductive RdcState where
  | s
  | e
  | m
  | is
  | ie
  | se
  | xi
deriving DecidableEq, Repr

/-- A line held by an agent's RDC (agent 4 is the host's cache): state, valid and dirty sectors (11 R231, R236), and the interval of the writes in each
dirty sector (19 R403). -/
structure RdcLine where
  agent : BitVec 3
  line : Nat
  st : RdcState
  valid : BitVec 4
  dirty : BitVec 4
  tags : Vector W32 4
  /-- While the line is on its way (R236): the sectors that the waiting accesses name, those among them that waiting stores write, and who waits to store: harts
  (true) and transfers (false) by number. -/
  want : BitVec 4
  stores : BitVec 4
  waiters : List (Bool × Nat)
deriving DecidableEq, Repr

/-- Kinds of engine (15 Table 15.1). -/
inductive EngineKind where
  | copy
  | gather
  | coll
deriving DecidableEq, Repr

/-- An extent of a transfer (15 R340): in the scratchpad or in virtual memory, from lo to hi, written or only read. -/
structure Extent where
  spad : Bool
  lo : Nat
  hi : Nat
  wr : Bool
deriving DecidableEq, Repr

/-- An engine transfer handed over and not retired (15 R339). -/
structure Transfer where
  num : Nat
  kind : EngineKind
  /-- Issuing hart, its node, task, logical core, determinism mode. -/
  hid : Nat
  node : Nat
  task : BitVec 24
  lcore : BitVec 8
  det : BitVec 2
  /-- The block as read at issue (R334) and its address. -/
  block : List Byte
  blockAddr : Word
  /-- Barrier operand (R344). -/
  bar : Word
  /-- Round in which it was handed over (15 R338), and the one in which its command entered the front end (R332, 05 R101). -/
  since : Nat
  entered : Nat
  /-- Bytes to move, bytes moved and counted. -/
  total : Nat
  done : Nat
  err : Bool
  extents : List Extent
  /-- Commands of the chip with the same group and key before it; a collective whose match has been made (R338); destination sectors that took bytes
  of a poisoned source sector (R335): scratchpad or memory; poisoned sectors that it has written in part: the bytes written (18 R395). -/
  idx : Nat
  matched : Bool
  taint : List (Bool × Nat)
  cover : List ((Bool × Nat) × BitVec 64)
  /-- Destination bytes of a matched collective, with the poison that goes with them (R337). -/
  result : List (Byte × Bool)
deriving DecidableEq, Repr

/-- A collective command that another chip has issued and whose parameters and data the link has brought (15 R337, R338). -/
structure PeerColl where
  chip : BitVec 6
  group : Word
  key : Word
  op : BitVec 8
  rop : BitVec 8
  dtype : BitVec 8
  count : BitVec 32
  data : List Byte
  /-- Tag that its data carries (19 R403). -/
  tag : W32
  /-- How many commands of that chip with the same group and key came before it (15 R338). -/
  idx : Nat
deriving DecidableEq, Repr

/-- Commands that a chip has issued with one group and key (15 R338). -/
structure CollCount where
  chip : Nat
  group : Word
  key : Word
  count : Nat
deriving DecidableEq, Repr

/-- An entry of a die's error log (18 R397, R398). -/
structure ErrEvent where
  die : BitVec 2
  seq : BitVec 63
  cls : BitVec 8
  unit : BitVec 16
  pa : Word
  synd : Word
  ue : W32
  ce : W32
deriving DecidableEq, Repr

/-- A hash code of SPDM, and a registry of its extended algorithms (22 R447). -/
inductive SpdmHash where
  | sha3_256
deriving DecidableEq, Repr

inductive SpdmRegistry where
  | iana
deriving DecidableEq, Repr

/-- An ALGORITHMS response (22 R447): the hashes of BaseHashAlgo and MeasurementHashAlgo, the bits of BaseAsymAlgo, and the ExtAsym entries: registry, enterprise
number, algorithm identifier. -/
structure SpdmAlgorithms where
  baseHash : List SpdmHash
  measurementHash : List SpdmHash
  baseAsym : W32
  extAsym : List (SpdmRegistry × W32 × BitVec 16)
deriving DecidableEq, Repr

/-- What crosses Causeway to the host (21 Table 21.2, Table 21.3; 22 R447). -/
inductive HostMsg where
  | interrupt (code : BitVec 8) (die : BitVec 8) (slot : BitVec 16) (addr : Word)
  | readReply (data : List Byte)
  | poisonReply (mask : Word)
  | abortReply (n : Nat)
  | atomicReply (v : Word)
  | algorithms (a : SpdmAlgorithms)
  | spdmError
  | measurements (ms : List (BitVec 256)) (sig : List Byte)
  | debugStatus (busy : Bool) (opened : Bool)
  /-- A message of 11 Table 11.3 to the host, as home of a HOSTC line or as agent of a device line (11 R239, R240). -/
  | coherence (m : Instr)
deriving DecidableEq, Repr

/-- A frame sent on Strait (20 R424): port, destination chip, class (0 seal, 1 data, 2 link management), body. -/
structure Frame where
  port : BitVec 4
  dst : BitVec 6
  cls : BitVec 2
  body : List Byte
deriving DecidableEq, Repr

/-- A queued placement request (12 R266): the die whose queue holds it, address space, page, target die, hart. -/
structure PlaceReq where
  die : BitVec 2
  asid : BitVec 16
  vpn : BitVec 40
  target : BitVec 2
  hid : Nat
deriving DecidableEq, Repr

/-- A residency request (04 R72): address space, page, die chosen, graph slot. -/
structure ResReq where
  asid : BitVec 16
  vpn : BitVec 40
  home : BitVec 2
  slot : BitVec 6
deriving DecidableEq, Repr

/-- The invalidation in progress, as latched at its GO (04 R86): address space, first page, pages, every page of the address space. -/
structure Inval where
  asid : BitVec 16
  vpn : Nat
  pages : Nat
  all : Bool
  /-- Nodes whose lease, or whose transfers, held a translation of a named page at the GO (R88). -/
  waits : List Nat
deriving DecidableEq, Repr

/-- Poison consumed that a rollback may find in sealed data (19 R417): sector, the node to which the consumption belongs, or the slot and address of
the armed word. -/
structure Consumed where
  sector : Nat
  node : Option Nat
  word : Option (BitVec 6 × Word)
deriving DecidableEq, Repr

/-- A Causeway port's replays that failed in a row, and whether its training has failed, so that it stays down (21 R435). -/
structure Port where
  fails : Nat
  retrained : Bool
deriving DecidableEq, Repr

/-- The seal in progress (19 R410). -/
structure Sealing where
  n : W32
  /-- Steps ended: 2 after START, 4 after the drain and this chip's vote, 5 with every vote in while a parity build runs (20 R430). -/
  stage : Nat
  votes : BitVec 64
  /-- Round of START (R413). -/
  since : Nat
  /-- Slot B. -/
  record : Ckpt
deriving DecidableEq, Repr

/-- A parity build or rebuild in progress (20 R430, R432). -/
inductive Parity where
  | idle
  /-- A build for a seal into a generation, with the bytes of the own slice that have been written. -/
  | build (n : W32) (gen : Bool) (done : Nat)
  | rebuild (lost : BitVec 6)
  /-- The slices are rebuilt: the seal of an interval ends the rebuild. -/
  | finish (n : W32)
  /-- This chip is the replacement: bytes of its region and parity area that have been written. -/
  | restore (done : Nat)
  /-- The replacement is written: the seal of an interval ends the rebuild. -/
  | restored (n : W32)
deriving DecidableEq, Repr

/-- The firmware update in progress (22 Table 22.2). -/
inductive FwUpdate where
  | idle
  /-- Since a round (Table 22.2 steps 3 and 7: FW_QTMO, and 50 ms). -/
  | quiesce (digest : BitVec 256) (since : Nat)
  | sealing (digest : BitVec 256) (n : W32)
  | await (digest : BitVec 256) (since : Nat)
deriving DecidableEq, Repr

/-- Start stages (22 R445): where the start stands. -/
inductive BootStage where
  | dead
  | ozsisOnly
  | running
deriving DecidableEq, Repr

/-- Ozsis (22 R443 to R447, R451). -/
structure Ozsis where
  front : Front
  /-- Private memory, 512 KiB. -/
  mem : Store 8
  /-- Key store: the seed of the key pair in each slot, 0 for an empty slot (R444). -/
  keys : Store 256
  /-- Slots that hold a key. -/
  full : Store 1
  /-- Measurement registers M[0] to M[5] (R446). -/
  m : Store 256
  /-- Fuses: lifecycle state, device identifier, device secret (R443, R451). -/
  lifecycle : BitVec 8
  dev : BitVec 256
  secret : BitVec 256
  /-- Negotiated SPDM version, 1.3 or else 1.2, and whether the signature algorithm was selected (R447). -/
  spdm13 : Bool
  sigSelected : Bool
deriving DecidableEq, Repr

/-- What the parts around the core do at a start (22 R445, R448; 23 R453; 21 R441): inputs of the start sequence. -/
structure Phys where
  /-- Start steps 1 to 15 whose primary form passes, and whose alternative form passes, by step number. -/
  primaryOk : BitVec 16
  altOk : BitVec 16
  /-- Steps that have passed in their alternative form and stay in it (22 R448), by step number; kept with the journal. -/
  altKept : BitVec 16
  /-- Cores that pass their self-test: 68 bits for each die. -/
  good : BitVec 272
  /-- Images whose signature verifies (bit 0 Ozsis, 1 control-core firmware, 2 and 3 the scheduler images of the active and the spare slot), and digests of ROM,
  Ozsis, firmware and of these two. -/
  sigOk : BitVec 4
  digests : Store 256
  /-- Operating point found by each die's self-test, 2 bits each (23 R453). -/
  op : BitVec 8
  /-- Narrows latency, capacity-tier class and distance classes of the placement profile, as the bytes 0x10 on of 12 Table 12.1. -/
  profile : Store 8
  /-- The fuses can be read (22 R451). -/
  fusesOk : Bool
deriving DecidableEq, Repr

/-- What reaches the module from outside its instructions and events, or what a cache does of its own accord. -/
inductive Input where
  /-- A cache gives a line up (11 R236, R241, R248): an agent's RDC, or with agent 5 the home L2. -/
  | evict (agent : BitVec 3) (line : Nat)
  /-- A single-bit error is corrected on a read (18 R391): reporting die and unit, physical address or 0. -/
  | corrected (die : BitVec 2) (unit : BitVec 16) (pa : Word)
  /-- An uncorrectable error strikes the architectural state of a hart, or an entry of its replay queue (18 R391, R394, 13 R296). -/
  | strike (hid : Nat)
  /-- A parity error strikes a cell of a hart's tiles (13 R296). -/
  | tileError (hid : Nat) (cell : Nat)
  /-- An uncorrectable error in the version store poisons the entries of a sector; reporting unit (18 R395, R397). -/
  | storeError (sector : Nat) (unit : BitVec 16)
  /-- An uncorrectable error in a die's RDC or L1 strikes its copy of a sector; reporting unit (18 R391, R395). -/
  | copyError (die : BitVec 2) (sector : Nat) (unit : BitVec 16)
  /-- The lanes of a hart compute wrongly the element that its next checked instruction recomputes: so many attempts of it, 1 or 2 (08 R187). -/
  | laneError (hid : Nat) (attempts : BitVec 2)
  /-- From now on the fuses can be read, or not (22 R451). -/
  | fuses (ok : Bool)
  /-- A requester and Ozsis agree on SPDM 1.3, or else on 1.2 (22 R447). -/
  | spdmVersion (v13 : Bool)
  /-- The engines of the parity group work on a rebuild of a chip that PAR_RB of another chip has begun: this chip takes part (20 Table 20.1). -/
  | rebuild (lost : BitVec 6)
  /-- A collective command of another chip arrives (15 R337, R338). -/
  | peer (c : PeerColl)
  /-- A collective command of another chip has ended there without its match (15 R338). -/
  | peerEnd (c : PeerColl)
  /-- The host writes a device line that it owns (21 R437, 11 R240): bytes at a physical address within one sector, which its WbD or AckD brings. -/
  | hostData (pa : BitVec 52) (bytes : List Byte)
deriving DecidableEq, Repr

/-- A scheduling choice: the event that is due first, a hart and which of its agents, or an input (log 7). -/
inductive Choice where
  | due
  | run (hid : Nat) (agent : Agent)
  | input (i : Input)
deriving DecidableEq, Repr

/-- The whole module. -/
structure State where
  /-- The agent that moves next and its hart; the other resident, arriving and ended harts. -/
  agent : Agent
  hart : Hart
  others : List Hart
  /-- Physical memory and poison by sector (04 R66, 18 R395). -/
  mem : Memory
  poison : Store 1
  /-- Scratchpads by byte, cluster number times 2^22 plus address (04 R76), and their poison by 64-byte sector. -/
  spad : Store 8
  spadPoison : Store 1
  /-- Copies of NC sectors, counted lines, directory, RDC lines (11). -/
  nc : List NcCopy
  counted : List Counted
  dir : List DirEntry
  rdc : List RdcLine
  /-- Requests waiting for a line that is not stable (11 R234): line and request, oldest first. -/
  dirQueue : List (Nat × HomeReq)
  /-- HBM activation counters by die times 2^32 plus row (11 R250). -/
  act : Store 14
  /-- Management registers by offset; an unlisted one holds its reset value (Mgmt.resetValue). -/
  mgmt : Store 64
  /-- Current RIN of each die, newest sealed interval (19 R401), seal in progress and the seal requested behind it (R409, R410). -/
  rin : Store 32
  sealedRin : W32
  sealing : Option Sealing
  sealNext : Bool
  /-- The intervals whose seals fills of a version store have requested (R406, R408); chips that are lost (R413) and leasing held for a rebuild
  (20 Table 20.1). -/
  fillReq : List W32
  /-- Dies in whose version store writes wait for space, with the entries that they found free: VS_STALL counts each control cycle until there are more (19 R406). -/
  vsWaits : List (Nat × Nat)
  lost : BitVec 64
  leaseHeld : Bool
  /-- Version store, egress, committed checkpoint, parity work (19, 20 R430). -/
  vs : List VsEntry
  egress : List Egress
  ckpt : Ckpt
  parity : Parity
  /-- Tagged writes since PAR_STAT.SEAL to sectors of the data slices (20 R431). -/
  parWrites : List ParWrite
  /-- Generation of the parity area that is committed (20 R430). -/
  parGen : Bool
  /-- Scheduler (03, 04): graph slots, nodes, next node number, the slot last served and the admissions it
  took, harts launched and not resident. -/
  graphs : List Graph
  nodes : List Node
  nextNode : Nat
  rot : BitVec 6
  rotUsed : Nat
  arrivals : List Hart
  nextHid : Nat
  /-- Logical clusters whose scratchpad the next hart to become resident there finds zero (04 R76). -/
  spadZero : List Nat
  /-- Logical core of the die that each physical core has served last, by die times 128 plus core (04 R79); an unlisted one reads 63. -/
  lastCore : Store 6
  /-- The invalidation in progress (04 R86). -/
  inval : Option Inval
  /-- Frames that migrations have freed, with the interval whose seal frees them (04 R84). -/
  freed : List (Nat × W32)
  /-- Placement queues (12 R266), residency requests behind the mailbox (04 R72). -/
  placeQ : List PlaceReq
  resQ : List ResReq
  /-- Writes of remap entries that wait (04 R77), and of SEAL_DOM and SEAL_SELF (19 R422), as (offset, value). -/
  deferred : List (Nat × Word)
  /-- Engines (15): transfers handed over, next transfer number, commands of other chips, and how many have been issued. -/
  transfers : List Transfer
  nextXfer : Nat
  peers : List PeerColl
  collCounts : List CollCount
  /-- Error logs, module-wide sequence number (18 R397). -/
  errlog : List ErrEvent
  errSeq : BitVec 63
  /-- Sent to the host and on Strait, oldest first; interrupt of a class not repeated while it stands (21, 20). -/
  hostOut : List HostMsg
  straitOut : List Frame
  /-- Messages of the host that wait for a line, oldest first (21 R436, R438); the two Causeway ports (21 R435). -/
  hostIn : List Instr
  ports : Port × Port
  /-- Replays that failed in a row on each Strait port (20 R424). -/
  straitFails : Store 8
  /-- Rollback in progress ignores escalations and seal requests (19 R414); poison consumed since the last rollback (19 R417). -/
  rollingBack : Bool
  unrec : List Consumed
  /-- Start, firmware and security (22). -/
  oz : Ozsis
  boot : BootStage
  fw : FwUpdate
  /-- Operating point that start has selected for each die, 2 bits each (23 R453, R454). -/
  opSel : BitVec 8
  phys : Phys
  /-- Model's own: events that are due, oldest first; scheduling choices; rounds of the agents, and the agents that have had their turn in this round
  (log 7); the counter of free values. -/
  pending : List Instr
  sched : List Choice
  clock : Nat
  turns : List (Nat × Agent)
  free : Nat
deriving DecidableEq, Repr

/-- Why a step stops with a fault. -/
inductive Fault where
  /-- Raised when Ozsis meets a word outside the majors and commands of 22 R443 and R444, or an operand no scalar register: the spec says only that
  it executes those. Safe. -/
  | ozsisWord
  /-- Raised when a load, store or fetch of Ozsis is unaligned or leaves its private memory of 512 KiB (22 R443): the spec gives no effect. Safe. -/
  | ozsisAddress
deriving DecidableEq, Repr

/-- Why a step is refused. -/
inductive Refusal where
  /-- Raised by Dispatch.exec for an instruction that has no meaning in the model yet. Safe. -/
  | notModelled (mnemonic : String)
deriving DecidableEq, Repr

/-- A front end at reset: every register zero (05 R94, Table 5.5). -/
def Front.reset : Front := ⟨0, [], 0, [], []⟩

/-- A stream register at task start: every byte zero (09 R189). -/
def Stream.zero : Stream := ⟨0, 0, 0, 0, 0, false, false, false, 0⟩

/-- No advice context. -/
def Advice.reset : Advice := ⟨.none, Front.reset, false, 0, 0, 0, 0, 0, none, 0, 0, [], 0, 0, 0⟩

/-- Vector state at task start (05 R95, Table 5.5; 09 R189); `shape` is vshape. -/
def Vec.start (shape : BitVec 40) (seed : BitVec 32) : Vec :=
  ⟨0, 0, 0, shape, 0, 0, [], [], List.replicate 16 Stream.zero, [], seed⟩

/-- Matrix state at task start (05 Table 5.5, 13 R272). -/
def Mat.start : Mat := ⟨0, 0, 0, 0, [], []⟩

/-- Distribution state at task start (14 R306). -/
def Dist.start : Dist := ⟨[], [], []⟩

/-- No resident hart: the values of an absent context are the model's choice (log 2): those of parts = 1, vregs = 8, split = 1. -/
def Hart.absent : Hart :=
  { hid := 0, status := .absent, out := false, saveAt := 0, wait := .none, since := 0, parkedAt := 0, retiredAt := 0, node := 0, task := 0, lcore := 0,
    pcore := 0, ctx := 0, pfirst := 0, parts := 1, vregs := 8, slots := 1, hsplit := 1, prio := 0, det := 0, wid := 0, widf := 0, front := Front.reset,
    vec := Vec.start 0x100C00 0, mat := Mat.start, dist := Dist.start, trap := ⟨0, 0, 0, 0, 0⟩, inj := ⟨0, [], none⟩, lane := 0, detm := ⟨[], [], false⟩, ctr := ⟨0, 0, 0, 0⟩, pmId := 0, pmOcc := 0,
    monitor := none, window := [], passed := 0, aged := false, adv := Advice.reset }

/-- The empty record of 03 R57. The rotation of R58 starts with slot 0, which the spec leaves open (DESIGN CHOICE, log 6). -/
def Ckpt.empty : Ckpt := ⟨[], List.replicate 64 ⟨none, 0, []⟩, [], [], 63, 15, 0x0100⟩

/-- Ozsis with its private memory, key store and measurement registers as cold reset leaves them (22 R446; the rest log 8). -/
def Ozsis.reset : Ozsis := ⟨Front.reset, [], [], [], [], 2, 0, 0, false, false⟩

/-- A healthy start: every step passes, every core is good, images verify (log 8). -/
def Phys.healthy : Phys := ⟨0xFFFF, 0xFFFF, 0, BitVec.allOnes 272, 15, [], 0x55, [], true⟩

/-- The module after a cold reset: no node, no hart, empty caches, device memory zero (23 Table 23.4), RIN 1 (19 R401). The
rotation of 03 R58 starts with slot 0 (DESIGN CHOICE, log 6). -/
def State.reset : State :=
  { agent := .hart, hart := Hart.absent, others := [], mem := [], poison := [], spad := [], spadPoison := [], nc := [], counted := [], dir := [],
    rdc := [], dirQueue := [], act := [], mgmt := [], rin := [], sealedRin := 0, sealing := none, sealNext := false, fillReq := [], vsWaits := [], lost := 0,
    leaseHeld := false, vs := [], egress := [],
    ckpt := Ckpt.empty, parity := .idle, parWrites := [], parGen := false, graphs := List.replicate 64 ⟨none, 0, []⟩, nodes := [], nextNode := 1,
    rot := 63, rotUsed := 15, arrivals := [],
    nextHid := 1, spadZero := [], lastCore := [], inval := none, freed := [], placeQ := [], resQ := [], deferred := [], transfers := [], nextXfer := 1, peers := [],
    collCounts := [], errlog := [], errSeq := 0, hostOut := [], straitOut := [], hostIn := [], ports := (⟨0, false⟩, ⟨0, false⟩),
    straitFails := [], rollingBack := false, unrec := [], oz := Ozsis.reset, boot := .running, fw := .idle, opSel := 0x55, phys := Phys.healthy, pending := [], sched := [], clock := 0,
    turns := [], free := 0 }

end Sys2Proof.Machine
end

