-- ==== Sys2Proof/Machine/Store.lean ====
section
/-! DEFINITION. Sys2Proof/Machine/Store.lean: reading and writing sparse data by key, and plain arithmetic on words, bytes and lists of bytes
(00 R4, R5). `d k` is what an unlisted key `k` reads as. -/
namespace Sys2Proof.Machine

/-- The value at a key. -/
def Store.get {w : Nat} (d : Nat → BitVec w) (m : Store w) (k : Nat) : BitVec w :=
  match m with
  | [] => d k
  | e :: r => if k = e.1 then e.2 else Store.get d r k

/-- The entries for the values `vs` at keys from `k` on that differ from what an unlisted key reads as. -/
def Store.fresh {w : Nat} (d : Nat → BitVec w) (k : Nat) (vs : List (BitVec w)) : Store w :=
  match vs with
  | [] => []
  | v :: r => if v = d k then Store.fresh d (k + 1) r else (k, v) :: Store.fresh d (k + 1) r

/-- Write the values `vs` at the keys from `k` on. -/
def Store.write {w : Nat} (d : Nat → BitVec w) (m : Store w) (k : Nat) (vs : List (BitVec w)) : Store w :=
  m.filter (fun e => decide (e.1 < k)) ++ (Store.fresh d k vs ++ m.filter (fun e => decide (k + vs.length ≤ e.1)))

/-- Write one value. -/
def Store.set {w : Nat} (d : Nat → BitVec w) (m : Store w) (k : Nat) (v : BitVec w) : Store w := Store.write d m k [v]

/-- The `n` values at the keys from `k` on. -/
def Store.read {w : Nat} (d : Nat → BitVec w) (m : Store w) (k n : Nat) : List (BitVec w) :=
  match n with
  | 0 => []
  | n + 1 => Store.get d m k :: Store.read d m (k + 1) n

/-- The canonical form: keys strictly rising, no entry equal to what an unlisted key reads as. -/
abbrev Store.wf {w : Nat} (d : Nat → BitVec w) (m : Store w) : Prop :=
  m.Pairwise (fun x y => x.1 < y.1) ∧ ∀ e ∈ m, e.2 ≠ d e.1

/-- An unlisted key reads as zero. -/
def zeroOf {w : Nat} (_ : Nat) : BitVec w := 0

/-- What a byte of memory that nothing has written reads as: device memory is zero after cold reset (23 Table 23.4); for host memory the model
names zero as well (log 4). -/
def memDefault (_ : Nat) : Byte := 0

/-- Memory in canonical form. -/
abbrev Memory.wf (m : Memory) : Prop := Store.wf memDefault m

/-- The bytes of a number, least significant first (00 R5). -/
def natBytes (v n : Nat) : List Byte :=
  match n with
  | 0 => []
  | n + 1 => BitVec.ofNat 8 v :: natBytes (v / 256) n

/-- The number of a list of bytes, least significant first (00 R5). -/
def bytesNat (l : List Byte) : Nat :=
  match l with
  | [] => 0
  | b :: r => b.toNat + 256 * bytesNat r

/-- Bits `lo` to `lo + n - 1` of a number. -/
def nbits (v lo n : Nat) : Nat := v / 2 ^ lo % 2 ^ n

/-- One bit of a number. -/
def nbit (v i : Nat) : Bool := decide (v / 2 ^ i % 2 = 1)

/-- A `w`-bit number read as two's complement. -/
def sval (w v : Nat) : Int := if v % 2 ^ w < 2 ^ (w - 1) then (v % 2 ^ w : Nat) else (v % 2 ^ w : Nat) - (2 ^ w : Nat)

/-- An integer as a `w`-bit number modulo 2^w. -/
def wrapI (w : Nat) (x : Int) : Nat := (x % ((2 ^ w : Nat) : Int)).toNat

/-- Bytes `off` to `off + n - 1` of a list, as a number; bytes past the end read zero. -/
def fieldAt (l : List Byte) (off n : Nat) : Nat := bytesNat ((l.drop off).take n)

/-- Round up to a multiple. -/
def roundUp (n k : Nat) : Nat := (n + k - 1) / k * k

/-- `n` consecutive numbers from `a`. -/
def upFrom (a n : Nat) : List Nat := (List.range n).map (fun i => a + i)

/-- Number of set bits among the lowest `n` bits. -/
def countOnes (v n : Nat) : Nat :=
  match n with
  | 0 => 0
  | n + 1 => v % 2 + countOnes (v / 2) n

/-- Replace the elements of a list that `p` picks. -/
def updWhere {α : Type} (p : α → Bool) (f : α → α) (l : List α) : List α := l.map (fun a => if p a then f a else a)

end Sys2Proof.Machine
end

