-- ==== Sys2Proof/Machine/Mgmt.lean ====
section
/-! DEFINITION. Sys2Proof/Machine/Mgmt.lean: the management registers (Tables 3.7, 4.4, 11.9, 12.2, 17.2, 18.3, 18.5, 19.3, 20.2, 21.4, 22.5, 23.5):
reset values, writable bits, reads. Offsets count from the base of the device management space (04 Table 4.1). -/
namespace Sys2Proof.Machine

/-- One of four blocks of per-die registers: base, stride of a die. -/
def dieReg (base stride die off : Nat) : Nat := base + stride * die + off

/-- Reset values of the registers that do not reset to zero; 'start' values are those of a healthy start (log 8). -/
def mgmtReset (off : Nat) : Word :=
  if 0x10000 ≤ off ∧ off < 0x10800 then (if off % 0x20 = 0 then 0x100000 else 0)
  else if 0x20000 ≤ off ∧ off < 0x20800 then (if off % 8 = 0 then BitVec.ofNat 64 (off / 8 % 64) else 0)
  else if 0x20800 ≤ off ∧ off < 0x20840 then (if off % 0x10 = 0 then BitVec.allOnes 64 else if off % 0x10 = 8 then 0xF else 0)
  else if off = 0x20888 then 0x100000
  else if 0x40000 ≤ off ∧ off < 0x40400 then (if off % 0x100 = 8 then 0x2000 else 0)
  else if off = 0x50000 then 1
  else if off = 0x50008 then 0x10000
  else if off = 0x50010 then 0x40
  else if 0x60000 ≤ off ∧ off < 0x60100 then (if off % 0x40 = 0 then 0x4000000 else 0)
  else if off = 0x70010 then 0x10000000000
  else if off = 0x90000 then 0x7D0
  else if off = 0x90008 then 0x2710
  else if off = 0x90010 then 1
  else if 0x90100 ≤ off ∧ off < 0x90200 then
    (if off % 0x40 = 8 then 0x8030000 else if off % 0x40 = 0x10 then 0x4000000 else 0)
  else if 0xA0100 ≤ off ∧ off < 0xA0300 then (if off % 8 = 0 then 0x1F else 0)
  else if off = 0xA0420 then 16
  else if off = 0xA0440 then 0x100000000
  else if off = 0xB0000 then 0x400
  else if 0xC0008 ≤ off ∧ off < 0xC0080 then (if off % 8 = 0 then 1 else 0)
  else if off = 0xC0088 then 0x1000000
  else if 0xD0000 ≤ off ∧ off < 0xD0100 then
    (if off % 0x40 = 0 then 1 else if off % 0x40 = 8 then 2 else if off % 0x40 = 0x18 then 1 else 0)
  else 0

/-- Bits that a plain write sets (RW fields). -/
def mgmtRw (off : Nat) : Word :=
  if 0x10000 ≤ off ∧ off < 0x10800 then (if off % 0x20 = 0 then 0xFFFF000000F10001 else if off % 0x20 = 8 then BitVec.allOnes 64 else 0)
  else if 0x20000 ≤ off ∧ off < 0x20800 then 0x7F
  else if off = 0x20888 then 0xFFFFFFFF
  else if off = 0x30000 then 0xFFFFFFFF80000
  else if off = 0x30020 then BitVec.allOnes 64
  else if off = 0x30028 then 0xFFFFFF
  else if off = 0x30030 then 2
  else if 0x40000 ≤ off ∧ off < 0x40400 then (if off % 0x100 = 0 then 1 else if off % 0x100 = 8 then 0x3FFF else 0)
  else if off = 0x50000 then 1
  else if off = 0x50008 then 0xFFFFFFFF
  else if off = 0x50010 then 0xFF
  else if 0x60000 ≤ off ∧ off < 0x60100 then (if off % 0x40 = 0 then 0xFFFFFFFF else 0)
  else if off = 0x70000 then BitVec.allOnes 64
  else if off = 0x70008 then 0x100FFFFFF
  else if off = 0x70010 then BitVec.allOnes 64
  else if off = 0x90000 then 0xFFFFFFFF
  else if off = 0x90008 then 0xFFFFFFFF
  else if off = 0x90010 then BitVec.allOnes 64
  else if off = 0x90018 then 0x3F
  else if 0x90100 ≤ off ∧ off < 0x90200 then (if off % 0x40 = 0x10 then 0xFFFFFFFF else 0)
  else if 0xA0100 ≤ off ∧ off < 0xA0300 then 0x1F
  else if off = 0xA0400 then 0xFFFFFFFFF0000
  else if off = 0xA0408 then 0xFFFFFFFFF0000
  else if off = 0xA0410 then 0xFFFFFFFF
  else if off = 0xA0418 then BitVec.allOnes 64
  else if off = 0xA0420 then 0xFF
  else if off = 0xA0430 then 0x7E
  else if off = 0xA0440 then BitVec.allOnes 64
  else if off = 0xC0080 then 1
  else if off = 0xC0088 then 0xFFFFFFFF
  else if off = 0xC0098 then BitVec.allOnes 64
  else if 0xD0000 ≤ off ∧ off < 0xD0100 then (if off % 0x40 = 8 then 3 else 0)
  else 0

/-- Bits that a one clears (W1C fields), but for those with an event of their own (HALT, OVF). -/
def mgmtW1c (off : Nat) : Word :=
  if off = 0x30030 then 0x30 else 0

/-- The stored value of a register. -/
def mgmtGet (s : State) (off : Nat) : Word := Store.get mgmtReset s.mgmt off

/-- Set the stored value of a register. -/
def mgmtPut (s : State) (off : Nat) (v : Word) : State := { s with mgmt := Store.set mgmtReset s.mgmt off v }

/-- Add to a counter register, modulo 2^64. -/
def mgmtAdd (s : State) (off n : Nat) : State := mgmtPut s off (mgmtGet s off + BitVec.ofNat 64 n)

/-- LAST of a journal entry (22 Table 22.5). -/
def journalLast (s : State) (i : Nat) : Nat := (mgmtGet s (0xC0000 + 8 * i)).toNat % 256

/-- Effect of a write on the stored value: RW bits taken, W1C bits cleared by ones, everything else kept (00 R8). -/
def mgmtMerge (off : Nat) (old v : Word) : Word := ((old &&& ~~~mgmtRw off) ||| (v &&& mgmtRw off)) &&& ~~~(v &&& mgmtW1c off)

/-- Home die of a physical address of device memory (04 Table 4.1). -/
def homeDie (pa : Nat) : Nat := pa / 2 ^ 37 % 4

/-- Regions of the physical address map (04 Table 4.1). -/
def isHbm (pa : Nat) : Bool := decide (pa < 0x8000000000)
def isCtier (pa : Nat) : Bool := decide (0x10000000000 ≤ pa ∧ pa < 0x18000000000)
def isDeviceMem (pa : Nat) : Bool := isHbm pa || isCtier pa
def isMgmt (pa : Nat) : Bool := decide (0x1000000000000 ≤ pa ∧ pa < 0x1000100000000)
def isHost (pa : Nat) : Bool := decide (0x8000000000000 ≤ pa ∧ pa < 0x10000000000000)
def isReserved (pa : Nat) : Bool := !(isDeviceMem pa || isMgmt pa || isHost pa)

/-- Capacity tier of a die that the last start has left out (22 Table 22.1 steps 9 to 12): the module is degraded (01 R11), and the addresses decode as reserved
(DESIGN CHOICE, log 55). -/
def tierGone (s : State) (pa : Nat) : Bool := isCtier pa && (journalLast s (9 + homeDie pa) == 2 || journalLast s (9 + homeDie pa) == 3)

/-- Device memory that this module has, and addresses where it has nothing. -/
def deviceMem (s : State) (pa : Nat) : Bool := isDeviceMem pa && !tierGone s pa
def noMemory (s : State) (pa : Nat) : Bool := isReserved pa || tierGone s pa

/-- A dirty copy of an NC sector whose write-back will need an undo entry: space for it is reserved (19 R402). -/
def ncReserves (s : State) (c : NcCopy) : Bool :=
  c.dirty != 0 && !s.vs.any (fun e => decide (e.sector = c.sector) && e.undo && e.tag == c.tag)

/-- Entries of a die's version store in use or reserved (19 R406). -/
def vsUsed (s : State) (die : Nat) : Nat :=
  (s.vs.filter (fun e => decide (homeDie (e.sector * 64) = die))).length
    + (s.nc.filter (fun c => decide (homeDie (c.sector * 64) = die) && ncReserves s c)).length

/-- Snapshot and private entries on a die (17 R383). -/
def detUsed (s : State) (die : Nat) : Nat :=
  (s.vs.filter (fun e => decide (homeDie (e.sector * 64) = die) && (e.snap.isSome || e.priv.isSome))).length

/-- Entries of a die's egress buffer (19 R412). -/
def egUsed (s : State) (die : Nat) : Nat := (s.egress.filter (fun e => decide (e.die.toNat = die))).length

/-- Current RIN of a die: 1 at cold reset (19 R401). -/
def rinOf (s : State) (die : Nat) : W32 := Store.get (fun _ => 1) s.rin die

/-- The primary event of a die's log (18 R398). -/
def primary (s : State) (die : Nat) : Option ErrEvent := s.errlog.find? (fun e => decide (e.die.toNat = die))

/-- A node goes on to RETIRED or FAILED after EN is cleared (03 R54). -/
def NodeState.goesOn (x : NodeState) : Bool := x == .leased || x == .running || x == .done || x == .sealed

/-- STATE of a graph slot (03 Table 3.7): idle once it is disabled and no node of it goes on; else halted or active.
That an enabled slot without a node reads active is the model's choice: the table only names the codes (log 75). -/
def graphStateCode (s : State) (g : Nat) : Nat :=
  let c := mgmtGet s (0x10000 + 0x20 * g)
  if c.getLsbD 0 || s.nodes.any (fun n => decide (n.slot.toNat = g) && n.state.goesOn) then (if c.getLsbD 3 then 2 else 1) else 0

/-- Data slice of the checkpoint region that holds a sector (20 R429); none where parity is disabled. -/
def parSlice (s : State) (sector : Nat) : Option Nat :=
  let base := (mgmtGet s 0xA0400).toNat
  let size := (mgmtGet s 0xA0410).toNat
  if size = 0 ∨ size % 65536 ≠ 0 ∨ mgmtGet s 0xA0418 = 0 ∨ sector * 64 < base ∨ base + 7 * size ≤ sector * 64 then none
  else some ((sector * 64 - base) / size)

/-- PAR_STAT.DIRTY: data slices that a tagged write has reached since PAR_STAT.SEAL (20 R431). -/
def parDirty (s : State) : Nat :=
  (List.range 7).foldl (fun acc d => if s.parWrites.any (fun w => parSlice s w.sector == some d) then acc + 2 ^ d else acc) 0

/-- A read of a management register: fields that show other state are computed, WO fields read zero (00 R8). -/
def mgmtRead (s : State) (off : Nat) : Word :=
  let v := mgmtGet s off
  if 0x10000 ≤ off ∧ off < 0x10800 ∧ off % 0x20 = 0 then
    let g := (off - 0x10000) / 0x20
    let armed : Word := if ((s.graphs.getD g ⟨none, 0, []⟩).armed).isSome then 2 else 0
    (v &&& 0xFFFF000000F10009) ||| armed ||| BitVec.ofNat 64 (graphStateCode s g * 16)
  else if 0x60000 ≤ off ∧ off < 0x60100 ∧ off % 0x40 = 8 then BitVec.ofNat 64 (detUsed s ((off - 0x60000) / 0x40))
  else if 0x80000 ≤ off ∧ off < 0x80400 ∧ off % 0x100 ≤ 0x20 then
    match primary s ((off - 0x80000) / 0x100) with
    | none => 0
    | some e =>
      if off % 0x100 = 0 then BitVec.ofNat 64 (2 ^ 63 + e.seq.toNat)
      else if off % 0x100 = 8 then BitVec.ofNat 64 (e.cls.toNat * 65536 + e.unit.toNat)
      else if off % 0x100 = 0x10 then e.pa
      else if off % 0x100 = 0x18 then e.synd
      else if off % 0x100 = 0x20 then BitVec.ofNat 64 (e.ue.toNat * 2 ^ 32 + e.ce.toNat)
      else 0
  else if off = 0xA0428 then (v &&& ~~~(0x7F : Word)) ||| BitVec.ofNat 64 (parDirty s)
  else if off = 0x90020 then BitVec.ofNat 64 (s.sealedRin.toNat * 2 ^ 32 + (rinOf s 0).toNat)
  else if 0x90100 ≤ off ∧ off < 0x90200 ∧ off % 0x40 = 0 then BitVec.ofNat 64 (vsUsed s ((off - 0x90100) / 0x40))
  else if 0x90100 ≤ off ∧ off < 0x90200 ∧ off % 0x40 = 0x18 then BitVec.ofNat 64 (egUsed s ((off - 0x90100) / 0x40))
  else v

/-- What a write of a management register does: those that start something are events of their own, which apply the write; every other is
MGMT_REGISTER_WRITE. The event is due at once. -/
def mgmtEvents (s : State) (off : Nat) (v : Word) : List Instr :=
  if 0x10000 ≤ off ∧ off < 0x10800 ∧ off % 0x20 = 0 then [.graphCtlWrite (BitVec.ofNat 6 ((off - 0x10000) / 0x20)) v]
  else if 0x20000 ≤ off ∧ off < 0x20800 ∧ off % 8 = 0 then
    [.remapWrite (BitVec.ofNat 2 ((off - 0x20000) / 0x200)) (BitVec.ofNat 6 (off % 0x200 / 8)) v]
  else if off = 0x30010 then (if v.getLsbD 0 then [.resDone] else [])
  else if off = 0x30030 ∧ v.getLsbD 0 = true then [.invGo v]
  else if 0x80000 ≤ off ∧ off < 0x80400 ∧ off % 0x100 = 0x28 then
    (if v.getLsbD 0 then [.errPop (BitVec.ofNat 2 ((off - 0x80000) / 0x100))] else [])
  else if 0x80000 ≤ off ∧ off < 0x80400 ∧ off % 0x100 = 0x30 then
    (if v.getLsbD 63 then [.errOvfClear (BitVec.ofNat 2 ((off - 0x80000) / 0x100))] else [])
  else if off = 0xA0430 ∧ v.getLsbD 0 = true then [.parRbGo v]
  else if off = 0xC0088 ∧ v.getLsbD 32 = true then [.fwUpdateGo v (s.phys.sigOk.getLsbD 3) (Store.get zeroOf s.phys.digests 4)]
  else if off = 0xC0098 then [.fwHb v]
  else if 0xD0000 ≤ off ∧ off < 0xD0100 ∧ off % 0x40 = 0x10 then
    (if v.getLsbD 1 then [.rstCtlCold] else if v.getLsbD 0 then [.rstCtlWarm] else [])
  else [.mgmtRegisterWrite (BitVec.ofNat 32 off) v]

end Sys2Proof.Machine
end

