-- ==== Sys2Proof/Machine/Sha3.lean ====
section
/-! DEFINITION. Sys2Proof/Machine/Sha3.lean: SHA3-256 (22 R444, R446). The spec names the function; its steps are those of FIPS 202, taken from outside the
spec (log 11, PRESUMED). -/
namespace Sys2Proof.Machine

/-- The 25 lanes of the state, lane (x, y) at index x + 5 y. -/
abbrev Lanes := List Word

def lane (a : Lanes) (x y : Nat) : Word := a.getD (x % 5 + 5 * (y % 5)) 0

def rotl64 (v : Word) (n : Nat) : Word := v.rotateLeft n

def keccakTheta (a : Lanes) : Lanes :=
  let c := (List.range 5).map (fun x => lane a x 0 ^^^ lane a x 1 ^^^ lane a x 2 ^^^ lane a x 3 ^^^ lane a x 4)
  let d := (List.range 5).map (fun x => c.getD ((x + 4) % 5) 0 ^^^ rotl64 (c.getD ((x + 1) % 5) 0) 1)
  (List.range 25).map (fun i => a.getD i 0 ^^^ d.getD (i % 5) 0)

/-- Rotation amounts by lane index. -/
def keccakRot : List Nat := [0, 1, 62, 28, 27, 36, 44, 6, 55, 20, 3, 10, 43, 25, 39, 41, 45, 15, 21, 8, 18, 2, 61, 56, 14]

/-- Rho and pi: B[y, 2x + 3y] := rot(A[x, y]). Lane (x, y) of the result comes from lane (x + 3y, x). -/
def keccakRhoPi (a : Lanes) : Lanes :=
  (List.range 25).map (fun i =>
    let x := i % 5
    let y := i / 5
    let sx := (x + 3 * y) % 5
    let sy := x
    rotl64 (lane a sx sy) (keccakRot.getD (sx + 5 * sy) 0))

def keccakChi (a : Lanes) : Lanes :=
  (List.range 25).map (fun i =>
    let x := i % 5
    let y := i / 5
    lane a x y ^^^ (~~~(lane a (x + 1) y) &&& lane a (x + 2) y))

def keccakRc : List Word :=
  [0x0000000000000001, 0x0000000000008082, 0x800000000000808A, 0x8000000080008000, 0x000000000000808B, 0x0000000080000001,
   0x8000000080008081, 0x8000000000008009, 0x000000000000008A, 0x0000000000000088, 0x0000000080008009, 0x000000008000000A] ++
  [0x000000008000808B, 0x800000000000008B, 0x8000000000008089, 0x8000000000008003, 0x8000000000008002, 0x8000000000000080,
   0x000000000000800A, 0x800000008000000A, 0x8000000080008081, 0x8000000000008080, 0x0000000080000001, 0x8000000080008008]

def keccakRound (a : Lanes) (rc : Word) : Lanes :=
  match keccakChi (keccakRhoPi (keccakTheta a)) with
  | [] => []
  | h :: t => (h ^^^ rc) :: t

def keccakF (a : Lanes) : Lanes := keccakRc.foldl keccakRound a

/-- Absorb one block of 136 bytes. -/
def sha3Block (a : Lanes) (b : List Byte) : Lanes :=
  keccakF ((List.range 25).map (fun i => a.getD i 0 ^^^ BitVec.ofNat 64 (fieldAt b (8 * i) 8)))

def sha3Absorb (fuel : Nat) (a : Lanes) (b : List Byte) : Lanes :=
  match fuel with
  | 0 => a
  | f + 1 => if b.isEmpty then a else sha3Absorb f (sha3Block a (b.take 136)) (b.drop 136)

/-- Padding: the suffix 01 of SHA-3, then 10*1. -/
def sha3Pad (m : List Byte) : List Byte :=
  let k := 136 - m.length % 136
  if k = 1 then m ++ [0x86] else m ++ [0x06] ++ List.replicate (k - 2) 0 ++ [0x80]

/-- SHA3-256 of a list of bytes: 32 bytes. -/
def sha3 (m : List Byte) : List Byte :=
  let p := sha3Pad m
  ((sha3Absorb (p.length / 136 + 1) (List.replicate 25 0) p).take 4).flatMap (fun l => natBytes l.toNat 8)

/-- A digest or 32-byte register as a number, byte 0 least significant. -/
def digestOf (m : List Byte) : BitVec 256 := BitVec.ofNat 256 (bytesNat (sha3 m))

/-- The extension of a measurement register (22 R446). -/
def extendM (m d : BitVec 256) : BitVec 256 := digestOf (natBytes m.toNat 32 ++ natBytes d.toNat 32)

end Sys2Proof.Machine
end

