-- ==== Sys2Proof/Machine/Base.lean ====
section
/-! DEFINITION. Sys2Proof/Machine/Base.lean: the parts of the module that every agent shares: events due, error log, interrupt messages, page walks (04),
the undo entries and writes of memory (19), the egress buffer (19), the directory seen by whole accesses (11), and the failure of a node (03). -/
namespace Sys2Proof.Machine

/-- Make events due, after those that are due already. -/
def raiseEvents (s : State) (l : List Instr) : State := { s with pending := s.pending ++ l }

/-- Make events due before all others. -/
def raiseFirst (s : State) (l : List Instr) : State := { s with pending := l ++ s.pending }

/-- Take a free value: the counter moves on. -/
def bumpFree (s : State) : State := { s with free := s.free + 1 }

/-- Send an interrupt message at once (21 R440). -/
def interrupt (s : State) (code die slot : Nat) (addr : Word) : State :=
  { s with hostOut := s.hostOut ++ [.interrupt (BitVec.ofNat 8 code) (BitVec.ofNat 8 die) (BitVec.ofNat 16 slot) addr] }

/-- Report an event of a class on a die (18 R397): it takes a number, counts in its class, and is logged unless the die's log holds 64 entries. An
event logged while the die's log was empty sends the interrupt message with code 5. The first event is number 0 (log 16). -/
def logEvent (s : State) (die cls unit : Nat) (pa synd : Word) : State :=
  let base := 0x80000 + 0x100 * die
  let s1 := mgmtAdd s (base + 0x40 + 8 * cls) 1
  let here := (s.errlog.filter (fun e => decide (e.die.toNat = die))).length
  let s2 := { s1 with errSeq := s.errSeq + 1 }
  if here < 64 then
    let ev : ErrEvent := ⟨BitVec.ofNat 2 die, s.errSeq, BitVec.ofNat 8 cls, BitVec.ofNat 16 unit, pa, synd,
      (mgmtGet s1 (base + 0x68)).setWidth 32, (mgmtGet s1 (base + 0x48)).setWidth 32⟩
    let s3 := { s2 with errlog := s.errlog ++ [ev] }
    if here = 0 then interrupt s3 5 die 0 (BitVec.ofNat 64 (2 ^ 63 + s.errSeq.toNat)) else s3
  else
    mgmtPut s2 (base + 0x30) ((mgmtGet s2 (base + 0x30) + 1) ||| 0x8000000000000000)

/-- Frames of a chip have come over the port that leads to it: no replay there has failed in a row since (20 R424, log 26). -/
def straitHeard (s : State) (chip : Nat) : State :=
  { s with straitFails := Store.set zeroOf s.straitFails ((mgmtGet s (0xA0100 + 8 * chip)).toNat % 32) 0 }

/-- Nodes by number. -/
def nodeOf (s : State) (n : Nat) : Option Node := s.nodes.find? (fun x => decide (x.num = n))

def updNode (s : State) (n : Nat) (f : Node → Node) : State := { s with nodes := updWhere (fun x => decide (x.num = n)) f s.nodes }

/-- All harts that exist: the current one first. -/
def allHarts (s : State) : List Hart := s.hart :: s.others

/-- Apply a change to every hart that `p` picks. -/
def updHarts (s : State) (p : Hart → Bool) (f : Hart → Hart) : State :=
  { s with hart := if p s.hart then f s.hart else s.hart, others := updWhere p f s.others }

def updHart (s : State) (h : Nat) (f : Hart → Hart) : State := updHarts s (fun x => decide (x.hid = h)) f

def hartOf (s : State) (h : Nat) : Option Hart := (allHarts s).find? (fun x => decide (x.hid = h))

/-- A hart whose task goes on, and one that holds a context: running, parked or waiting (05 R90), not switched out. -/
def Hart.alive (h : Hart) : Bool := h.status == .running || h.status == .parked || h.status == .waiting
def Hart.resident (h : Hart) : Bool := h.alive && !h.out

/-- Bytes and numbers of memory as it stands at home. -/
def memBytes (s : State) (pa n : Nat) : List Byte := Store.read memDefault s.mem pa n
def memNat (s : State) (pa n : Nat) : Nat := bytesNat (memBytes s pa n)

/-- Poison of the sector of an address (18 R395). -/
def poisonAt (s : State) (pa : Nat) : Bool := decide (Store.get zeroOf s.poison (pa / 64) = 1)

def setPoison (s : State) (sector : Nat) (b : Bool) : State :=
  { s with poison := Store.set zeroOf s.poison sector (if b then 1 else 0) }

/-- The 64 bytes of a sector. -/
def sectorData (s : State) (sector : Nat) : BitVec 512 := BitVec.ofNat 512 (memNat s (sector * 64) 64)

/-- Outcome of a table walk (04 R68, R69). -/
inductive Walk where
  | absent
  | poisoned (pa : Nat)
  | leaf (e : Word)
deriving DecidableEq, Repr

/-- Fields of a leaf (04 Table 4.2). -/
def leafPA (e : Word) : Nat := nbits e.toNat 16 36 * 65536
def leafRD (e : Word) : Bool := e.getLsbD 3
def leafW (e : Word) : Bool := e.getLsbD 4
def leafX (e : Word) : Bool := e.getLsbD 5
/-- MT as accesses see it: a page of the management space holds device registers, whatever its MT (log 61). -/
def leafMT (e : Word) : Nat := if isMgmt (leafPA e) then 1 else nbits e.toNat 6 2
def leafNC (e : Word) : Bool := e.getLsbD 9
def leafEPH (e : Word) : Bool := e.getLsbD 10
def leafHOSTC (e : Word) : Bool := e.getLsbD 11

/-- A non-leaf entry that is not absent (R69). -/
def nonLeafOk (e : Word) : Bool := e.getLsbD 0 && e.getLsbD 1 && decide (nbits e.toNat 52 12 = 0) && decide (nbits e.toNat 2 11 = 0)

/-- A leaf entry that is not absent (R69, Table 4.2). -/
def leafOk (e : Word) : Bool :=
  let v := e.toNat
  e.getLsbD 0 && !e.getLsbD 1 && !e.getLsbD 2 && !e.getLsbD 8 && decide (nbits v 12 4 = 0) && decide (nbits v 52 4 = 0) && decide (nbits v 60 4 = 0)
    && decide (nbits v 6 2 < 2) && !isReserved (leafPA e) && (!leafHOSTC e || isHost (leafPA e))
    && (!leafEPH e || (decide (leafMT e = 0) && isDeviceMem (leafPA e))) && (!leafNC e || (decide (leafMT e = 0) && isDeviceMem (leafPA e)))

/-- An entry of a table, as the device reads it there (04 R66). -/
def entryAt (s : State) (pa : Nat) : Word := if isMgmt pa then mgmtRead s (pa % 2 ^ 32) else BitVec.ofNat 64 (memNat s pa 8)

/-- Walk the levels from `level - 1` down to 0, from the table at `table` (R68). -/
def walkFrom (s : State) (vpn table level : Nat) : Walk :=
  match level with
  | 0 => .absent
  | l + 1 =>
    let pa := table + 8 * (vpn / 2 ^ (10 * l) % 1024)
    if poisonAt s pa then .poisoned pa
    else
      let e := entryAt s pa
      match l with
      | 0 => if leafOk e && !tierGone s (leafPA e) then .leaf e else .absent
      | l' + 1 => if nonLeafOk e then walkFrom s vpn (nbits e.toNat 13 39 * 8192) (l' + 1) else .absent

/-- Entry of an address space in the address-space table at ASID_BASE (R68). -/
def spaceEntry (s : State) (asid : Nat) : Nat := (mgmtGet s 0x30000).toNat + 8 * asid

/-- The walk of a virtual page of an address space (R68): the level-3 table is named by the address-space table. Virtual addresses are 56 bits wide;
that a page number's bits above them are ignored is the model's choice (log 62). -/
def walk (s : State) (asid vpn : Nat) : Walk :=
  let pa := spaceEntry s asid
  if poisonAt s pa then .poisoned pa
  else
    let e := entryAt s pa
    if nonLeafOk e then walkFrom s (vpn % 2 ^ 40) (nbits e.toNat 13 39 * 8192) 4 else .absent

/-- The addresses a walk reads from a table on. -/
def walkReads (s : State) (vpn table level : Nat) : List Nat :=
  match level with
  | 0 => []
  | l + 1 =>
    let pa := table + 8 * (vpn / 2 ^ (10 * l) % 1024)
    let e := entryAt s pa
    pa :: (if nonLeafOk e then walkReads s vpn (nbits e.toNat 13 39 * 8192) l else [])

/-- The reads of a walk at reserved addresses are logged as decode errors, by the die of the agent that walks (04 R66, 18 R397; unit log 62): 0 for the scheduler. -/
def logWalk (die : Nat) (s : State) (asid vpn : Nat) : State :=
  let pa := spaceEntry s asid
  let e := entryAt s pa
  let l := pa :: (if nonLeafOk e then walkReads s (vpn % 2 ^ 40) (nbits e.toNat 13 39 * 8192) 4 else [])
  (l.filter (noMemory s)).foldl (fun t a => bumpFree (logEvent t die 10 0 (BitVec.ofNat 64 a) (Config.freeWord t.free))) s

/-- Address space of a graph slot (03 Table 3.7). -/
def asidOf (s : State) (g : Nat) : Nat := nbits (mgmtGet s (0x10000 + 0x20 * g)).toNat 48 16

/-- Virtual page number of an address (04 R68). -/
def vpnOf (va : Word) : Nat := va.toNat / 65536

/-- Post a residency request (04 R72): the mailbox holds one at a time, others wait behind it. -/
def postMailbox (s : State) (r : ResReq) : State :=
  let v := BitVec.ofNat 64 (r.home.toNat * 2 ^ 56 + r.vpn.toNat * 2 ^ 16 + r.asid.toNat)
  let s1 := mgmtPut (mgmtPut s 0x30008 v) 0x30010 (mgmtGet s 0x30010 ||| 2)
  interrupt s1 1 0 r.slot.toNat v

/-- The request that stands in the mailbox is for a page. -/
def inMailbox (s : State) (asid vpn : Nat) : Bool :=
  decide (nbits (mgmtGet s 0x30008).toNat 0 16 = asid % 2 ^ 16 ∧ nbits (mgmtGet s 0x30008).toNat 16 40 = vpn % 2 ^ 40)

/-- Ask for an absent page (04 R72), unless its request stands already. -/
def requestPage (s0 : State) (asid vpn home slot : Nat) : State :=
  let s := logWalk 0 s0 asid vpn
  let r : ResReq := ⟨BitVec.ofNat 16 asid, BitVec.ofNat 40 vpn, BitVec.ofNat 2 home, BitVec.ofNat 6 slot⟩
  if (mgmtGet s 0x30010).getLsbD 1 then
    if inMailbox s asid vpn || s.resQ.any (fun q => q.asid == r.asid && q.vpn == r.vpn) then s else { s with resQ := s.resQ ++ [r] }
  else postMailbox s r

/-- Die that R82 chooses for a page with place `any`: VA[17:16]. -/
def anyDie (vpn : Nat) : Nat := vpn % 4

/-- Request the seal of an interval (19 R409): met without a further seal when it is sealing or sealed. -/
def requestSeal (s : State) (n : W32) : State := if s.rollingBack then s else raiseEvents s [.sealRequest n]

/-- Interval a precedes interval b (19 R401). -/
def rinBefore (a b : W32) : Bool := decide (1 ≤ (b - a).toNat ∧ (b - a).toNat ≤ 2 ^ 31 - 1)

/-- Tagged n or earlier. -/
def rinUpTo (t n : W32) : Bool := t == n || rinBefore t n

/-- Fill request of a version store at 90 % of VS_CAP (19 R406). -/
def vsFill (s : State) (die : Nat) : State :=
  let cap := (mgmtGet s (0x90108 + 0x40 * die)).toNat
  if 10 * vsUsed s die ≥ 9 * cap then requestSeal { s with fillReq := if s.fillReq.contains (rinOf s die) then s.fillReq else s.fillReq ++ [rinOf s die] } (rinOf s die) else s

/-- The sector holds an undo entry of an interval. -/
def hasUndo (s : State) (sector : Nat) (tag : W32) : Bool := s.vs.any (fun e => decide (e.sector = sector) && e.undo && e.tag == tag)

/-- Note on the entry of an interval that an agent other than its writer has written the sector too (19 R408). -/
def noteOther (s : State) (sector : Nat) (tag : W32) (writer : Option Nat) : State :=
  if s.vs.any (fun e => decide (e.sector = sector) && e.undo && e.tag == tag && e.writer != writer && !e.mixed) then
    { s with vs := updWhere (fun e => decide (e.sector = sector) && e.undo && e.tag == tag && e.writer != writer) (fun e => { e with mixed := true }) s.vs }
  else s

/-- Make the undo entry of a sector for the first write tagged `tag` that reaches it (19 R404); `poison` and bytes are those the sector holds. -/
def undoEntry (s : State) (sector : Nat) (tag : W32) (writer : Option Nat) : State :=
  if hasUndo s sector tag then noteOther s sector tag writer
  else
    vsFill { s with vs := s.vs ++ [⟨sector, sectorData s sector, poisonAt s (sector * 64), tag, true, false, writer, false, none, none⟩] }
      (homeDie (sector * 64))

/-- Entries of a die's version store that are not in use. -/
def vsSpare (s : State) (die : Nat) : Nat := (mgmtGet s (0x90108 + 0x40 * die)).toNat - vsUsed s die

/-- A write waits for space in a die's version store: VS_STALL counts the control cycles until there is more (19 R406). -/
def waitSpace (s : State) (die : Nat) : State :=
  if s.vsWaits.contains (die, vsSpare s die) then s else { s with vsWaits := s.vsWaits ++ [(die, vsSpare s die)] }

/-- It waits there already. -/
def waitsSpace (s : State) (die : Nat) : Bool := s.vsWaits.contains (die, vsSpare s die)

/-- Control cycles pass: the dies in whose version store a write still waits for space count them (19 R406). -/
def stallCycles (s : State) (n : Nat) : State :=
  let t := { s with vsWaits := s.vsWaits.filter (fun w => decide (vsSpare s w.1 ≤ w.2)) }
  (List.range 4).foldl (fun u d => if t.vsWaits.any (fun w => decide (w.1 = d)) then mgmtAdd u (0x90120 + 0x40 * d) n else u) t

/-- The memory has no free entry for a write that needs one (19 R406). -/
def vsFull (s : State) (die : Nat) : Bool := decide (vsUsed s die ≥ (mgmtGet s (0x90108 + 0x40 * die)).toNat)

/-- Room for `n` more entries in a die's version store (19 R402, R406). -/
def vsRoom (s : State) (die n : Nat) : Bool := decide (vsUsed s die + n ≤ (mgmtGet s (0x90108 + 0x40 * die)).toNat)

/-- Physical address of a virtual one through a node's kept translations (04 R72). -/
def nodePA (nd : Node) (va : Word) : Option (Nat × Word) :=
  let e := Store.get zeroOf nd.pages (vpnOf va)
  if leafOk e then some (leafPA e + va.toNat % 65536, e) else none

/-- Physical home of a barrier operand of a hart (15 R344): memory, or the scratchpad of its logical cluster as cluster number times 2^22 plus address. -/
def barSpad (op : Word) : Bool := op.getLsbD 63
def spadKey (lcore : BitVec 8) (a : Nat) : Nat := lcore.toNat / 4 * 2 ^ 22 + a % 2 ^ 22

/-- The 16 bytes of a barrier object that a waiting hart names, as a number. -/
def barObject (s : State) (h : Hart) (op : Word) : Nat :=
  if barSpad op then bytesNat (Store.read zeroOf s.spad (spadKey h.lcore op.toNat) 16)
  else match nodeOf s h.node with
    | none => 0
    | some nd => match nodePA nd op with
      | none => 0
      | some (pa, _) => memNat s pa 16

/-- A sleeping BWAIT keeps that the PHASE of its object has changed (15 R351). -/
def Wait.phaseMoved (w : Wait) : Wait :=
  match w with
  | .bwait rd op p b _ => .bwait rd op p b true
  | x => x

/-- The `n` bits from bit `lo` on of the object for which a hart sleeps in BWAIT differ between two states. -/
def objectDiffers (s0 s1 : State) (lo n : Nat) (h : Hart) : Bool :=
  match h.wait with
  | .bwait _ op _ _ _ => decide (nbits (barObject s0 h op) lo n ≠ nbits (barObject s1 h op) lo n)
  | _ => false

/-- Harts in BWAIT whose object's PHASE or OVR (bits 28 to 24) differ between two states wake (15 R351). -/
def wakeWaiters (s0 s1 : State) : State :=
  let woken := (allHarts s1).filter (objectDiffers s0 s1 24 5)
  if woken.isEmpty then s1
  else raiseEvents (updHarts s1 (objectDiffers s0 s1 24 4) (fun h => { h with wait := h.wait.phaseMoved })) (woken.map (fun h => .bwaitWake h.hid))

/-- Another agent's write to a monitored block wakes its hart (16 R367). `by_` is the writing hart. -/
def wakeMonitors (s : State) (sector : Nat) (by_ : Option Nat) : State :=
  raiseEvents s (((allHarts s).filter (fun h => h.monitor == some sector && by_ != some h.hid)).map (fun h => .monitorWake h.hid))

/-- A write to a word that a graph slot has armed is followed (03 R54), where it is not zero, or where the watch unit consumes poison: in the word, or in an entry
of the table that its walk at this write meets (18 R396). -/
def wakeGraphs (s : State) (pa n : Nat) : State :=
  let hits := (List.range 64).filter (fun g => match (s.graphs.getD g ⟨none, 0, []⟩).armed with
    | none => false
    | some va => match walk s (asidOf s g) (vpnOf va) with
      | .leaf e => let p := leafPA e + va.toNat % 65536
                   decide (pa < p + 8 ∧ p < pa + n) && (decide (memNat s p 8 ≠ 0) || poisonAt s p)
      | .poisoned _ => true
      | .absent => false)
  raiseEvents s (hits.map (fun g => .followArmedWord (BitVec.ofNat 6 g)))

/-- A write has reached a sector: noted where it lies in a data slice of the checkpoint region and is tagged after PAR_STAT.SEAL (20 R431). -/
def parityMark (s : State) (w : ParWrite) : State :=
  if (parSlice s w.sector).isSome && rinBefore ((mgmtGet s 0xA0428 >>> 32).setWidth 32) w.tag && !s.parWrites.contains w then
    { s with parWrites := s.parWrites ++ [w] }
  else s

/-- The note of a tagged write. -/
def parityNote (s : State) (sector : Nat) (tag : W32) : State := parityMark s ⟨sector, tag, false⟩

/-- Write bytes of one sector where they stand at home, and everything that watches memory told. -/
def putBytes (s : State) (pa : Nat) (bs : List Byte) (by_ : Option Nat) : State :=
  let s1 := { s with mem := Store.write memDefault s.mem pa bs }
  wakeGraphs (wakeMonitors (wakeWaiters s s1) (pa / 64) by_) pa bs.length

/-- A write of all 64 bytes of a sector by one instruction or transfer clears its poison (18 R395). -/
def clearWhole (s : State) (pa : Nat) (bs : List Byte) : State := if 64 ≤ bs.length then setPoison s (pa / 64) false else s

/-- A store other than VSTRC to a counted line, an atomic that writes, CWB or CFLUSH ends the count (11 R248). -/
def endCount (s : State) (line : Nat) : State := { s with counted := s.counted.filter (fun c => decide (c.line ≠ line)) }

/-- A die that receives data with a later tag raises its RIN to that tag first (19 R403). -/
def takeTag (die : Nat) (s : State) (tag : W32) : State :=
  if rinBefore (rinOf s die) tag then { s with rin := Store.set (fun _ => 1) s.rin die tag } else s

/-- A die receives the data of sectors from a first to a last one (19 R403): the newest interval in which each was written stands in its undo entries until that
is sealed (R404). -/
def receivesRun (s : State) (die first last : Nat) : State :=
  (s.vs.filter (fun e => decide (first ≤ e.sector ∧ e.sector ≤ last) && e.undo)).foldl (fun t e => takeTag die t e.tag) s

/-- A die receives the data of a sector. -/
def receives (s : State) (die sector : Nat) : State :=
  (s.vs.filter (fun e => decide (e.sector = sector) && e.undo)).foldl (fun t e => takeTag die t e.tag) s

/-- A die receives `n` bytes at an address. -/
def receivesBytes (s : State) (die pa n : Nat) : State := if n = 0 then s else receivesRun s die (pa / 64) ((pa + n - 1) / 64)

/-- The scheduler, on die 0, hears of a node from the dies of its cores and takes their intervals with that: no store of the node is tagged later than what the
scheduler writes of its end (19 R403, R412). -/
def hearDies (s : State) (num : Nat) : State :=
  (((nodeOf s num).map Node.cores).getD []).foldl (fun t c => takeTag 0 t (rinOf t (c.toNat / 64))) s

/-- A tagged write to device memory, of bytes of one sector (19 R402 to R404): undo entry first, then the bytes; the home receives them. -/
def writeHome (s : State) (pa : Nat) (bs : List Byte) (tag : W32) (writer by_ : Option Nat) : State :=
  let t := parityNote (clearWhole (putBytes (endCount (undoEntry s (pa / 64) tag writer) (pa / 256)) pa bs by_) pa bs) (pa / 64) tag
  takeTag (homeDie pa) t tag

/-- Replace bytes of a 512-bit sector value. -/
def patch512 (d : BitVec 512) (off : Nat) (bs : List Byte) : BitVec 512 :=
  let l := natBytes d.toNat 64
  BitVec.ofNat 512 (bytesNat (l.take off ++ bs ++ l.drop (off + bs.length)))

/-- A version-store entry to whose sector an untagged write goes; its poison stays, for no instruction of the module writes it (18 R395). -/
def VsEntry.patch (pa : Nat) (bs : List Byte) (e : VsEntry) : VsEntry := { e with data := patch512 e.data (pa % 64) bs }

/-- An untagged write, over Causeway, from outside the domain, or at an egress release: applied to the sector and to every entry the version store
holds for it (19 R405; for releases log 17). `by_` is the hart that a released entry comes from. -/
def writeUntagged (s : State) (pa : Nat) (bs : List Byte) (by_ : Option Nat) : State :=
  let s1 := putBytes (endCount s (pa / 256)) pa bs by_
  let vs := updWhere (fun e => decide (e.sector = pa / 64)) (VsEntry.patch pa bs) s1.vs
  { s1 with vs := vs }

/-- Split bytes at 64-byte boundaries: (address, bytes) of each piece in ascending address. -/
def pieces (fuel a : Nat) (bs : List Byte) : List (Nat × List Byte) :=
  match fuel with
  | 0 => []
  | f + 1 => if bs.isEmpty then [] else
    let n := 64 - a % 64
    (a, bs.take n) :: pieces f (a + n) (bs.drop n)

def pieces64 (a : Nat) (bs : List Byte) : List (Nat × List Byte) := pieces (bs.length / 64 + 2) a bs

/-- Put four bits of a byte. -/
def putNibble (odd : Bool) (x b : Byte) : Byte := if odd then (b &&& 0x0F) ||| (x <<< 4) else (b &&& 0xF0) ||| (x &&& 0x0F)

/-- Entries that a die's egress buffer takes; 29,492 entries request a seal (19 R409). -/
def egressEnter (s : State) (die : Nat) (es : List Egress) : State :=
  let s1 := { s with egress := s.egress ++ es }
  if egUsed s1 die ≥ 29492 then requestSeal s1 (rinOf s die) else s1

/-- Enter an irrevocable write, made through the translation of a page, into a die's egress buffer: one entry for each 64-byte piece (19 R412). -/
def egressPush (s : State) (die : Nat) (page : BitVec 16 × Nat) (pa : Nat) (bs : List Byte) (add : Bool) (hid node : Option Nat) : State :=
  egressEnter s die ((pieces64 pa bs).map (fun p =>
    ({ die := BitVec.ofNat 2 die, pa := BitVec.ofNat 52 p.1, data := BitVec.ofNat 512 (bytesNat p.2),
       mask := BitVec.ofNat 64 (2 ^ p.2.length - 1), half := none, add := add, tag := rinOf s die, asid := page.1, vpn := page.2,
       hid := hid, node := node } : Egress)))

/-- The egress buffer of a die cannot take `n` more entries. -/
def egFull (s : State) (die n : Nat) : Bool := decide (egUsed s die + n > 32768)

/-- Halt a graph (03 R44, R47, R48; 19 R417): HALT set, GRAPH_FAIL the first address since HALT was clear, interrupt message 4. -/
def haltGraph (s : State) (g : Nat) (addr : Word) : State :=
  let off := 0x10000 + 0x20 * g
  let c := mgmtGet s off
  let s1 := if c.getLsbD 3 then s else mgmtPut s (off + 0x10) addr
  interrupt (mgmtPut s1 off (c ||| 8)) 4 0 g 0

/-- Escalation (18 R394): the instruction does not retire, an interrupt message goes to the host, and the die asks for rollback. In a rollback no
further one is raised (19 R414). -/
def escalate (s : State) (die cls unit : Nat) (pa : Word) : State :=
  let s1 := logEvent s die cls unit pa (Config.freeWord s.free)
  let s2 := bumpFree s1
  if s2.rollingBack then s2
  else raiseFirst (interrupt s2 2 die 0 (mgmtRead s2 (0x80000 + 0x100 * die))) [.rollback]

/-- A completion word of an earlier occurrence of a node waits: later ones of the same word queue behind it (03 R48). -/
def cwBehind (s : State) (nd : Node) : Bool :=
  s.nodes.any (fun x => decide (x.slot = nd.slot ∧ x.addr = nd.addr ∧ x.num < nd.num) && !x.cwWait.isEmpty)

/-- A completion word waits with its node. -/
def holdCword (s : State) (num st cause : Nat) : State :=
  updNode s num (fun x => { x with cwWait := x.cwWait ++ [(BitVec.ofNat 4 st, BitVec.ofNat 8 cause)] })

/-- Queue a write of a node's completion word (03 R48, 19 R412): through the egress buffer of die 0, once its page can be translated and the buffer
has room. The rin field is filled in at the release (Table 3.5). No word is written to a cword that is not 8-aligned, of a node that fails for it: whether one is
the spec does not say (DESIGN CHOICE, log 75). -/
def queueCword (s : State) (num st cause : Nat) : State :=
  match nodeOf s num with
  | none => s
  | some nd =>
    let va := BitVec.ofNat 64 (fieldAt nd.raw 0x18 8)
    if va = 0 ∨ va.toNat % 8 ≠ 0 then s
    else if nd.cwWait ≠ [] ∨ cwBehind s nd = true then holdCword s num st cause
    else match walk s (asidOf s nd.slot.toNat) (vpnOf va) with
      | .absent =>
        let t := requestPage s (asidOf s nd.slot.toNat) (vpnOf va) (anyDie (vpnOf va)) nd.slot.toNat
        updNode (holdCword t num st cause) num (fun x => { x with cwPage := true })
      | .poisoned pa => escalate { s with unrec := s.unrec ++ [⟨pa / 64, some num, none⟩] } 0 7 0 (BitVec.ofNat 64 pa)
      | .leaf e =>
        if leafW e then
          if egFull s 0 1 then holdCword (requestSeal s (rinOf s 0)) num st cause
          else
            let w := nd.occ.toNat * 65536 + cause * 256 + (if nd.capped then 16 else 0) + st
            egressPush s 0 (BitVec.ofNat 16 (asidOf s nd.slot.toNat), vpnOf va) (leafPA e + va.toNat % 65536) (natBytes w 8) false none (some num)
        else haltGraph s nd.slot.toNat nd.addr

/-- Does a live lease meet a page (04 R84, R88)? Page numbers are those of a walk, 40 bits wide (R68, log 62). -/
def leaseMeets (nd : Node) (vpn : Nat) : Bool :=
  nd.lease.any (fun r => decide (0 < r.len) && decide ((vpn + 2 ^ 40 - r.base.toNat / 65536 % 2 ^ 40) % 2 ^ 40 * 65536 < r.base.toNat % 65536 + r.len))

/-- A page is one that an invalidation names (04 R86). -/
def Inval.names (v : Inval) (asid : BitVec 16) (vpn : Nat) : Bool :=
  decide (v.asid = asid) && (v.all || decide (v.vpn ≤ vpn % 2 ^ 40 ∧ vpn % 2 ^ 40 < v.vpn + v.pages))

/-- The node's lease is live; a translation of it is in use: by the lease, or by a transfer that goes on after it (04 R87, R88). -/
def leaseLive (s : State) (num : Nat) : Bool := s.nodes.any (fun n => decide (n.num = num) && !n.lease.isEmpty)
def transLive (s : State) (num : Nat) : Bool := leaseLive s num || s.transfers.any (fun t => decide (t.node = num))

/-- Writes made through a translation of a named page have not been released yet: they have not performed (04 R87; those made after the GO too, log 71). -/
def unreleased (s : State) (v : Inval) : Bool := s.egress.any (fun e => v.names e.asid e.vpn)

/-- An invalidation waits for translations in use, or for writes made through them (04 R87, R88). -/
def invalWaits (s : State) (v : Inval) : Bool := v.waits.any (transLive s) || unreleased s v

/-- An invalidation that waits goes on once no node holds a translation it withdraws (04 R88); LEASEW reads while a lease does. -/
def invalGoesOn (s : State) : State :=
  match s.inval with
  | none => s
  | some v =>
    let c := mgmtGet s 0x30030
    let s1 := if c.getLsbD 6 && !v.waits.any (leaseLive s) then mgmtPut s 0x30030 (c &&& ~~~(0x40 : Word)) else s
    if invalWaits s v || s.pending.contains .invalidationDone then s1 else raiseEvents s1 [.invalidationDone]

/-- No node is LEASED or RUNNING. -/
def quiet (s : State) : Bool := !s.nodes.any (fun n => n.state == .leased || n.state == .running)

/-- Make an event due unless it is due already. -/
def raiseOnce (s : State) (i : Instr) : State := if s.pending.contains i then s else raiseEvents s [i]

/-- PHYS of a logical core's remap entry (04 R77, Table 4.4). -/
def remapOf (s : State) (L : Nat) : Nat := (mgmtGet s (0x20000 + 0x200 * (L / 64) + 8 * (L % 64))).toNat % 128

/-- Several logical cores of the die run on the physical core of one (04 R79). -/
def sharedCore (s : State) (L : Nat) : Bool :=
  decide (1 < ((List.range 64).filter (fun l => decide (remapOf s (64 * (L / 64) + l) = remapOf s L))).length)

/-- Resident harts on a physical core. -/
def coreHarts (s : State) (die phys : Nat) : List Hart :=
  (allHarts s).filter (fun h => h.resident && decide (h.lcore.toNat / 64 = die ∧ h.pcore.toNat = phys))

/-- What brings a hart that is not resident onto its core: on a shared core that stands empty, the switch to the next logical core (04 R79). -/
def comeIn (s : State) (h : Hart) (i : Instr) : Instr :=
  let phys := remapOf s h.lcore.toNat
  if sharedCore s h.lcore.toNat && (coreHarts s (h.lcore.toNat / 64) phys).isEmpty then
    .timeSlice (BitVec.ofNat 2 (h.lcore.toNat / 64)) (BitVec.ofNat 7 phys)
  else i

/-- Resources have become free: what waits for them is tried again: KERNEL nodes that are READY (03 R58) or have groups to place (04 R80), harts that
arrive (05 R105), contexts switched out (05 R107). -/
def wakeAdmission (s : State) : State :=
  let ns := s.nodes.filter (fun n => (n.state == .ready && !n.resWait && decide (fieldAt n.raw 2 1 = 1)) || decide (0 < n.left))
  let ev : List Instr := s.arrivals.map (fun h => comeIn s h (.hartResident h.hid))
    ++ ((allHarts s).filter (fun h => h.alive && h.out)).map (fun h => comeIn s h (.contextRestore h.hid)) ++ ns.map (fun n => .admitNode n.num)
  ev.foldl raiseOnce s

/-- A lease has ended: an invalidation that waited for it may complete (04 R88), an update that waits for quiet goes on (22 R449), and resources are
free. -/
def leaseEnded (s : State) : State :=
  let s1 := invalGoesOn s
  let s2 := match s1.fw with
    | .quiesce _ _ => if quiet s1 then raiseOnce s1 .fwQuiesceDone else s1
    | _ => s1
  wakeAdmission s2

/-- A node holds a logical core of the die (04 R77). -/
def dieBusy (s : State) (die : Nat) : Bool :=
  s.nodes.any (fun n => (n.state == .leased || n.state == .running) && n.cores.any (fun c => decide (c.toNat / 64 = die)))

/-- The 256 remap bytes (04 R83), followed by the placement profile at PROF_ADDR when its magic and version are accepted (21 Table 21.5). -/
def profileInput (s : State) : List Byte :=
  let remap : List Byte := (List.range 256).map (fun i => BitVec.ofNat 8 (mgmtGet s (0x20000 + 0x200 * (i / 64) + 8 * (i % 64))).toNat)
  let p := memBytes s (mgmtGet s 0x50018).toNat 2112
  if fieldAt p 0 4 = 0x464F5250 ∧ fieldAt p 4 2 = 0x0100 then remap ++ p.take (fieldAt p 8 4) else remap

/-- The scheduler recomputes PROF_HASH (12 R256, R257). -/
def setProfHash (s : State) : State :=
  let h := sha3 (profileInput s)
  (List.range 4).foldl (fun t i => mgmtPut t (0x50020 + 8 * i) (BitVec.ofNat 64 (fieldAt h (8 * i) 8))) s

/-- REMAP registers. -/
def isRemap (off : Nat) : Bool := decide (0x20000 ≤ off ∧ off < 0x20800)

/-- Apply the waiting writes that `p` picks. -/
def applyWrites (s : State) (p : Nat → Bool) : State :=
  (s.deferred.filter (fun d => p d.1)).foldl (fun t d => mgmtPut t d.1 d.2) { s with deferred := s.deferred.filter (fun d => !p d.1) }

/-- SEAL_DOM and SEAL_SELF take their waiting values once no node is LEASED or RUNNING (19 R422). -/
def applyDeferred (s : State) : State := if quiet s then applyWrites s (fun off => !isRemap off) else s

/-- At an admission, the remap writes of a die that no node holds take effect (04 R77). -/
def applyRemap (s : State) : State :=
  let ready : Nat → Bool := fun off => isRemap off && !dieBusy s ((off - 0x20000) / 0x200)
  if s.deferred.any (fun d => ready d.1) then setProfHash (applyWrites s ready) else s

/-- A context is released (05 R90): its hart holds nothing any more. Its advice context ends (12 R253, R254). -/
def Advice.end_ (a : Advice) : Advice :=
  { a with status := if a.status == .none then .none else .ended, prio := 0, order := 0, unsent := [] }

def Hart.finish (h : Hart) (st : HartStatus) : Hart :=
  { h with status := st, out := false, wait := .none, window := [], monitor := none, adv := h.adv.end_ }

/-- Drop the deterministic entries of a node (17 R380, R384). -/
def dropDetEntry (num : Nat) (e : VsEntry) : VsEntry :=
  { e with snap := if e.snap == some num then none else e.snap, priv := match e.priv with
      | some (n, t) => if n = num then none else some (n, t)
      | none => none }

def VsEntry.live (e : VsEntry) : Bool := e.undo || e.held || e.snap.isSome || e.priv.isSome

def dropDet (s : State) (num : Nat) : State := { s with vs := (s.vs.map (dropDetEntry num)).filter VsEntry.live }

/-- A versioned structure is accepted (21 R442): major version 1, and a minor one that the image knows. -/
def versionOk (v minor : Nat) : Bool := decide (v / 256 = 1) && (v % 256 == 0 || decide (v % 256 ≤ minor))

/-- A node becomes FAILED (03 R46, R47): its tasks stop, its lease ends, its graph halts, and completion state 15 is queued. -/
def failNode (s : State) (num cause : Nat) : State :=
  match nodeOf s num with
  | none => s
  | some nd =>
    let n := rinOf (hearDies s num) 0
    let f : Node → Node := fun x =>
      { x with state := .failed, resWait := false, cause := BitVec.ofNat 8 cause, lease := [], cores := [], left := 0, doneRin := n }
    let s1 := updNode (hearDies s num) num f
    let s2 := updHarts s1 (fun h => decide (h.node = num) && h.alive) (fun h => h.finish .ended)
    let s3 := { s2 with arrivals := s2.arrivals.filter (fun h => decide (h.node ≠ num)) }
    let s4 := queueCword (haltGraph (dropDet s3 num) nd.slot.toNat nd.addr) num 15 cause
    applyDeferred (leaseEnded s4)

end Sys2Proof.Machine
end

