-- ==== Sys2Proof/Machine/Coherence.lean ====
section
/-! DEFINITION. Sys2Proof/Machine/Coherence.lean: directories, snoop filters and RDC lines (11 R233 to R241). The data of a coherent line is held once,
in State.mem (log 5): the protocol gives every agent the value that home holds, so a line's copies never differ from it. Whole accesses of harts and
engines take the rows of Tables 11.4 and 11.5 to their end in one step; the message events take them one at a time. -/
namespace Sys2Proof.Machine

/-- Directory entry of a line. -/
def dirOf (s : State) (line : Nat) : Option DirState := (s.dir.find? (fun e => decide (e.line = line))).map DirEntry.st

/-- Set, or with none remove, the entry of a line; a set entry becomes the most recently used. What counts as a use the spec does not say (11 R237): the model counts
the setting of an entry alone, not a read that is served in S or hits in an RDC (DESIGN CHOICE, log 76). -/
def setDir (s : State) (line : Nat) (st : Option DirState) : State :=
  let rest := s.dir.filter (fun e => decide (e.line ≠ line))
  match st with
  | none => { s with dir := rest }
  | some x => { s with dir := rest ++ [⟨line, x⟩] }

/-- RDC line of an agent. -/
def rdcOf (s : State) (agent line : Nat) : Option RdcLine := s.rdc.find? (fun r => decide (r.agent.toNat = agent ∧ r.line = line))

/-- An RDC line in a transient state (11 Table 11.2). -/
def RdcState.transient (x : RdcState) : Bool := x == .is || x == .ie || x == .se || x == .xi

/-- A line of which an agent holds nothing. -/
def RdcLine.fresh (agent line : Nat) : RdcLine := ⟨BitVec.ofNat 3 agent, line, .s, 0, 0, Vector.replicate 4 0, 0, 0, []⟩

/-- The line in a state, with these dirty sectors: waiting for data it holds no valid sector, any other keeps those it held, the dirty ones among them (11
R231); the accesses that waited wait no more once it is stable. -/
def RdcLine.become (r : RdcLine) (x : RdcState) (dirty : BitVec 4) : RdcLine :=
  { r with st := x, valid := if x = .is ∨ x = .ie then 0 else r.valid ||| dirty, dirty := dirty, want := if x.transient then r.want else 0,
           stores := if x.transient then r.stores else 0,
           waiters := if x.transient then r.waiters else [] }

/-- Set the state and the dirty sectors of an agent's line, or with none remove it; the intervals of its writes stay with it (19 R403). -/
def setRdc (s : State) (agent line : Nat) (st : Option (RdcState × BitVec 4)) : State :=
  let rest := s.rdc.filter (fun r => !(decide (r.agent.toNat = agent) && decide (r.line = line)))
  match st with
  | none => { s with rdc := rest }
  | some x => { s with rdc := rest ++ [((rdcOf s agent line).getD (RdcLine.fresh agent line)).become x.1 x.2] }

/-- Change the line that an agent holds, if it does. -/
def modRdc (s : State) (agent line : Nat) (f : RdcLine → RdcLine) : State :=
  { s with rdc := updWhere (fun r => decide (r.agent.toNat = agent) && decide (r.line = line)) f s.rdc }

/-- Sectors of a line as a mask. -/
def sectorBit (sector : Nat) : BitVec 4 := BitVec.ofNat 4 (2 ^ (sector % 4))

/-- An agent's line takes the data of sectors that it did not hold (11 R231). -/
def fillSectors (s : State) (agent line : Nat) (m : BitVec 4) : State := modRdc s agent line (fun r => { r with valid := r.valid ||| m })

/-- A store of an agent makes a sector of its line dirty: M, with the current RIN of the die (19 R403). -/
def dirtySector (s : State) (agent line sector : Nat) : State :=
  let old := ((rdcOf s agent line).map RdcLine.dirty).getD 0
  modRdc (setRdc s agent line (some (.m, old ||| sectorBit sector))) agent line
    (fun r => { r with tags := r.tags.setIfInBounds (sector % 4) (rinOf s agent) })

/-- A mask of agents without one, with one. -/
def agentBit (r : Nat) : BitVec 5 := BitVec.ofNat 5 (2 ^ r)

/-- Agents of a mask, ascending. -/
def agentsOf (m : BitVec 5) : List Nat := (List.range 5).filter (fun i => m.getLsbD i)

/-- Drop the RDC copies of the agents in a mask: dirty sectors merge into home (11 R235). -/
def dropCopies (s : State) (m : BitVec 5) (line : Nat) : State := (agentsOf m).foldl (fun t a => setRdc t a line none) s

/-- A message is on its way between home and one of the agents of a mask, whose copy of the line can change only after it (11 R234, R236). Agents whose copies an
access does not touch hold it up in nothing. -/
def holdersBusy (s : State) (m : BitVec 5) (line : Nat) : Bool := (agentsOf m).any (fun a => (rdcOf s a line).any (fun r => r.st.transient))

/-- A stable entry: S or E (11 R237). -/
def DirState.stable (d : DirState) : Bool :=
  match d with
  | .shared _ => true
  | .owned _ => true
  | _ => false

/-- Set of the snoop filter: PA[26:8], that is the line number modulo 2^19, and the home die (11 R233). -/
def sameSet (a b : Nat) : Bool := decide (a % 2 ^ 19 = b % 2 ^ 19 ∧ homeDie (a * 256) = homeDie (b * 256))

/-- The entries of a line's set, least recently used first. -/
def setEntries (s : State) (line : Nat) : List DirEntry := s.dir.filter (fun e => sameSet e.line line)

/-- Agents that hold a stable line. -/
def DirState.holders (d : DirState) : BitVec 5 :=
  match d with
  | .shared m => m
  | .owned o => agentBit o.toNat
  | .wi m _ => m
  | .wr o _ _ _ => agentBit o.toNat
  | .wv m _ _ => m

/-- A request of a local access: it needs no entry of its own (11 Table 11.4). -/
def HomeReq.isHere (q : HomeReq) : Bool :=
  match q with
  | .here _ => true
  | _ => false

/-- A transaction waits for an entry of a line's set, its own line having none: later ones that need an entry are served after it (11 R238). -/
def setAwaited (s : State) (line : Nat) : Bool := s.dirQueue.any (fun q => sameSet q.1 line && !q.2.isHere && (dirOf s q.1).isNone)

/-- The line of a request that an agent has sent. -/
def requestLine (i : Instr) : Option Nat :=
  match i with
  | .rds _ l => some l.toNat
  | .rdx _ l => some l.toNat
  | .upg _ l => some l.toNat
  | _ => none

/-- A request that came earlier, or has waited, is due and needs an entry of a line's set: an access taken to its end at once does not pass it (11 R238). -/
def entryDue (s : State) (line : Nat) : Bool :=
  s.pending.any (fun i => (requestLine i).any (fun l => sameSet l line && (dirOf s l).isNone))

/-- A step that the host must answer with a message of its own: it is among the other holders (11 R240). Only a whole access of the module's own agents can
be taken to its end at once. -/
def hostHolds (d : DirState) (agent : Nat) : Bool := d.holders.getLsbD 4 && decide (agent ≠ 4)

/-- Make room for a new entry (11 R237): the victim is the least recently used stable entry; its copies are recalled and SF_RECALL counts it (R238). None
when that takes more than this step: all 16 are transient, a message of the victim's line is on its way, the host holds it, or another transaction waits for an
entry, in its queue or on its way from there. -/
def makeRoom (s : State) (line : Nat) : Option State :=
  let es := setEntries s line
  if setAwaited s line || entryDue s line then none
  else if es.length < 16 then some s
  else match es.find? (fun e => e.st.stable) with
    | none => none
    | some v =>
      if holdersBusy s v.st.holders v.line || hostHolds v.st 0 then none
      else
        let s1 := setDir (dropCopies s v.st.holders v.line) v.line none
        some (mgmtAdd s1 (0x40018 + 0x100 * homeDie (line * 256)) 1)

/-- An agent without a counted copy: counted lines are served from the home L2 and never granted (11 R248). -/
def isCounted (s : State) (line : Nat) : Bool := s.counted.any (fun c => decide (c.line = line))

/-- A read of a coherent device line by an agent (0 to 3 a die, 4 the host), to its end (11 Tables 11.4, 11.5); none while that takes more than a step. A line that
the agent holds stable is hit, whatever others have asked for (R236). -/
def cohRead (s : State) (agent line : Nat) : Option State :=
  if isCounted s line then some s
  else
    let d := dirOf s line
    let shut : BitVec 3 → Bool := fun o => hostHolds (.owned o) agent || holdersBusy s (agentBit o.toNat) line
    if homeDie (line * 256) = agent then
      match d with
      | none => some s
      | some (.shared _) => some s
      | some (.owned o) => if shut o then none else some (setDir (setRdc s o.toNat line (some (.s, 0))) line (some (.shared (agentBit o.toNat))))
      | _ => none
    else
      match rdcOf s agent line with
      | some r => if r.st.transient then none else some s
      | none =>
        match d with
        | none => (makeRoom s line).map (fun t => setDir (setRdc t agent line (some (.s, 0))) line (some (.shared (agentBit agent))))
        | some (.shared m) => some (setDir (setRdc s agent line (some (.s, 0))) line (some (.shared (m ||| agentBit agent))))
        | some (.owned o) =>
          if shut o then none
          else some (setDir (setRdc (setRdc s o.toNat line (some (.s, 0))) agent line (some (.s, 0))) line
            (some (.shared (agentBit o.toNat ||| agentBit agent))))
        | _ => none

/-- The copies that the agents of a stable entry hold can be taken from them at once, in a write by an agent. -/
def mayTake (s : State) (st : DirState) (m : BitVec 5) (agent line : Nat) : Bool := st.stable && !hostHolds st agent && !holdersBusy s m line

/-- A write of a sector of a coherent device line by an agent, to its end; none where it takes more than a step, as while the host holds the line or a
transaction waits for the entry that the write frees (11 R238). A line that the agent owns is hit (R236). -/
def cohWrite (s : State) (agent line sector : Nat) : Option State :=
  if isCounted s line then some s
  else
    let d := dirOf s line
    let own : State → State := fun t => setDir (dirtySector t agent line sector) line (some (.owned (BitVec.ofNat 3 agent)))
    if homeDie (line * 256) = agent then
      match d with
      | none => some s
      | some st => if mayTake s st st.holders agent line && !setAwaited s line then some (setDir (dropCopies s st.holders line) line none) else none
    else
      match rdcOf s agent line with
      | some r =>
        (match r.st with
         | .e => some (dirtySector s agent line sector)
         | .m => some (dirtySector s agent line sector)
         | .s =>
           (match d with
            | some (.shared m) =>
              let rest := m &&& ~~~(agentBit agent)
              if mayTake s (.shared m) rest agent line then some (own (dropCopies s rest line)) else none
            | _ => none)
         | _ => none)
      | none =>
        match d with
        | none => (makeRoom s line).map own
        | some st => if mayTake s st st.holders agent line then some (own (dropCopies s st.holders line)) else none

/-- A die reads a sector of a coherent line: it holds that sector then, and has received its data (11 R231, 19 R403). -/
def cohFetch (s : State) (die sector : Nat) : Option State :=
  (cohRead s die (sector / 4)).map (fun t => receives (fillSectors t die (sector / 4) (sectorBit sector)) die sector)

/-- The notes of 20 R431 for several sectors. -/
def parityNotes (s : State) (l : List Nat) (tag : W32) : State := l.foldl (fun t k => parityNote t k tag) s

/-- A read of a counted line takes one from its count (11 R248); at zero the line is dropped and memory holds what it held before the counted store.
The drop counts as a write of those contents (19 R404). -/
def countRead (s : State) (line : Nat) (tag : W32) : State :=
  match s.counted.find? (fun c => decide (c.line = line)) with
  | none => s
  | some c =>
    if c.count ≤ 1 then
      let s1 := (upFrom (line * 4) 4).foldl (fun t sec => undoEntry t sec tag none) s
      let s2 := { s1 with mem := Store.write memDefault s1.mem (line * 256) (natBytes c.old.toNat 256) }
      let s3 := (List.range 4).foldl (fun t i => setPoison t (line * 4 + i) (c.oldPoison.getLsbD i)) s2
      parityNotes (endCount s3 line) (upFrom (line * 4) 4) tag
    else { s with counted := updWhere (fun x => decide (x.line = line)) (fun x => { x with count := x.count - 1 }) s.counted }

/-- There is room for the undo entries of the drop that a read of a counted line makes (19 R402, R404). -/
def dropFits (s : State) (line : Nat) (tag : W32) : Bool :=
  !s.counted.any (fun c => decide (c.line = line ∧ c.count ≤ 1))
    || vsRoom s (homeDie (line * 256)) ((upFrom (line * 4) 4).filter (fun q => !hasUndo s q tag)).length

/-- The coherent classes are in use: every port that is up runs them (21 R441). -/
def hostCoherent (s : State) : Bool :=
  let p0 := mgmtGet s 0xB0008
  let p1 := mgmtGet s 0xB0010
  (p0.getLsbD 0 || p1.getLsbD 0) && (!p0.getLsbD 0 || p0.getLsbD 1) && (!p1.getLsbD 0 || p1.getLsbD 1)

/-- A page's lines are cached coherently over Causeway: while the coherent classes are not in use, HOSTC is treated as 0 (21 R441). -/
def hostCached (s : State) (e : Word) : Bool := leafHOSTC e && hostCoherent s

/-- A line of a host page is ready for a read by a die: it is held in S, or is not cached (11 R239). -/
def hostReady (s : State) (die pa : Nat) (e : Word) : Bool :=
  !hostCached s e || (match rdcOf s die (pa / 256) with
    | some r => !r.st.transient
    | none => false)

/-- A die asks the host for a sector of a line (11 R239, Table 11.5): RdS goes to the host, the line is in IS. The host's answer Data comes as an event, which the
model makes due at once (log 63). -/
def hostAsk (s : State) (die sector : Nat) : State :=
  let line := sector / 4
  let wants : State → State := fun t => modRdc t die line (fun x => { x with want := if x.st.transient then x.want ||| sectorBit sector else x.want })
  if (rdcOf s die line).isSome then wants s
  else
    let l := BitVec.ofNat 44 line
    let r := BitVec.ofNat 3 die
    let t := wants (setRdc s die line (some (.is, 0)))
    raiseEvents { t with hostOut := t.hostOut ++ [.coherence (.rds r l)] } [.data r l]

end Sys2Proof.Machine
end

