-- ==== Sys2Proof/Machine/Messages.lean ====
section
/-! DEFINITION. Sys2Proof/Machine/Messages.lean: the coherence messages one at a time (11 R234 to R240, Tables 11.4 and 11.5), and the rows of HBM (R250). The
data of a line is held once (log 5), so merging dirty sectors at home changes no byte. A message for which the state of the line gives no row changes
nothing (log 59). -/
namespace Sys2Proof.Machine

/-- An agent that may ask for a line: another die, or the host while the coherent classes are in use (21 R441) and the start has not stopped (22 R445). -/
def asker (s : State) (r line : Nat) : Bool :=
  decide (r ≤ 4 ∧ r ≠ homeDie (line * 256)) && deviceMem s (line * 256) && (decide (r ≠ 4) || (hostCoherent s && s.boot == .running))

/-- What home sends to the host as an agent crosses Causeway (21 Table 21.2), while the coherent classes are in use (R441) and the start has not stopped (22 R445). -/
def toHost (s : State) (r line : Nat) (m : Instr) : State :=
  if r = 4 ∧ isDeviceMem (line * 256) = true ∧ hostCoherent s = true ∧ s.boot = .running then { s with hostOut := s.hostOut ++ [.coherence m] } else s

/-- The message event of a request. -/
def HomeReq.event (q : HomeReq) (line : Nat) : Instr :=
  match q with
  | .rds r => .rds r (BitVec.ofNat 44 line)
  | .rdx r => .rdx r (BitVec.ofNat 44 line)
  | .upg r => .upg r (BitVec.ofNat 44 line)
  | .here false => .rds (BitVec.ofNat 3 (homeDie (line * 256))) (BitVec.ofNat 44 line)
  | .here true => .rdx (BitVec.ofNat 3 (homeDie (line * 256))) (BitVec.ofNat 44 line)

/-- Agent of a request for a line: the home die itself for a local access. -/
def HomeReq.agent (q : HomeReq) (line : Nat) : Nat :=
  match q with
  | .rds r => r.toNat
  | .rdx r => r.toNat
  | .upg r => r.toNat
  | .here _ => homeDie (line * 256)

/-- Messages of the host that waited for a line are tried again, in the order in which they came (21 R436). -/
def serveHost (s : State) : State := raiseFirst { s with hostIn := [] } s.hostIn

/-- A request waits in its queue (11 R234). -/
def enqueue (s : State) (line : Nat) (q : HomeReq) : State := { s with dirQueue := s.dirQueue ++ [(line, q)] }

/-- Requests that waited for a line of a set are served again, in the order in which they came (11 R234, R238). -/
def serveQueue (s : State) (line : Nat) : State :=
  let go := s.dirQueue.filter (fun q => sameSet q.1 line)
  raiseFirst { serveHost s with dirQueue := s.dirQueue.filter (fun q => !sameSet q.1 line) } (go.map (fun q => q.2.event q.1))

/-- A transaction completes: the entry takes its next state and the answer goes out (11 Table 11.4). `o` is the owner that keeps a shared copy. -/
def completeReq (s : State) (line : Nat) (o : BitVec 5) (q : HomeReq) : State :=
  let l := BitVec.ofNat 44 line
  match q with
  | .rds r => serveQueue (raiseEvents (setDir s line (some (.shared (o ||| agentBit r.toNat)))) [.data r l]) line
  | .rdx r => serveQueue (raiseEvents (setDir s line (some (.owned r))) [.datae r l]) line
  | .upg r => serveQueue (raiseEvents (setDir s line (some (.owned r))) [.grante r l]) line
  | .here wr => serveQueue (setDir s line (if wr || decide (o = 0) then none else some (.shared o))) line

/-- Messages to the agents of a mask. -/
def toAgents (s : State) (m : BitVec 5) (f : BitVec 3 → Instr) : State := raiseEvents s ((agentsOf m).map (fun a => f (BitVec.ofNat 3 a)))

/-- A victim of the snoop filter is recalled (11 R237), and SF_RECALL counts it (R238). -/
def recallVictim (s : State) (v : DirEntry) : State :=
  let l := BitVec.ofNat 44 v.line
  let s1 := mgmtAdd (setDir s v.line (some (.wv v.st.holders false false))) (0x40018 + 0x100 * homeDie (v.line * 256)) 1
  match v.st with
  | .owned o => raiseEvents s1 [.recalli o l]
  | _ => toAgents s1 v.st.holders (fun a => .inv a l)

/-- A request for a line without an entry: granted when its set has room, else a victim is recalled and it waits (11 R237, R238). -/
def requestNew (s : State) (line : Nat) (q : HomeReq) : State :=
  if q.isHere || (decide ((setEntries s line).length < 16) && !setAwaited s line) then
    completeReq s line 0 (match q with
      | .upg r => .rdx r
      | x => x)
  else
    let s1 := enqueue s line q
    if decide ((setEntries s line).length < 16) || (setEntries s line).any (fun e => match e.st with
        | .wv _ _ _ => true
        | _ => false) then s1
    else match (setEntries s line).find? (fun e => e.st.stable) with
      | some v => recallVictim s1 v
      | none => s1

/-- A request for ownership of a shared line: Inv to the other sharers, or the grant at once when there are none. -/
def requestOwn (s : State) (line : Nat) (m : BitVec 5) (q : HomeReq) : State :=
  let keep := match q with
    | .upg r => agentBit r.toNat
    | _ => 0
  let others := m &&& ~~~keep
  if others = 0 then completeReq s line 0 q
  else toAgents (setDir s line (some (.wi others q))) others (fun a => .inv a (BitVec.ofNat 44 line))

/-- An Upg of an agent that is no sharer is served as RdX (11 Table 11.4, Table 11.5). -/
def asOwn (m : BitVec 5) (q : HomeReq) : HomeReq :=
  match q with
  | .upg r => if m.getLsbD r.toNat then .upg r else .rdx r
  | x => x

/-- The home handles a request (11 Table 11.4). A counted line is never granted: a read of it is served, a request for ownership ends the count (R248). -/
def homeRequest (s : State) (line : Nat) (q : HomeReq) : State :=
  let l := BitVec.ofNat 44 line
  match dirOf s line with
  | none => requestNew s line q
  | some (.shared m) =>
    (match q with
     | .rds r => raiseEvents (setDir s line (some (.shared (m ||| agentBit r.toNat)))) [.data r l]
     | .here false => serveHost s
     | x => requestOwn s line m (asOwn m x))
  | some (.owned o) =>
    if q.agent line = o.toNat then s
    else match q with
      | .rds _ => raiseEvents (setDir s line (some (.wr o q false false))) [.recalls o l]
      | .here false => raiseEvents (setDir s line (some (.wr o q false false))) [.recalls o l]
      | x => raiseEvents (setDir s line (some (.wr o (asOwn 0 x) false false))) [.recalli o l]
  | some _ => enqueue s line q

/-- The state that the requester's RDC line takes when it sends a request (11 Table 11.5); none where its line forbids the request. -/
def sendState (s : State) (r line : Nat) (fresh : RdcState) : Option State :=
  match rdcOf s r line with
  | none => some (setRdc s r line (some (fresh, 0)))
  | some x =>
    if x.st = .s then some (setRdc s r line (some (fresh, 0)))
    else if x.st = .is ∨ x.st = .ie ∨ x.st = .se then some s
    else none

/-- A request of an agent, or of the home die's own cores. -/
def request (s : State) (line : Nat) (q : HomeReq) (fresh : RdcState) : State :=
  if q.agent line = homeDie (line * 256) ∧ isDeviceMem (line * 256) = true then homeRequest s line (.here (decide (fresh ≠ .is)))
  else if asker s (q.agent line) line then (sendState s (q.agent line) line fresh).elim s (fun t => homeRequest t line q)
  else s

/-- A write waits for space in the version store of a die (19 R406): a seal is requested. -/
def spaceWait (s : State) (die : Nat) : State := requestSeal (waitSpace s die) (rinOf s die)

/-- RDS (11 R235): a counted line is served from the home L2 without a grant, one read (R248). -/
def execRds (r : BitVec 3) (line : BitVec 44) (s : State) : Host.Outcome State Fault Refusal :=
  let l := line.toNat
  if isCounted s l && asker s r.toNat l then
    if dropFits s l (rinOf s (homeDie (l * 256))) then .next (setRdc (countRead s l (rinOf s (homeDie (l * 256)))) r.toNat l none)
    else .next (enqueue (spaceWait s (homeDie (l * 256))) l (.rds r))
  else .next (request s l (.rds r) .is)

/-- RDX (11 R235). -/
def execRdx (r : BitVec 3) (line : BitVec 44) (s : State) : Host.Outcome State Fault Refusal :=
  .next (request (endCount s line.toNat) line.toNat (.rdx r) .ie)

/-- UPG (11 R235): from an agent in S, or in IE after an Inv. -/
def execUpg (r : BitVec 3) (line : BitVec 44) (s : State) : Host.Outcome State Fault Refusal :=
  if (rdcOf s r.toNat line.toNat).isNone then .next s else .next (request (endCount s line.toNat) line.toNat (.upg r) .se)

/-- An access of a die to a sector that cannot be made to its end in one step sends its request (11 R234, R236), unless it has been sent: the line is then in
a transient state, or the request stands in the queue. The access itself is tried again when the line has become stable. While the host does not use the
coherent classes, its accesses take the row of the home die (21 R441). -/
def askLine (s : State) (agent sector : Nat) (wr : Bool) : State :=
  let line := sector / 4
  let home := homeDie (line * 256)
  let die := if agent = 4 ∧ hostCoherent s = false then home else agent
  let l := BitVec.ofNat 44 line
  let r := BitVec.ofNat 3 die
  let wants : State → State := fun t => modRdc t die line (fun x =>
    { x with want := x.want ||| sectorBit sector, stores := if wr then x.stores ||| sectorBit sector else x.stores })
  if home = die then
    if s.dirQueue.contains (line, .here wr) then s else homeRequest s line (.here wr)
  else match rdcOf s die line with
    | none => raiseEvents (wants (setRdc s die line (some (if wr then .ie else .is, 0)))) [if wr then .rdx r l else .rds r l]
    | some x =>
      if x.st = .s ∧ wr = true then raiseEvents (wants (setRdc s die line (some (.se, 0)))) [.upg r l]
      else if x.st.transient && (x.st != .is || !wr) && decide (die ≠ 4) then wants s else s

/-- Who waits to store to the sector of a line that is on its way (11 R236): a hart (true) or a transfer (false). -/
def waitFor (s : State) (die sector : Nat) (who : Bool × Nat) : State :=
  modRdc s die (sector / 4) (fun x =>
    if (x.st == .ie || x.st == .se) && !x.waiters.contains who then { x with waiters := x.waiters ++ [who] } else x)

/-- The victim's responses are complete: its line is U and its entry free (11 R237). -/
def freeEntry (s : State) (line : Nat) : State := serveQueue (setDir s line none) line

/-- The host keeps no copy of a line that it has read while the coherent classes are not in use: its entry names it no more (21 R441). -/
def leaveHost (s : State) (line : Nat) : State :=
  match dirOf s line with
  | some (.shared m) => if m &&& 0xF = 0 then freeEntry s line else setDir s line (some (.shared (m &&& 0xF)))
  | _ => s

/-- A read of the host takes the row RdS of a remote agent (11 R240); a copy that the host does not keep is dropped silently (R235). -/
def hostRead (s : State) (line : Nat) : Option State :=
  (cohRead s 4 line).map (fun t =>
    if (rdcOf s 4 line).isSome || isCounted s line then t
    else
      let u := setRdc t 4 line none
      if hostCoherent s then u else leaveHost u line)

/-- A posted write of the host takes the row of a remote agent (11 R240): RdX, then its data goes home and the line is given up. -/
def hostWrite (s : State) (line sector : Nat) : Option State := (cohWrite s 4 line sector).map (fun t => freeEntry (setRdc t 4 line none) line)

/-- Every request that waits is served again, in order: lines have been given up (11 R238). -/
def serveAll (s : State) : State := raiseFirst { serveHost s with dirQueue := [] } (s.dirQueue.map (fun q => q.2.event q.1))

/-- A write-back or clean eviction from the owner (11 Table 11.4): merged, WbAck. -/
def homeEvict (s : State) (r : BitVec 3) (line : Nat) : State :=
  let s1 := raiseEvents (setRdc s r.toNat line (some (.xi, 0))) [.wback r (BitVec.ofNat 44 line)]
  match dirOf s line with
  | some (.owned o) => if o = r then freeEntry s1 line else s
  | some (.wr o q _ w) =>
    if o = r then (if w then completeReq s1 line (agentBit o.toNat) q else setDir s1 line (some (.wr o q true w))) else s
  | some (.wv m _ w) =>
    if m = agentBit r.toNat then (if w then freeEntry s1 line else setDir s1 line (some (.wv m true w))) else s
  | _ => s

/-- The line is on its way home (XI, 11 Table 11.5), or its holder gives it up with this very message: dirty sectors from M, a clean line from E. -/
def mayEvict (s : State) (r line : Nat) (dirty : Bool) : Bool :=
  match rdcOf s r line with
  | some x => x.st == .xi || (if dirty then x.st == .m else x.st == .e)
  | none => false

/-- WBD (11 R235): dirty sectors of the owner reach home. -/
def execWbd (r : BitVec 3) (line : BitVec 44) (_sectors : BitVec 4) (s : State) : Host.Outcome State Fault Refusal :=
  .next (if mayEvict s r.toNat line.toNat true then homeEvict s r line.toNat else s)

/-- EVC (11 R235): a clean line is given up. -/
def execEvc (r : BitVec 3) (line : BitVec 44) (s : State) : Host.Outcome State Fault Refusal :=
  .next (if mayEvict s r.toNat line.toNat false then homeEvict s r line.toNat else s)

/-- INVACK (11 R235): counted; the last completes. -/
def execInvack (r : BitVec 3) (line : BitVec 44) (s : State) : Host.Outcome State Fault Refusal :=
  let l := line.toNat
  let rest : BitVec 5 → BitVec 5 := fun m => m &&& ~~~(agentBit r.toNat)
  match dirOf s l with
  | some (.wi m q) => .next (if m.getLsbD r.toNat = false then s else if rest m = 0 then completeReq s l 0 q else setDir s l (some (.wi (rest m) q)))
  | some (.wv m rc w) => .next (if m.getLsbD r.toNat = false then s else if rest m = 0 then freeEntry s l else setDir s l (some (.wv (rest m) rc w)))
  | _ => .next s

/-- The owner's answer to a recall (11 Table 11.4). With wb = 1 the transaction waits for the write-back, unless it has been received. -/
def recallDone (s : State) (r : BitVec 3) (line : Nat) (wb : Bool) : State :=
  match dirOf s line with
  | some (.wr o q rc w) =>
    if o ≠ r then s
    else if !wb || rc then completeReq s line (agentBit o.toNat) q else setDir s line (some (.wr o q rc (w || wb)))
  | some (.wv m rc w) =>
    if m ≠ agentBit r.toNat then s
    else if !wb || rc then freeEntry s line else setDir s line (some (.wv m rc (w || wb)))
  | _ => s

/-- ACK (11 R235). -/
def execAck (r : BitVec 3) (line : BitVec 44) (wb : Bool) (s : State) : Host.Outcome State Fault Refusal := .next (recallDone s r line.toNat wb)

/-- ACKD (11 R235): dirty sectors are merged. -/
def execAckd (r : BitVec 3) (line : BitVec 44) (_sectors : BitVec 4) (s : State) : Host.Outcome State Fault Refusal :=
  .next (recallDone s r line.toNat false)

/-- Answers of an agent: to the home die, or for a line of host memory over Causeway to the host (11 R239). -/
def answer (s : State) (line : Nat) (l : List Instr) : State :=
  if isHost (line * 256) then { s with hostOut := s.hostOut ++ l.map HostMsg.coherence } else raiseEvents s l

/-- Change the RDC line of an agent, where Table 11.5 has a row for its state, and answer. -/
def rdcStep (s : State) (r : BitVec 3) (line : Nat) (f : Option RdcLine → Option (Option (RdcState × BitVec 4) × List Instr)) :
    Host.Outcome State Fault Refusal :=
  match f (rdcOf s r.toNat line) with
  | none => .next s
  | some p => .next (serveHost (answer (setRdc s r.toNat line p.1) line p.2))

/-- Data or ownership that the host has asked for goes to it; what its posted accesses take does not (11 R240). -/
def grantHost (s : State) (r line : Nat) (m : Instr) : State :=
  if ((rdcOf s r line).map RdcLine.want).getD 0 = 0 then toHost s r line m else s

/-- DATA (11 Table 11.5): IS becomes S, with the sectors that the waiting loads name. -/
def execData (r : BitVec 3) (line : BitVec 44) (s : State) : Host.Outcome State Fault Refusal :=
  rdcStep (modRdc (grantHost s r.toNat line.toNat (.data r line)) r.toNat line.toNat (fun x => if x.st = .is then { x with valid := x.want } else x))
    r line.toNat (fun x => match x with
    | some y => if y.st = .is then some (some (.s, 0), []) else none
    | none => none)

/-- The stores that waited for ownership perform next, before anything else (11 Table 11.5): the harts run their instruction, the transfers their step. -/
def performStores (s : State) (l : List (Bool × Nat)) : State :=
  let harts := (l.filter Prod.fst).map (fun w => Choice.run w.2 .hart)
  raiseFirst { s with sched := harts ++ s.sched } ((l.filter (fun w => !w.1)).map (fun w => .engineCount w.2))

/-- Ownership arrives and the stores that waited for it perform (11 Table 11.5): the line becomes M, the sectors that they write are dirty and carry the current
interval (19 R403); those that waiting loads name have come with the data (R231). Which sectors the host writes in a line that it owns, its messages do not say before it sends them: its line is E until then
(log 5). -/
def ownLine (s : State) (r : BitVec 3) (line : Nat) (from_ : RdcState) : State :=
  match rdcOf s r.toNat line with
  | none => s
  | some y =>
    if y.st = from_ then
      let m := if r = 4 then 0 else y.stores
      let t := modRdc (setRdc s r.toNat line (some (if m = 0 then .e else .m, m))) r.toNat line
        (fun x => { x with valid := if from_ = .ie then x.valid ||| y.want else x.valid, tags := Vector.replicate 4 (rinOf s r.toNat) })
      performStores (serveHost t) y.waiters
    else s

/-- DATAE (11 Table 11.5): IE becomes M, the store performs. -/
def execDatae (r : BitVec 3) (line : BitVec 44) (s : State) : Host.Outcome State Fault Refusal :=
  .next (ownLine (grantHost s r.toNat line.toNat (.datae r line)) r line.toNat .ie)

/-- GRANTE (11 Table 11.5): SE becomes M, the store performs. -/
def execGrante (r : BitVec 3) (line : BitVec 44) (s : State) : Host.Outcome State Fault Refusal :=
  .next (ownLine (grantHost s r.toNat line.toNat (.grante r line)) r line.toNat .se)

/-- A host's write to a line of its own memory reaches the module as INV (11 R239): the monitors that harts of the die hold on the line wake (16 R367). -/
def wakeHostMonitors (s : State) (die line : Nat) : State :=
  if isHost (line * 256) then
    raiseEvents s (((allHarts s).filter (fun h => decide (h.lcore.toNat / 64 = die) && h.monitor.any (fun q => decide (q / 4 = line)))).map
      (fun h => .monitorWake h.hid))
  else s

/-- INV (11 Table 11.5): S or I answers InvAck and becomes I; SE becomes IE; a line whose data is awaited answers and waits on. -/
def execInv (r : BitVec 3) (line : BitVec 44) (s : State) : Host.Outcome State Fault Refusal :=
  let a : List Instr := [.invack r line]
  rdcStep (wakeHostMonitors (toHost s r.toNat line.toNat (.inv r line)) r.toNat line.toNat) r line.toNat (fun x => match x with
    | none => some (none, a)
    | some y =>
      if y.st = .s then some (none, a)
      else if y.st = .se then some (some (.ie, 0), a)
      else if y.st = .is ∨ y.st = .ie then some (some (y.st, 0), a)
      else none)

/-- RECALLS (11 Table 11.5): the owner keeps S, all sectors clean. -/
def execRecalls (r : BitVec 3) (line : BitVec 44) (s : State) : Host.Outcome State Fault Refusal :=
  rdcStep (toHost s r.toNat line.toNat (.recalls r line)) r line.toNat (fun x => match x with
    | some y =>
      if y.st = .e then some (some (.s, 0), [.ack r line false])
      else if y.st = .m then some (some (.s, 0), [.ackd r line y.dirty])
      else if y.st = .xi then some (some (.xi, 0), [.ack r line true])
      else none
    | none => none)

/-- RECALLI (11 Table 11.5): the owner drops the line. -/
def execRecalli (r : BitVec 3) (line : BitVec 44) (s : State) : Host.Outcome State Fault Refusal :=
  rdcStep (toHost s r.toNat line.toNat (.recalli r line)) r line.toNat (fun x => match x with
    | some y =>
      if y.st = .e then some (none, [.ack r line false])
      else if y.st = .m then some (none, [.ackd r line y.dirty])
      else if y.st = .xi then some (some (.xi, 0), [.ack r line true])
      else none
    | none => none)

/-- WBACK (11 Table 11.5): XI becomes I. -/
def execWback (r : BitVec 3) (line : BitVec 44) (s : State) : Host.Outcome State Fault Refusal :=
  rdcStep (toHost s r.toNat line.toNat (.wback r line)) r line.toNat (fun x => match x with
    | some y => if y.st = .xi then some (none, []) else none
    | none => none)

/-- An RDC gives a line up of its own accord (11 Table 11.5 "Eviction"): S silently, E by EvC, M by WbD, each through XI. -/
def evictLine (s : State) (r : BitVec 3) (line : Nat) : State :=
  let l := BitVec.ofNat 44 line
  match rdcOf s r.toNat line with
  | none => s
  | some x =>
    match x.st with
    | .s => setRdc s r.toNat line none
    | .e => answer (setRdc s r.toNat line (some (.xi, 0))) line [.evc r l]
    | .m => answer (setRdc s r.toNat line (some (.xi, 0))) line [.wbd r l x.dirty]
    | _ => s

/-- The activation counter of a row is cleared (11 R250). -/
def clearRow (s : State) (die : BitVec 2) (row : BitVec 32) : State :=
  { s with act := Store.set zeroOf s.act (die.toNat * 2 ^ 32 + row.toNat) 0 }

/-- ACT_CNT of a die: MITIG in bits 47 to 0, PARITY in bits 63 to 48 (11 Table 11.9). -/
def actCount (s : State) (die : BitVec 2) (mitig parity : Nat) : State :=
  let off := 0x40010 + 0x100 * die.toNat
  let v := (mgmtGet s off).toNat
  mgmtPut s off (BitVec.ofNat 64 ((nbits v 0 48 + mitig) % 2 ^ 48 + (nbits v 48 16 + parity) % 2 ^ 16 * 2 ^ 48))

/-- HBM_ACT_REFRESH (11 R250): a counter has reached ACT_TH or saturated; the neighbouring rows are refreshed, which changes no value. -/
def execHbmActRefresh (die : BitVec 2) (row : BitVec 32) (s : State) : Host.Outcome State Fault Refusal :=
  .next (actCount (clearRow s die row) die 1 0)

/-- ACT_PARITY_ERROR (11 R250): the same refresh, counted as a parity event and logged as class 9 with its row. -/
def execActParityError (die : BitVec 2) (row : BitVec 32) (s : State) : Host.Outcome State Fault Refusal :=
  let s1 := actCount (clearRow s die row) die 0 1
  .next (bumpFree (logEvent s1 die.toNat 9 0 (row.setWidth 64) (Config.freeWord s.free)))

end Sys2Proof.Machine
end

