-- ==== Sys2Proof/Machine/Ops.lean ====
section
/-! DEFINITION. Sys2Proof/Machine/Ops.lean: the shared operations of the instructions: the front end that executes (05, 12 R251, 22 R443), scalar registers
(05 R94), retirement and the loop rule (06 R132, R133), taking an exception and returning from one (18 R386 to R390), the end of a task (06 R143,
04 R81), dropped advice words (12 R269), and the result type of an instruction that may stop half way. -/
namespace Sys2Proof.Machine

/-- The front end of the agent that executes. -/
def State.front (s : State) : Front :=
  match s.agent with
  | .hart => s.hart.front
  | .advice => s.hart.adv.front
  | .ozsis => s.oz.front

def State.setFront (s : State) (f : Front) : State :=
  match s.agent with
  | .hart => { s with hart := { s.hart with front := f } }
  | .advice => { s with hart := { s.hart with adv := { s.hart.adv with front := f } } }
  | .ozsis => { s with oz := { s.oz with front := f } }

/-- Physical register of scalar name `n` under the window (05 R94). -/
def Front.phys (f : Front) (n : Nat) : Nat := f.wbase.toNat + n

/-- A scalar name read: s0 reads zero in every window (05 R94). -/
def Front.rd (f : Front) (n : Nat) : Word := if n = 0 then 0 else Store.get zeroOf f.regs (f.phys n)

/-- A scalar name written: s0 discards the write (05 R94). -/
def Front.wr (f : Front) (n : Nat) (v : Word) : Front :=
  if n = 0 then f else { f with regs := Store.set zeroOf f.regs (f.phys n) v }

/-- The 128-bit pair of an even name: low half first; a pair that starts at s0 has a zero low half (05 R94). -/
def Front.rdPair (f : Front) (n : Nat) : BitVec 128 := BitVec.ofNat 128 ((f.rd n).toNat + (f.rd (n + 1)).toNat * 2 ^ 64)

def Front.wrPair (f : Front) (n : Nat) (v : BitVec 128) : Front :=
  (f.wr n (BitVec.ofNat 64 v.toNat)).wr (n + 1) (BitVec.ofNat 64 (v.toNat / 2 ^ 64))

/-- S[n] of the executing agent. -/
def State.sreg (s : State) (n : Nat) : Word := s.front.rd n

def State.setSreg (s : State) (n : Nat) (v : Word) : State := s.setFront (s.front.wr n v)

/-- A write by physical register number, for results that reach a hart after its window may have moved (06 R117); number 0 is s0. -/
def Hart.setPhys (h : Hart) (p : Nat) (v : Word) : Hart :=
  if p = 0 then h else { h with front := { h.front with regs := Store.set zeroOf h.front.regs p v } }

/-- Physical number of a scalar destination, 0 for s0. -/
def Front.dest (f : Front) (n : Nat) : Nat := if n = 0 then 0 else f.phys n

/-- The hart is in a trap handler (18 R387). -/
def State.inHandler (s : State) : Bool := s.agent == .hart && s.hart.trap.tstatus.getLsbD 0

/-- The loop rule of 06 R132 for the instruction at `stop` that retires without a transfer: counters, levels and the next pc. -/
def loopRule (lc : Store 64) (levels : List Level) (stop : Word) : Store 64 × List Level × Word :=
  match levels with
  | [] => (lc, [], stop + 4)
  | l :: r =>
    if l.stop ≠ stop then (lc, l :: r, stop + 4)
    else
      let c := Store.get zeroOf lc r.length
      if 1 < c.toNat then (Store.set zeroOf lc r.length (c - 1), l :: r, l.start)
      else loopRule (Store.set zeroOf lc r.length 0) r stop

/-- R133: levels that do not contain the target end, the innermost first, and their counters become 0. -/
def leaveLoops (lc : Store 64) (levels : List Level) (target : Word) : Store 64 × List Level :=
  match levels with
  | [] => (lc, [])
  | l :: r =>
    if l.start.toNat ≤ target.toNat ∧ target.toNat ≤ l.stop.toNat then (lc, l :: r)
    else leaveLoops (Store.set zeroOf lc r.length 0) r target

/-- The front end after the instruction at `at_` retires without a transfer. -/
def Front.seqFrom (f : Front) (frozen : Bool) (at_ : Word) : Front :=
  if frozen then { f with pc := at_ + 4 }
  else
    let r := loopRule f.lc f.levels at_
    { f with lc := r.1, levels := r.2.1, pc := r.2.2 }

/-- The front end after a taken transfer (06 R133); in a handler the levels are frozen (R134). -/
def Front.jump (f : Front) (frozen : Bool) (target : Word) : Front :=
  if frozen then { f with pc := target }
  else
    let r := leaveLoops f.lc f.levels target
    { f with lc := r.1, levels := r.2, pc := target }

/-- Counters at a retirement (18 R400): cycle and vstall rise by free amounts (log 3), acycle by one for every second control cycle (00 R6). -/
def Counters.retire (c : Counters) (free : Nat) : Counters :=
  let n := Config.freeWord (2 * free)
  ⟨c.cycle + n, c.acycle + BitVec.ofNat 64 ((c.cycle.toNat % 2 + n.toNat) / 2), c.retired + 1, c.vstall + Config.freeWord (2 * free + 1)⟩

/-- The first differing entry decides, the greater one ranks above. -/
def ranksAbove (a b : List Nat) : Bool :=
  match a, b with
  | x :: xs, y :: ys => if x = y then ranksAbove xs ys else decide (y < x)
  | _, _ => false

/-- Key of a hart for a shared resource by 05 R101 and R102, for something that has waited for `age` rounds: node priority, aged flag, among aged harts how
long it has been passed over, advice priority, age; ties go to the lower hartid. -/
def Hart.key (h : Hart) (age : Nat) : List Nat :=
  [h.prio.toNat, if h.aged then 1 else 0, if h.aged then h.passed else 0, h.adv.prio.toNat, age, 2048 - (h.lcore.toNat * 8 + h.ctx.toNat)]

/-- An instruction of the hart has retired in the round `now`: it has been served, and its next one enters the front end (05 R101, R102). A hart has one count for
all shared resources, which service at any of them clears (DESIGN CHOICE, log 7). -/
def Hart.served (h : Hart) (free now : Nat) : Hart := { h with ctr := h.ctr.retire free, passed := 0, aged := false, since := now, retiredAt := now }

/-- Send the prefetch lines of the current context that have waited one word (12 R264, log 18): each is a read of its 64 bytes by the die, or for level l2 by the
line's home, whose copy is placed in no RDC; a line that is not stable waits on. -/
def sendPrefetch (s : State) : State :=
  let die := s.hart.lcore.toNat / 64
  let r := s.hart.adv.unsent.foldl (fun (acc : State × List (Nat × BitVec 2)) q =>
    match (if q.2 = 1 then cohRead acc.1 (homeDie (q.1 * 64)) (q.1 / 4) else cohFetch acc.1 die q.1) with
    | some t => (t, acc.2)
    | none => (acc.1, acc.2 ++ [q])) (s, [])
  { r.1 with hart := { r.1.hart with adv := { r.1.hart.adv with unsent := r.2 } } }

/-- One advice word has been executed or dropped: it takes one from the watchdog count, and at zero the context ends next (12 R262). Its hart has been
served (05 R102), which clears the one count that it has for all shared resources (DESIGN CHOICE, log 7). Prefetch lines of earlier words go to memory. -/
def adviceTick (s0 : State) : State :=
  let s := sendPrefetch s0
  let n := s.hart.adv.wdog - 1
  let s1 := { s with hart := { s.hart with passed := 0, aged := false, adv := { s.hart.adv with wdog := n, since := s.clock } } }
  if n = 0 then raiseFirst s1 [.adviceWatchdog s.hart.hid] else s1

/-- What retirement does beside the front end. -/
def State.counted1 (s : State) : State :=
  match s.agent with
  | .hart => bumpFree { s with hart := s.hart.served s.free s.clock }
  | .advice => adviceTick s
  | .ozsis => s

/-- The instruction at pc retires without a transfer. -/
def State.retire (s : State) : State := (s.setFront (s.front.seqFrom s.inHandler s.front.pc)).counted1

/-- The instruction at pc retires and control goes to `target`. -/
def State.jumpTo (s : State) (target : Word) : State := (s.setFront (s.front.jump s.inHandler target)).counted1

/-- Trap causes (05 Table 5.7). -/
inductive Cause where
  | illegalInstr
  | illegalOperand
  | misaligned
  | leaseViolation
  | permission
  | break_
  | detConflict
  | barrierOverrun
  | engineFault
  | checkMismatch
  | dataUncorrectable
  | loopNest
  | chainInvalid
  | watchdog
deriving DecidableEq, Repr

/-- Codes of Table 5.7. -/
def Cause.code (c : Cause) : Nat :=
  match c with
  | .illegalInstr => 0x01
  | .illegalOperand => 0x02
  | .misaligned => 0x03
  | .leaseViolation => 0x04
  | .permission => 0x05
  | .break_ => 0x06
  | .detConflict => 0x08
  | .barrierOverrun => 0x09
  | .engineFault => 0x0A
  | .checkMismatch => 0x0B
  | .dataUncorrectable => 0x0C
  | .loopNest => 0x0D
  | .chainInvalid => 0x0E
  | .watchdog => 0x10

/-- VLMAX in bytes (05 R92). -/
def Hart.vlmax (h : Hart) : Nat := h.parts.toNat * 98304 / h.vregs.toNat

/-- Seed of the recompute-check LFSR (08 R186). -/
def lfsrSeed (wid : Word) : BitVec 32 :=
  let x := BitVec.ofNat 32 (wid.toNat / 2 ^ 32) ^^^ BitVec.ofNat 32 wid.toNat ^^^ 0x9E3779B9
  if x = 0 then 1 else x

/-- Fields of a launch header (03 Table 3.8). -/
def hdrWidth (h : List Byte) (i : Nat) : Nat := fieldAt h (4 + i) 1
def hdrSum (h : List Byte) (k : Nat) : Nat := (List.range k).foldl (fun acc i => acc + hdrWidth h i) 0
def hdrBh (h : List Byte) : Nat := hdrSum h (fieldAt h 3 1 % 16)
def hdrBc (h : List Byte) : Nat := hdrSum h (fieldAt h 3 1 / 16)
def hdrHarts (h : List Byte) : Nat := fieldAt h 0x0A 1
def hdrSplit (h : List Byte) : Nat := fieldAt h 0x0B 1
def hdrParts (h : List Byte) : Nat := fieldAt h 0x0C 1
def hdrVregs (h : List Byte) : Nat := fieldAt h 0x0D 1
def hdrPrio (h : List Byte) : Nat := fieldAt h 0x0E 1
def hdrDet (h : List Byte) : Nat := fieldAt h 0x0F 1 % 4
def hdrPreempt (h : List Byte) : Bool := nbit (fieldAt h 0x0F 1) 2
def hdrTasks (h : List Byte) : Nat := fieldAt h 0x10 4
/-- Tasks of a group, at most (03 R61). -/
def hdrGroupSize (h : List Byte) : Nat := 2 ^ (hdrBc h - hdrBh h)
def hdrGroups (h : List Byte) : Nat := (hdrTasks h + hdrGroupSize h - 1) / hdrGroupSize h
/-- widf (05 Table 5.6). -/
def hdrWidf (h : List Byte) : Word :=
  BitVec.ofNat 64 ((List.range 6).foldl (fun acc i => acc + hdrWidth h i % 128 * 2 ^ (7 * i)) 0 + fieldAt h 3 1 % 16 % 8 * 2 ^ 42
    + fieldAt h 3 1 / 16 % 8 * 2 ^ 45 + fieldAt h 2 1 % 8 * 2 ^ 48)

/-- The advice context of a hart at its start in the round `now` (12 R251): none without a bound image. -/
def adviceStart (nd : Node) (budget now : Nat) : Advice :=
  if nd.advSize = 0 then Advice.reset
  else
    let f := { Front.reset with pc := nd.advText, regs := Store.set zeroOf [] 1 (BitVec.ofNat 64 (fieldAt nd.raw 0x28 8)) }
    { Advice.reset with status := .ready, front := f, wdog := budget, since := now, text := nd.advText, textSize := nd.advSize }

/-- Watchdog budget (12 Table 12.2): values below 0x100 act as 0x100. -/
def advBudget (s : State) : Nat := max 0x100 (mgmtGet s 0x50008).toNat

/-- A context in the state of task start (05 R94, R95; 02 R38; 18 R399, R400): task `t` of node `nd`, in the round `now`. -/
def Hart.startTask (h : Hart) (nd : Node) (t budget now : Nat) : Hart :=
  let wid : Word := BitVec.ofNat 64 (t * 2 ^ hdrBh nd.hdr)
  let vlmax := hdrParts nd.hdr * 98304 / hdrVregs nd.hdr
  let f := { Front.reset with pc := BitVec.ofNat 64 (fieldAt nd.raw 0x40 8 + 64), regs := Store.set zeroOf [] 1 (BitVec.ofNat 64 (fieldAt nd.raw 0x28 8)) }
  { h with status := .parked, wait := .none, since := now, parkedAt := now, node := nd.num, task := BitVec.ofNat 24 t, parts := BitVec.ofNat 4 (hdrParts nd.hdr),
           vregs := BitVec.ofNat 7 (hdrVregs nd.hdr), hsplit := BitVec.ofNat 4 (hdrSplit nd.hdr), prio := BitVec.ofNat 3 (hdrPrio nd.hdr),
           det := BitVec.ofNat 2 (hdrDet nd.hdr), wid := wid, widf := hdrWidf nd.hdr, front := f,
           vec := Vec.start (BitVec.ofNat 40 (2 ^ 20 + vlmax / 4)) (lfsrSeed wid), mat := Mat.start, dist := Dist.start,
           trap := ⟨0, 0, 0, 0, 0⟩, inj := ⟨0, [], none⟩, lane := 0, detm := ⟨[], [], false⟩, ctr := ⟨0, 0, 0, 0⟩, pmId := 0, pmOcc := 0, monitor := none,
           window := [], passed := 0, aged := false, adv := adviceStart nd budget now }

/-- INJ_VAL is loaded into tinject of the task that INJ_TGT names while ARM is set, when the task enters RUNNING (18 R399). -/
def injectArm (s : State) (h : Hart) : State × Hart :=
  let t := mgmtGet s 0x70008
  if t.getLsbD 32 && decide (t.toNat % 2 ^ 24 = h.task.toNat) then
    (mgmtPut s 0x70008 (t &&& ~~~(0x100000000 : Word)), { h with inj := ⟨mgmtGet s 0x70000, [], none⟩ })
  else (s, h)

/-- The next task of the current hart's group that has not started begins on its context (04 R81); none where no task is left. It goes on in the lane slot that
the context holds (DESIGN CHOICE, log 75). -/
def nextTask (s : State) (nd : Node) : Option State :=
  let h := s.hart
  let g := h.task.toNat / hdrGroupSize nd.hdr
  let nx := nd.nextTask.getD g 0
  if nx < min (hdrTasks nd.hdr) ((g + 1) * hdrGroupSize nd.hdr) then
    let r := injectArm (updNode s nd.num (fun x => { x with nextTask := x.nextTask.set g (nx + 1) })) (h.startTask nd nx (advBudget s) s.clock)
    some { r.1 with hart := { r.2 with status := h.status } }
  else none

/-- The current hart's task ends failed with a cause (03 R47, 18 R386, R389): the next task of its group begins on the context (04 R81), and the scheduler
stops the node's tasks, that one too; the node fails. -/
def failTask (s : State) (code : Nat) : State :=
  let h := s.hart
  match nodeOf s h.node with
  | none => { s with hart := h.finish .failed }
  | some nd =>
    let s1 := updNode s h.node (fun x => { x with failedTasks := x.failedTasks ++ [(h.task, BitVec.ofNat 8 code)] })
    failNode ((nextTask s1 nd).getD { s1 with hart := h.finish .failed }) h.node code

/-- tstatus at trap entry (18 R387): PWB := wbase, VEC as given, END as given, IH := 1. -/
def entryStatus (wbase : BitVec 8) (vec fin : Bool) : BitVec 16 :=
  BitVec.ofNat 16 (wbase.toNat * 256 + (if vec then 4 else 0) + (if fin then 2 else 0) + 1)

/-- Trap entry of a delivered cause (18 R387): the registers of step 3, then pc := tvec. The monitor is lost (16 R367). -/
def Hart.enterTrap (h : Hart) (code : Nat) (value tepc : Word) (vec fin : Bool) : Hart :=
  { h with trap := ⟨BitVec.ofNat 8 code, value, tepc, entryStatus h.front.wbase vec fin, h.trap.tvec⟩,
           front := { h.front with pc := h.trap.tvec }, monitor := none, wait := .none }

/-- Taking an exception on the current hart (18 R386 to R389). `tepc` is the address Table 18.1 gives. LEASE_VIOLATION and WATCHDOG end the task;
so does any cause while IH = 1, and any cause with tvec = 0, where the trap registers are written as at an entry (log 15). -/
def takeTrapAt (s : State) (c : Cause) (value tepc : Word) (vec : Bool) : State :=
  if c = .leaseViolation ∨ c = .watchdog ∨ s.hart.trap.tstatus.getLsbD 0 = true then failTask s c.code
  else
    let h := s.hart.enterTrap c.code value tepc vec (decide (c = .detConflict))
    if s.hart.trap.tvec = 0 then failTask { s with hart := { h with front := s.hart.front } } c.code
    else { s with hart := h }

/-- A trap on the instruction at pc. -/
def takeTrap (s : State) (c : Cause) (value : Word) : State := takeTrapAt s c value s.hart.front.pc false

/-- A trap on the fetch of a word: tepc and tval hold its address, also where no handler runs (06 R130, 10 R227; log 15). -/
def fetchTrap (s : State) (c : Cause) (va : Word) : State :=
  takeTrapAt { s with hart := { s.hart with trap := { s.hart.trap with tepc := va, tval := va } } } c va va false

/-- ERET (18 R390) of a hart in a handler whose END is 0: wbase := PWB, IH := 0, pc := tepc under R133. Loads
counted by an instruction that is not executed again are done with (R399). -/
def Hart.leaveTrap (h : Hart) : Hart :=
  let f := { h.front with wbase := BitVec.ofNat 8 (nbits h.trap.tstatus.toNat 8 8) }
  { h with inj := { h.inj with held := h.inj.held.filter (fun p => p.1 == h.trap.tepc) }, front := f.jump false h.trap.tepc, trap := { h.trap with tstatus := h.trap.tstatus &&& 0xFFFE } }

/-- What an access waits for before it can be made. -/
inductive Stall where
  /-- An engine transfer (15 R341), or another hart. -/
  | wait
  /-- Space in the egress buffer: the seal of an interval is requested (19 R409). -/
  | seal (n : W32)
  /-- Space in the version store of a die (19 R406). -/
  | space (die : Nat) (n : W32)
  /-- A line that is not stable: the request of an agent for a sector of it (11 R236). -/
  | line (die sector : Nat) (wr : Bool)
  /-- A sector of a line of host memory (11 R239). -/
  | host (die sector : Nat)
deriving DecidableEq, Repr

/-- What a stall leaves behind: a request that goes out; VS_STALL counts the cycles of a wait for space (19 R406). -/
def applyStall (s : State) (q : Stall) : State :=
  match q with
  | .wait => s
  | .seal n => requestSeal s n
  | .space die n => requestSeal (waitSpace s die) n
  | .line die sector wr => askLine s die sector wr
  | .host die sector => hostAsk s die sector

/-- How an instruction stops before its end: a trap; a stall, which leaves no effect but its request; a next state in which it has not retired (an
escalation); or a fault. -/
inductive Stop where
  | trap (c : Cause) (value : Word) (vec : Bool) (s : State)
  | stall (req : Stall)
  | halt (s : State)
  | fault (f : Fault)

/-- An instruction in steps that may stop. -/
abbrev X (α : Type) := StateT State (Except Stop) α

def xTrap {α : Type} (c : Cause) (value : Word) : X α := fun s => .error (.trap c value false s)

/-- A trap at a vector element (18 R387 VEC). -/
def xTrapVec {α : Type} (c : Cause) (value : Word) : X α := fun s => .error (.trap c value true s)

def xHalt {α : Type} (f : State → State) : X α := fun s => .error (.halt (f s))

def xFault {α : Type} (f : Fault) : X α := fun _ => .error (.fault f)

def xRead {α : Type} (f : State → α) : X α := fun s => .ok (f s, s)

def xMod (f : State → State) : X Unit := fun s => .ok ((), f s)

/-- Stop with a trap unless a condition holds. -/
def xNeed (c : Bool) (cause : Cause) (value : Word) : X Unit := if c then pure () else xTrap cause value

/-- A stall: the hart waits with pc unchanged until a transfer or line lets the instruction issue (15 R341, 11 R236). -/
def stallHart (s : State) : State := { s with hart := { s.hart with status := .waiting, wait := .retry } }

/-- What a stall leaves behind, with the one who waits (11 R236): `who` is a hart (true) or a transfer (false), by number. -/
def stallFor (s : State) (q : Stall) (who : Bool × Nat) : State :=
  match q with
  | .line die sector true => waitFor (applyStall s q) die sector who
  | _ => applyStall s q

def xStall {α : Type} : X α := fun _ => .error (.stall .wait)

/-- The outcome of an instruction of a hart. A stop by trap is taken on the state at the stop. -/
def runX (m : X Unit) (s : State) : Host.Outcome State Fault Refusal :=
  match m s with
  | .ok r => .next r.2
  | .error (.trap c v vec t) => .next (takeTrapAt t c v t.hart.front.pc vec)
  | .error (.stall q) => .next (stallHart (stallFor s q (true, s.hart.hid)))
  | .error (.halt t) => .next t
  | .error (.fault f) => .fault f

/-- The sequencer drops a word and counts it (05 R111, 12 R269); the context goes on at the next word. -/
def dropWord (s : State) : State :=
  let die := s.hart.lcore.toNat / 64
  ((mgmtAdd s (0x50108 + 0x40 * die) 1).setFront { s.front with pc := s.front.pc + 4 }).counted1

/-- An instruction that only a hart executes: the sequencer drops it, Ozsis has no such word. -/
def hartOnly (s : State) (m : State → Host.Outcome State Fault Refusal) : Host.Outcome State Fault Refusal :=
  match s.agent with
  | .hart => m s
  | .advice => .next (dropWord s)
  | .ozsis => .fault .ozsisWord

/-- An instruction that a hart and Ozsis execute and the sequencer drops. -/
def notAdvice (s : State) (m : State → Host.Outcome State Fault Refusal) : Host.Outcome State Fault Refusal :=
  match s.agent with
  | .advice => .next (dropWord s)
  | _ => m s

/-- ILLEGAL_INSTR with the word as tval (05 R110). -/
def illegalWord (s : State) (w : Nat) : Host.Outcome State Fault Refusal :=
  .next (takeTrap s .illegalInstr (BitVec.ofNat 64 w))

/-- An instruction that only the sequencer executes: on a hart ILLEGAL_INSTR (05 R110). -/
def adviceOnly (s : State) (w : Nat) (m : State → Host.Outcome State Fault Refusal) : Host.Outcome State Fault Refusal :=
  match s.agent with
  | .hart => illegalWord s w
  | .advice => m s
  | .ozsis => .fault .ozsisWord

/-- An operand that fails 05 R96, or another check, of a scalar instruction: a trap on a hart, a dropped word on the sequencer (R111), a fault on
Ozsis. -/
def scalarFail (s : State) (c : Cause) (value : Word) : Host.Outcome State Fault Refusal :=
  match s.agent with
  | .hart => .next (takeTrap s c value)
  | .advice => .next (dropWord s)
  | .ozsis => .fault .ozsisWord

/-- Die of the current hart (01 R14). -/
def State.die (s : State) : Nat := s.hart.lcore.toNat / 64

/-- A scratchpad sector has no physical address: in records of consumed poison it counts on behind the sectors of memory. -/
def spadSector (key : Nat) : Nat := 2 ^ 46 + key / 64

/-- Address that an error event gives for a sector: 0 where there is none (18 Table 18.3). -/
def sectorAddr (sector : Nat) : Word := if sector < 2 ^ 46 then BitVec.ofNat 64 (sector * 64) else 0

/-- Poison consumed by the current hart's access to a sector (18 R396): remembered for 19 R417, logged as class 7. -/
def consumePoison (s : State) (sector : Nat) : State :=
  escalate { s with unrec := s.unrec ++ [⟨sector, some s.hart.node, none⟩] } s.die 7 s.hart.lcore.toNat (sectorAddr sector)

/-- Every task of a deterministic node has arrived or ended, and one waits: the phase can merge (17 R373, R380). -/
def phaseFull (s : State) (num : Nat) : Bool :=
  let hs := (allHarts s).filter (fun h => decide (h.node = num) && h.alive)
  !hs.isEmpty && hs.all (fun h => h.detm.arrived) && !s.arrivals.any (fun h => decide (h.node = num))

/-- The task of the current hart ends successfully (06 R143): the next task of its group begins on the freed context (04 R81), else the context is
released; with the last task of the node it becomes DONE. -/
def endTask (s : State) : State :=
  let h := s.hart
  match nodeOf s h.node with
  | none => { s with hart := h.finish .ended }
  | some nd =>
    let s1 := updNode s nd.num (fun x => { x with endedTasks := x.endedTasks + 1 })
    match nextTask s1 nd with
    | some t => t
    | none =>
      let s2 := { s1 with hart := h.finish .ended }
      let s3 := if nd.endedTasks + 1 = hdrTasks nd.hdr then raiseEvents s2 [.nodeDone nd.num]
        else if phaseFull s2 nd.num then raiseEvents s2 [.detPhaseMerge nd.num] else s2
      wakeAdmission s3

end Sys2Proof.Machine
end

