-- ==== Sys2Proof/Machine/Raw.lean ====
section
/-! DEFINITION. Sys2Proof/Machine/Raw.lean: reads and writes of memory made for a task, after their checks and after the interlock: deterministic sources
and merge (17 R375 to R377), die copies of NC pages (11 R241), coherent lines, host memory and device registers through egress (16 R366). -/
namespace Sys2Proof.Machine

/-- For whom an access is made: a hart's own access or one of its engine transfers (15 R339). -/
structure Who where
  hid : Nat
  node : Nat
  task : Nat
  det : Nat
  lcore : BitVec 8
  /-- An instruction fetch: it reads current contents and no reader count (17 R375, 11 R248). -/
  fetch : Bool
  /-- Every byte is a write of its own, as in a copy (15 R335, R339). -/
  bytewise : Bool
deriving DecidableEq, Repr

def whoHart (h : Hart) : Who := ⟨h.hid, h.node, h.task.toNat, h.det.toNat, h.lcore, false, false⟩
def whoXfer (t : Transfer) : Who := ⟨t.hid, t.node, t.task.toNat, t.det.toNat, t.lcore, false, t.kind == .copy⟩
def Who.die (w : Who) : Nat := w.lcore.toNat / 64

/-- Sig(x) of 17 R381, of the virtual address of a byte of the sector. -/
def sigBit (va : Nat) : Nat :=
  let s := va / 64 % 2 ^ 50
  (((nbits s 0 11 ^^^ nbits s 11 11) ^^^ nbits s 22 11) ^^^ nbits s 33 11) ^^^ nbits s 44 6

/-- Note a read of a sector in strict mode (17 R381). -/
def noteRead (s : State) (w : Who) (va : Nat) : State :=
  if w.det = 2 ∧ w.fetch = false then updHart s w.hid (fun h => { h with detm := { h.detm with sigR := Store.set zeroOf h.detm.sigR (sigBit va) 1 } }) else s

/-- Note a store to a sector in strict mode: signature, and the exact list of R382. -/
def noteWrite (s : State) (w : Who) (va sector : Nat) : State :=
  if w.det = 2 then
    let s1 := updHart s w.hid (fun h => { h with detm := { h.detm with sigW := Store.set zeroOf h.detm.sigW (sigBit va) 1 } })
    updNode s1 w.node (fun x => { x with writes := if x.writes.contains (w.task, sector, va) then x.writes else x.writes ++ [(w.task, sector, va)] })
  else s

/-- Writer tag of a sector in the current phase (17 R376). -/
def writerTag (s : State) (node sector : Nat) : Option Nat :=
  match nodeOf s node with
  | none => none
  | some nd => (nd.tags.find? (fun t => decide (t.1 = sector))).map Prod.snd

def setTag (s : State) (node sector task : Nat) : State :=
  updNode s node (fun x => { x with tags := x.tags.filter (fun t => decide (t.1 ≠ sector)) ++ [(sector, task)] })

def snapEntry (s : State) (node sector : Nat) : Option VsEntry := s.vs.find? (fun e => decide (e.sector = sector) && e.snap == some node)
def privEntry (s : State) (node task sector : Nat) : Option VsEntry := s.vs.find? (fun e => decide (e.sector = sector) && e.priv == some (node, task))

/-- Source of a deterministic read (17 R376): the entry's data and poison, or none for the current contents. -/
def detSource (s : State) (w : Who) (sector : Nat) : Option VsEntry :=
  if writerTag s w.node sector = some w.task then none
  else match privEntry s w.node w.task sector with
    | some e => some e
    | none => snapEntry s w.node sector

/-- What an egress entry makes of the byte at an address. -/
def Egress.over (e : Egress) (pa : Nat) (b : Byte) : Byte :=
  let x := BitVec.ofNat 8 (e.data.toNat / 2 ^ (8 * (pa - e.pa.toNat)))
  match e.half with
  | none => x
  | some odd => putNibble odd x b

/-- A byte of host memory as a hart reads it: its own unreleased egress entries apply to it, the newest last (19 R412). -/
def hostByte (s : State) (hid pa : Nat) : Byte :=
  let es := s.egress.filter (fun e => e.hid == some hid && !e.add && decide (e.pa.toNat ≤ pa) && decide (pa < e.pa.toNat + 64) && e.mask.getLsbD (pa - e.pa.toNat))
  es.foldl (fun b e => e.over pa b) (Store.get memDefault s.mem pa)

def hostBytes (s : State) (hid pa n : Nat) : List Byte := (upFrom pa n).map (hostByte s hid)

/-- Die copy of an NC sector. -/
def ncOf (s : State) (die sector : Nat) : Option NcCopy := s.nc.find? (fun c => decide (c.die.toNat = die ∧ c.sector = sector))

def setNc (s : State) (die sector : Nat) (c : Option NcCopy) : State :=
  let rest := s.nc.filter (fun x => !(decide (x.die.toNat = die) && decide (x.sector = sector)))
  match c with
  | none => { s with nc := rest }
  | some x => { s with nc := rest ++ [x] }

/-- Runs of set bits of a byte mask as (offset, bytes) to write home. -/
def maskRuns (data : BitVec 512) (mask : BitVec 64) : List (Nat × Byte) :=
  ((List.range 64).filter (fun i => mask.getLsbD i)).map (fun i => (i, BitVec.ofNat 8 (data.toNat / 2 ^ (8 * i))))

/-- The undo entry of a sector's interval is that of writes by several agents (19 R408). -/
def markMixed (s : State) (sector : Nat) (tag : W32) : State :=
  { s with vs := updWhere (fun e => decide (e.sector = sector) && e.undo && e.tag == tag) (fun e => { e with mixed := true }) s.vs }

/-- Write-back of an NC copy (11 R241, R243): only bytes that its holder wrote, with their tag, which the home takes with them (19 R403). Poison travels, and the home's own stays unless one
instruction or transfer has written the whole sector (R244, 18 R395). -/
def ncWriteBack (s : State) (c : NcCopy) : State :=
  if c.dirty = 0 then s
  else
    let old := sectorData s c.sector
    let s0 := undoEntry s c.sector c.tag c.writer
    let s1 := if c.mixed then markMixed s0 c.sector c.tag else s0
    let d := (maskRuns c.data c.dirty).foldl (fun acc p => patch512 acc p.1 [p.2]) old
    let bad := c.poison || (poisonAt s (c.sector * 64) && !c.whole)
    let s2 := parityNote (putBytes (endCount s1 (c.sector / 4)) (c.sector * 64) (natBytes d.toNat 64) none) c.sector c.tag
    takeTag (homeDie (c.sector * 64)) (setPoison s2 c.sector bad) c.tag

/-- Write back a copy and keep it clean. -/
def ncClean (s : State) (die sector : Nat) : State :=
  match ncOf s die sector with
  | none => s
  | some c => setNc (ncWriteBack s c) die sector (some { c with dirty := 0, whole := false, mixed := false })

/-- The copy a die reads and writes: taken from home when it has none. -/
def ncFill (s : State) (die sector : Nat) : NcCopy :=
  (ncOf s die sector).getD ⟨BitVec.ofNat 2 die, sector, sectorData s sector, 0, 0, poisonAt s (sector * 64), none, false, false⟩

/-- An access goes to the die's own copy of an NC sector: the page is homed on another die, and the task is not deterministic (17 R375). -/
def ncAway (w : Who) (e : Word) (pa : Nat) : Bool := leafNC e && decide (w.det = 0) && decide (homeDie pa ≠ w.die)

/-- Set or clear the poison of the sector where an access of a task finds it: the die's copy or home. -/
def markPoison (s : State) (w : Who) (e : Word) (pa : Nat) (b : Bool) : State :=
  let mine : NcCopy → Bool := fun c => decide (c.die.toNat = w.die) && decide (c.sector = pa / 64)
  if ncAway w e pa then { s with nc := updWhere mine (fun c => { c with poison := b, whole := c.whole || !b }) s.nc }
  else setPoison s (pa / 64) b

/-- Bytes of management registers as a read of `n` bytes finds them (06 R127). -/
def mgmtBytes (s : State) (pa n : Nat) : List Byte :=
  let off := pa % 2 ^ 32
  ((List.range (n / 8 + 2)).flatMap (fun i => natBytes (mgmtRead s (off / 8 * 8 + 8 * i)).toNat 8)).drop (off % 8) |>.take n

/-- Reads of counted lines, one from the count of each (11 R248). A drop without room for its entries waits (19 R402, R406). -/
def takeReads (s : State) (lines : List Nat) (tag : W32) : Except Stall State :=
  match lines with
  | [] => .ok s
  | a :: r =>
    if dropFits s a tag then takeReads (countRead s a tag) r tag
    else .error (.space (homeDie (a * 256)) (rinOf s (homeDie (a * 256))))

/-- Ready a line at home for a read by a die (11 R235, R248): a counted line gives up one read, but not to a fetch; the lines of an NC page have no
directory entry (R241). -/
def homeRead (w : Who) (e : Word) (pa : Nat) (s : State) : Except Stall State :=
  if isCounted s (pa / 256) then (if w.fetch then .ok (receives s w.die (pa / 64)) else takeReads (receives s w.die (pa / 64)) [pa / 256] (rinOf s w.die))
  else if leafNC e then .ok (receives s w.die (pa / 64))
  else match cohFetch s w.die (pa / 64) with
    | some t => .ok t
    | none => .error (.line w.die (pa / 64) false)

/-- Read bytes of one sector for a task: the bytes and whether they are poisoned. A line that is not stable stalls (11 R236). Where the page is NC and the line is
counted, R248 has every read served at home and R241 a die's reads from its own valid copy: the model serves them from the copy, where the die holds one, and counts no
read then (DESIGN CHOICE, log 76). -/
def readPiece (w : Who) (va : Nat) (e : Word) (pa n : Nat) : X (List Byte × Bool) := fun s =>
  if leafMT e = 1 then
    .ok (if isMgmt pa then (mgmtBytes s pa n, false) else if isHost pa then (hostBytes s w.hid pa n, false) else (memBytes s pa n, poisonAt s pa), s)
  else if isHost pa then
    (if hostReady s w.die pa e then .ok ((hostBytes s w.hid pa n, false), fillSectors s w.die (pa / 256) (sectorBit (pa / 64)))
     else .error (.stall (.host w.die (pa / 64))))
  else
    let sec := pa / 64
    let s1 := noteRead s w va
    let src := if w.det = 0 ∨ w.fetch = true then none else detSource s w sec
    match src with
    | some x => .ok ((((natBytes x.data.toNat 64).drop (pa % 64)).take n, x.poison), s1)
    | none =>
      if ncAway w e pa && ((ncOf s1 w.die sec).isSome || !isCounted s (pa / 256)) then
        let c := ncFill s1 w.die sec
        .ok ((((natBytes c.data.toNat 64).drop (pa % 64)).take n, c.poison), setNc (receives s1 w.die sec) w.die sec (some c))
      else
        let here := (memBytes s1 pa n, poisonAt s1 pa)
        match homeRead w e pa s1 with
        | .ok s2 => .ok (here, s2)
        | .error q => .error (.stall q)

/-- Lines of counted entries that a run of reads has touched, each counted once (11 R248): counts were raised by `k` before the run. -/
def countOnce (k : Nat) (before : List Counted) (tag : W32) (s : State) : Except Stall State :=
  let hit := before.filter (fun c => s.counted.any (fun d => decide (d.line = c.line ∧ d.count ≠ c.count + k)))
  let f : Counted → Counted := fun d => match before.find? (fun c => decide (c.line = d.line)) with
    | some c => { d with count := c.count }
    | none => d
  takeReads { s with counted := s.counted.map f } (hit.map Counted.line) tag

/-- One read made in several pieces takes one from the count of each counted line it meets, and every piece sees the counted data (11 R248). -/
def xOnce {α : Type} (w : Who) (m : X α) : X α := fun s =>
  if s.counted.isEmpty then m s
  else
    let fix : State → (State → Except Stop (α × State)) → Except Stop (α × State) := fun t k =>
      match countOnce 1000000 s.counted (rinOf s w.die) t with
      | .ok u => k u
      | .error q => .error (.stall q)
    match m { s with counted := s.counted.map (fun c => { c with count := c.count + 1000000 }) } with
    | .ok r => fix r.2 (fun u => .ok (r.1, u))
    | .error (.trap c v vec t) => fix t (fun u => .error (.trap c v vec u))
    | .error (.halt t) => fix t (fun u => .error (.halt u))
    | .error e => .error e

/-- Entry that the first write of a phase to a sector makes: one entry is both undo and snapshot entry when it is the first of the interval as well
(17 R377, 19 R406). -/
def snapshotEntry (s : State) (node sector : Nat) (tag : W32) : State :=
  if (snapEntry s node sector).isSome then undoEntry s sector tag (some node)
  else if hasUndo s sector tag then
    let s := noteOther s sector tag (some node)
    vsFill { s with vs := s.vs ++ [⟨sector, sectorData s sector, poisonAt s (sector * 64), tag, false, false, some node, false, some node, none⟩] }
      (homeDie (sector * 64))
  else
    vsFill { s with vs := s.vs ++ [⟨sector, sectorData s sector, poisonAt s (sector * 64), tag, true, false, some node, false, some node, none⟩] }
      (homeDie (sector * 64))

/-- The restoring writes of a node's phase that wait: the first whose line is not stable, or whose undo entry finds no room, with `more` entries of each die for what
the same step writes besides (17 R382, 19 R402). -/
def rollWait (s : State) (node : Nat) (more : Nat → Nat) : Option Stall :=
  let es := s.vs.filter (fun e => e.snap == some node)
  let need : Nat → Nat := fun d => (es.filter (fun e => decide (homeDie (e.sector * 64) = d) && !hasUndo s e.sector (rinOf s d))).length + more d
  match (List.range 4).find? (fun d => !vsRoom s d (need d)) with
  | some d => some (.space d (rinOf s d))
  | none => (es.find? (fun e => (cohWrite s (homeDie (e.sector * 64)) (e.sector / 4) e.sector).isNone)).map
      (fun e => .line (homeDie (e.sector * 64)) e.sector true)

/-- Roll the current phase of a node back (17 R382 step 1): every sector with a snapshot entry is restored by a tagged write at its home, then the node's
entries are dropped. -/
def rollPhase (s : State) (node : Nat) : State :=
  let es := s.vs.filter (fun e => e.snap == some node)
  let s1 := es.foldl (fun t e =>
    let die := homeDie (e.sector * 64)
    let u := (cohWrite t die (e.sector / 4) e.sector).getD t
    setPoison (writeHome u (e.sector * 64) (natBytes e.data.toNat 64) (rinOf u die) (some node) none) e.sector e.poison) s
  updNode (dropDet s1 node) node (fun x => { x with tags := [], writes := [] })

/-- Entries a node holds on a die (17 R383), and its limit. -/
def detHeld (s : State) (node die : Nat) : Nat :=
  (s.vs.filter (fun e => decide (homeDie (e.sector * 64) = die) && (e.snap == some node || (e.priv.map Prod.fst) == some node))).length
def detLimit (s : State) (die : Nat) : Nat := max 0x10000 (mgmtGet s (0x60000 + 0x40 * die)).toNat

/-- A private entry written: replaced when it exists (17 R377). -/
def setPriv (s : State) (node task sector : Nat) (d : BitVec 512) (p : Bool) (tag : W32) : State :=
  match privEntry s node task sector with
  | some _ => { s with vs := updWhere (fun e => decide (e.sector = sector) && e.priv == some (node, task)) (fun e => { e with data := d, poison := p }) s.vs }
  | none => vsFill { s with vs := s.vs ++ [⟨sector, d, p, tag, false, false, some node, false, none, some (node, task)⟩] } (homeDie (sector * 64))

def dropPriv (s : State) (node task sector : Nat) : State :=
  { s with vs := s.vs.filter (fun e => !(decide (e.sector = sector) && e.priv == some (node, task))) }

/-- The deterministic merge of 17 R377 for a store of a task to bytes of one sector. -/
def detMerge (s : State) (w : Who) (pa : Nat) (bs : List Byte) : State :=
  let sec := pa / 64
  let tag := rinOf s w.die
  let s1 := snapshotEntry s w.node sec tag
  let whole := decide (64 ≤ bs.length)
  match writerTag s1 w.node sec with
  | none => setTag (writeHome s1 pa bs tag (some w.node) (some w.hid)) w.node sec w.task
  | some o =>
    if o = w.task then writeHome s1 pa bs tag (some w.node) (some w.hid)
    else
      let base := match privEntry s1 w.node w.task sec with
        | some e => (e.data, e.poison)
        | none => match snapEntry s1 w.node sec with
          | some e => (e.data, e.poison)
          | none => (sectorData s1 sec, poisonAt s1 pa)
      let d := patch512 base.1 (pa % 64) bs
      let p := base.2 && !whole
      if o < w.task then
        let s2 := setPriv s1 w.node o sec (sectorData s1 sec) (poisonAt s1 pa) tag
        let s3 := setPoison (writeHome s2 (sec * 64) (natBytes d.toNat 64) tag (some w.node) (some w.hid)) sec p
        dropPriv (setTag s3 w.node sec w.task) w.node w.task sec
      else
        mgmtAdd (setPriv s1 w.node w.task sec d p tag) (0x60010 + 0x40 * homeDie pa) (if w.bytewise then bs.length else 1)

/-- A node whose phase would need more entries than DET_LIMIT on a die is stopped, its transfers with it, and fails with cause 0x08 after its phase is
rolled back (17 R383). -/
def detOverLimit (s : State) (w : Who) : State :=
  failNode { rollPhase s w.node with transfers := s.transfers.filter (fun t => decide (t.node ≠ w.node)) } w.node 0x08

/-- The deterministic store of a task has been kept or has taken its sector over: its bytes stand at home (17 R377). -/
def storeKept (s : State) (w : Who) (sector : Nat) : Bool := decide (w.det = 0) || decide (writerTag s w.node sector = some w.task)

/-- The page of an address of a task, in its lease's address space. -/
def pageOf (s : State) (w : Who) (va : Nat) : BitVec 16 × Nat := (((nodeOf s w.node).map Node.asid).getD 0, va / 65536)

/-- Write bytes of one sector for a task. `plain` forces the plain path for VSTRC (17 R375 leaves it outside the merge). -/
def writePiece (w : Who) (plain : Bool) (va : Nat) (e : Word) (pa : Nat) (bs : List Byte) : X Unit := fun s0 =>
  if leafMT e = 1 ∨ isHost pa = true then
    if egFull s0 w.die 1 then .error (.stall (.seal (rinOf s0 w.die)))
    else .ok ((), egressPush s0 w.die (pageOf s0 w va) pa bs false (some w.hid) none)
  else
    let sec := pa / 64
    let home := homeDie pa
    let s := receives s0 w.die sec
    let tag := rinOf s w.die
    if vsFull s home then .error (.stall (.space home (rinOf s home)))
    else if w.det ≠ 0 ∧ plain = false then
      let s1 := noteWrite s w va sec
      match (if leafNC e then some s1 else cohWrite s1 w.die (pa / 256) sec) with
      | none => .error (.stall (.line w.die (pa / 64) true))
      | some s2 =>
        if vsRoom s home 2 then
          let s3 := detMerge s2 w pa bs
          if detHeld s3 w.node home > detLimit s home then
            (match rollWait s2 w.node (fun _ => 0) with
            | some q => .error (.stall q)
            | none => .error (.halt (detOverLimit s2 w)))
          else .ok ((), s3)
        else .error (.stall (.space home (rinOf s home)))
    else if ncAway w e pa then
      let s0 := endCount s (pa / 256)
      let s1 := match ncOf s0 w.die sec with
        | some c => if c.dirty ≠ 0 ∧ c.tag ≠ tag then ncClean s0 w.die sec else s0
        | none => s0
      let c := ncFill s1 w.die sec
      let m : BitVec 64 := BitVec.ofNat 64 ((2 ^ bs.length - 1) * 2 ^ (pa % 64))
      let whole := decide (64 ≤ bs.length)
      let c2 : NcCopy := ⟨c.die, sec, patch512 c.data (pa % 64) bs, c.dirty ||| m, tag, c.poison && !whole, some w.node,
        c.mixed || (c.dirty != 0 && c.writer != some w.node), c.whole || whole⟩
      .ok ((), vsFill (setNc s1 w.die sec (some c2)) home)
    else
      match (if leafNC e then some s else cohWrite s w.die (pa / 256) sec) with
      | none => .error (.stall (.line w.die (pa / 64) true))
      | some s2 => .ok ((), writeHome s2 pa bs tag (some w.node) (some w.hid))

/-- The byte that a packed store of a task updates: its own version of the sector (09 R192, 17 R375). -/
def ownByte (s : State) (w : Who) (pa : Nat) : Byte :=
  match (if w.det = 0 then none else detSource s w (pa / 64)) with
  | some x => BitVec.ofNat 8 (x.data.toNat / 2 ^ (8 * (pa % 64)))
  | none => Store.get memDefault s.mem pa

/-- A byte in which a packed store has replaced its lower four bits, its upper ones, or both (09 R192). -/
def putHalves (x : Option Byte × Option Byte) (b : Byte) : Byte :=
  let lo := x.1.elim b (fun v => putNibble false v b)
  x.2.elim lo (fun v => putNibble true v lo)

/-- A die's copy of an NC sector takes the bits that the die has written at home (09 R192). -/
def ncHalves (s : State) (die pa : Nat) (x : Option Byte × Option Byte) : State :=
  let put : BitVec 512 → BitVec 512 := fun d => patch512 d (pa % 64) [putHalves x (BitVec.ofNat 8 (d.toNat / 2 ^ (8 * (pa % 64))))]
  { s with nc := updWhere (fun c => decide (c.die.toNat = die ∧ c.sector = pa / 64)) (fun c => { c with data := put c.data }) s.nc }

/-- Egress entries of a packed store to one byte: whole, or four bits of it. -/
def halfEntry (s : State) (w : Who) (va pa : Nat) (x : Option Byte × Option Byte) : Egress :=
  let half : Option Bool := match x with
    | (some _, some _) => none
    | (none, some _) => some true
    | _ => some false
  let v : Byte := match x with
    | (none, some hi) => hi
    | _ => putHalves x 0
  { die := BitVec.ofNat 2 w.die, pa := BitVec.ofNat 52 pa, data := v.setWidth 512, mask := 1, half := half, add := false, tag := rinOf s w.die,
    asid := (pageOf s w va).1, vpn := (pageOf s w va).2, hid := some w.hid, node := none }

/-- A die's NC copy whose byte is dirty, or that holds writes of another interval, goes home before the die writes bits of that byte there (09 R192, 19 R403). -/
def ncBefore (s : State) (die pa : Nat) : State :=
  match ncOf s die (pa / 64) with
  | some c => if c.dirty.getLsbD (pa % 64) || (c.dirty != 0 && c.tag != rinOf s die) then ncClean s die (pa / 64) else s
  | none => s

/-- Write four bits of a byte, or both its halves, for a packed store of a task, as one update at the home of the byte (09 R192): on an NC page of another
die too, whose copy in the die, if any, takes them as well, a dirty byte having gone home first; in host memory when the egress entry is released. -/
def writeHalves (w : Who) (va : Nat) (e : Word) (pa : Nat) (x : Option Byte × Option Byte) : X Unit := fun s0 =>
  let s := if leafMT e = 1 ∨ isHost pa = true then s0 else receives s0 w.die (pa / 64)
  if leafMT e = 1 ∨ isHost pa = true then
    if egFull s w.die 1 then .error (.stall (.seal (rinOf s w.die)))
    else .ok ((), egressEnter s w.die [halfEntry s w va pa x])
  else if w.det ≠ 0 then writePiece w false va e pa [putHalves x (ownByte s w pa)] s
  else if vsFull s (homeDie pa) then .error (.stall (.space (homeDie pa) (rinOf s (homeDie pa))))
  else match (if leafNC e then some s else cohWrite s w.die (pa / 256) (pa / 64)) with
    | none => .error (.stall (.line w.die (pa / 64) true))
    | some t =>
      let t1 := if ncAway w e pa then ncHalves (ncBefore t w.die pa) w.die pa x else t
      .ok ((), writeHome t1 pa [putHalves x (Store.get memDefault t1.mem pa)] (rinOf s w.die) (some w.node) (some w.hid))

/-- The writes of one instruction, or of one step of an engine, carry one tag (19 R402): where data received among them raises the RIN of the die (R403), it is raised
before the first of them. -/
def oneTag {α : Type} (die : Nat) (m : X α) : X α := fun s =>
  let settle : State → Except Stop (α × State) → Except Stop (α × State) := fun t r => if rinOf t die = rinOf s die then r else m (takeTag die s (rinOf t die))
  match m s with
  | .ok r => settle r.2 (.ok r)
  | .error (.trap c v vec t) => settle t (.error (.trap c v vec t))
  | .error (.halt t) => settle t (.error (.halt t))
  | .error e => .error e

/-- Read `n` bytes at a virtual address through the node's kept translations; pages of the access are inside the lease. Result: bytes, and the sectors
among them that are poisoned. -/
def readVirt (w : Who) (fuel va n : Nat) : X (List Byte × List Nat) :=
  match fuel with
  | 0 => pure ([], [])
  | f + 1 =>
    if n = 0 then pure ([], [])
    else do
      let k := min n (64 - va % 64)
      let nd ← xRead (fun s => nodeOf s w.node)
      match nd.bind (fun x => nodePA x (BitVec.ofNat 64 va)) with
      | none => xTrap .permission (BitVec.ofNat 64 va)
      | some (pa, e) => do
        let r ← readPiece w va e pa k
        let rest ← readVirt w f (va + k) (n - k)
        pure (r.1 ++ rest.1, (if r.2 then [pa / 64] else []) ++ rest.2)

/-- Write bytes at a virtual address. -/
def writeVirt (w : Who) (plain : Bool) (l : List (Nat × List Byte)) : X Unit :=
  match l with
  | [] => pure ()
  | p :: rest => do
    let nd ← xRead (fun s => nodeOf s w.node)
    match nd.bind (fun x => nodePA x (BitVec.ofNat 64 p.1)) with
    | none => xTrap .permission (BitVec.ofNat 64 p.1)
    | some (pa, e) => do
      writePiece w plain p.1 e pa p.2
      writeVirt w plain rest

/-- Rights of a byte under a node's lease (04 R73, 03 R63): read, write, execute. -/
def rangeHas (r : LeaseRange) (va : Nat) : Bool := decide ((va + 2 ^ 64 - r.base.toNat) % 2 ^ 64 < r.len)
def grants (r : LeaseRange) (rd wr ex : Bool) : Bool := (!rd || r.rd) && (!wr || r.wr) && (!ex || r.ex)

/-- A byte is inside the lease with the rights needed: a byte that several ranges cover takes the union of their rights,
also where a declared range overlaps the argument block or the text, which 03 R62 makes read-only (DESIGN CHOICE, log 75). -/
def leaseByte (nd : Node) (va : Nat) (rd wr ex : Bool) : Bool :=
  let rs := nd.lease.filter (fun r => rangeHas r va)
  !rs.isEmpty && (!rd || rs.any (fun r => r.rd)) && (!wr || rs.any (fun r => r.wr)) && (!ex || rs.any (fun r => r.ex))

/-- The first byte from `va` on that a test refuses, of `n`: it is `va` itself or the end of a range of the lease, for only there does a byte lose what
the byte before it had. -/
def firstRefused (nd : Node) (va n : Nat) (ok : Nat → Bool) : Option Nat :=
  ((va :: nd.lease.map (fun r => va + (r.base.toNat + r.len + 2 ^ 64 - va % 2 ^ 64) % 2 ^ 64)).filter (fun a => decide (a < va + n) && !ok a)).min?

/-- First byte of an access that the lease does not allow. -/
def leaseFail (nd : Node) (va n : Nat) (rd wr ex : Bool) : Option Nat :=
  if nd.lease.any (fun r => grants r rd wr ex && rangeHas r va && decide ((va + 2 ^ 64 - r.base.toNat) % 2 ^ 64 + n ≤ r.len)) then none
  else firstRefused nd va n (fun a => leaseByte nd a rd wr ex)

def leafAllows (e : Word) (rd wr ex : Bool) : Bool := leafOk e && (!rd || leafRD e) && (!wr || leafW e) && (!ex || leafX e)

/-- Leaf of a byte as kept at the lease (04 R72). -/
def leafAt (nd : Node) (va : Nat) : Word := Store.get zeroOf nd.pages (va % 2 ^ 64 / 65536)

/-- First byte of an access whose leaf lacks a right. -/
def leafFail (nd : Node) (va n : Nat) (rd wr ex : Bool) : Option Nat :=
  let first := va / 65536
  let last := (va + n - 1) / 65536
  ((upFrom first (last + 1 - first)).find? (fun p => !leafAllows (leafAt nd (p * 65536)) rd wr ex)).map (fun p => max va (p * 65536))

/-- The two checks of 04 R73 on an access of `n` bytes (Table 4.3). -/
def checkAccess (s : State) (node va n : Nat) (rd wr ex : Bool) : Option (Cause × Word) :=
  match nodeOf s node with
  | none => some (.leaseViolation, BitVec.ofNat 64 va)
  | some nd =>
    if n = 0 then none
    else match leaseFail nd va n rd wr ex with
      | some a => some (.leaseViolation, BitVec.ofNat 64 a)
      | none => match leafFail nd va n rd wr ex with
        | some a => some (.permission, BitVec.ofNat 64 a)
        | none => none

end Sys2Proof.Machine
end

