-- ==== Sys2Proof/Machine/Transfers.lean ====
section
/-! DEFINITION. Sys2Proof/Machine/Transfers.lean: barrier objects (15 R343 to R345, R352) and the steps of engine transfers (15 R335, R336, R339), which the
interlock of a hart's later accesses runs to their end (R341). -/
namespace Sys2Proof.Machine

/-- Fields of a barrier object held as a number (15 Table 15.6). -/
def barAexp (o : Nat) : Nat := nbits o 0 12
def barApend (o : Nat) : Nat := nbits o 12 12
def barPhase (o : Nat) : Nat := nbits o 24 4
def barOvr (o : Nat) : Bool := nbit o 28
def barBexp (o : Nat) : Nat := nbits o 32 32
def barBpend (o : Nat) : Nat := nbits o 64 32
def barRzClear (o : Nat) : Bool := decide (nbits o 29 3 = 0 ∧ nbits o 96 32 = 0)

/-- Replace bits `lo` to `lo + n - 1` of a number. -/
def setBits (o lo n v : Nat) : Nat := o % 2 ^ lo + v % 2 ^ n * 2 ^ lo + o / 2 ^ (lo + n) * 2 ^ (lo + n)

/-- Complete(o) of 15 R345. -/
def barComplete (o : Nat) : Nat :=
  if barApend o = 0 ∧ barBpend o = 0 then
    setBits (setBits (setBits o 24 4 (barPhase o + 1)) 12 12 (barAexp o)) 64 32 (barBexp o)
  else o

/-- An engine counts k bytes (15 R352). -/
def barCount (o k : Nat) (err : Bool) : Nat :=
  let o1 := if err || decide (k > barBpend o) then setBits o 28 1 1 else o
  barComplete (setBits o1 64 32 (barBpend o - min k (barBpend o)))

/-- Write scratchpad bytes; a write of all 64 bytes of a sector clears its poison (18 R395). Waiters on objects there are told. -/
def writeSpad (s : State) (key : Nat) (bs : List Byte) : State :=
  let s1 := { s with spad := Store.write zeroOf s.spad key bs }
  let s2 := if 64 ≤ bs.length then { s1 with spadPoison := Store.set zeroOf s1.spadPoison (key / 64) 0 } else s1
  wakeWaiters s s2

def spadPoisonAt (s : State) (key : Nat) : Bool := decide (Store.get zeroOf s.spadPoison (key / 64) = 1)

/-- The barrier object of an operand for an agent: its 16 bytes, and whether the sector is poisoned (18 R396). -/
def barRead (s : State) (w : Who) (op : Word) : Option (Nat × Bool × Nat) :=
  if barSpad op then
    let k := spadKey w.lcore op.toNat
    some (bytesNat (Store.read zeroOf s.spad k 16), spadPoisonAt s k, 64 * spadSector k)
  else match (nodeOf s w.node).bind (fun nd => nodePA nd op) with
    | none => none
    | some (pa, _) => some (memNat s pa 16, poisonAt s pa, pa)

/-- The die of an agent receives the sector of a barrier object in memory that the agent reads (19 R403). -/
def barReceive (s : State) (w : Who) (op : Word) : State :=
  if barSpad op then s
  else match (nodeOf s w.node).bind (fun nd => nodePA nd op) with
    | none => s
    | some (pa, _) => receives s w.die (pa / 64)

/-- Write a barrier object: one single-copy atomic update at its home (15 R344), tagged like every write to device memory, with space reserved and the line
recalled first (19 R402, 11 R235). -/
def xBarPut (w : Who) (op : Word) (o : Nat) : X Unit := fun s =>
  if barSpad op then .ok ((), writeSpad s (spadKey w.lcore op.toNat) (natBytes o 16))
  else match (nodeOf s w.node).bind (fun nd => nodePA nd op) with
    | none => .ok ((), s)
    | some (pa, _) =>
      if vsFull s (homeDie pa) then .error (.stall (.space (homeDie pa) (rinOf s (homeDie pa))))
      else match cohWrite s (homeDie pa) (pa / 256) (pa / 64) with
        | none => .error (.stall (.line (homeDie pa) (pa / 64) true))
        | some s1 => .ok ((), writeHome s1 pa (natBytes o 16) (rinOf s w.die) (some w.node) (some w.hid))

/-- Poison consumed for a node by an agent of it that is no hart's instruction (18 R396, 19 R417). -/
def consumeFor (s : State) (w : Who) (sector unit : Nat) : State :=
  escalate { s with unrec := s.unrec ++ [⟨sector, some w.node, none⟩] } w.die 7 unit (sectorAddr sector)

/-- Count bytes of a transfer against its object (15 R352). -/
def xCount (w : Who) (op : Word) (k : Nat) (err : Bool) : X Unit := do
  xMod (fun s => barReceive s w op)
  let r ← xRead (fun s => barRead s w op)
  match r with
  | none => pure ()
  | some (o, bad, pa) => if bad then xHalt (fun s => consumeFor s w (pa / 64) (w.lcore.toNat / 4)) else xBarPut w op (barCount o k err)

/-- Fields of an XCOPY block (15 Table 15.2); strides are signed. -/
def cpLen (b : List Byte) (i : Nat) : Nat := fieldAt b (0x10 + 4 * i) 4
def cpSrc (b : List Byte) (i2 i1 i0 : Nat) : Nat :=
  wrapI 64 ((fieldAt b 0 8 : Int) + i2 * sval 64 (fieldAt b 0x28 8) + i1 * sval 64 (fieldAt b 0x20 8) + i0)
def cpDst (b : List Byte) (i2 i1 i0 : Nat) : Nat :=
  wrapI 64 ((fieldAt b 8 8 : Int) + i2 * sval 64 (fieldAt b 0x38 8) + i1 * sval 64 (fieldAt b 0x30 8) + i0)

/-- Read for a transfer from the scratchpad or memory: bytes and whether any source sector is poisoned; poison is carried, not consumed (15 R335). -/
def xferRead (w : Who) (sp : Bool) (a n : Nat) : X (List Byte × Bool) :=
  if sp then fun s =>
    let k := spadKey w.lcore a
    .ok ((Store.read zeroOf s.spad k n, (upFrom (k / 64) ((k + n - 1) / 64 + 1 - k / 64)).any (fun q => spadPoisonAt s (q * 64))), s)
  else do
    let r ← readVirt w (n / 64 + 2) a n
    pure (r.1, !r.2.isEmpty)

/-- What a transfer keeps of the sectors it writes (15 R335, 18 R395): those that took bytes of a poisoned source sector, and the bytes written so far of
those that were poisoned. -/
structure Marks where
  taint : List (Bool × Nat)
  cover : List ((Bool × Nat) × BitVec 64)

/-- A sector, poisoned before, in which bytes from offset `off` on have been written: what is covered of it, and is all of it? -/
def Marks.note (m : Marks) (q : Bool × Nat) (off n : Nat) : Marks × Bool :=
  let old := ((m.cover.find? (fun x => x.1 == q)).map Prod.snd).getD 0
  let new := old ||| BitVec.ofNat 64 ((2 ^ n - 1) * 2 ^ off)
  (⟨m.taint, m.cover.filter (fun x => x.1 != q) ++ [(q, new)]⟩, new == BitVec.allOnes 64)

/-- Poison of the sector that a transfer's write has reached, before the write and after it, with its marks. -/
def Marks.step (m : Marks) (q : Bool × Nat) (off n : Nat) (bad was : Bool) : Marks × Bool :=
  if bad then (⟨if m.taint.contains q then m.taint else m.taint ++ [q], m.cover⟩, true)
  else if m.taint.contains q then (m, true)
  else if was then
    let r := m.note q off n
    (r.1, !r.2)
  else (m, false)

/-- Poison of a task's copy of a sector: the die's copy of an NC sector, or home. -/
def copyPoison (s : State) (w : Who) (e : Word) (pa : Nat) : Bool :=
  if ncAway w e pa then (ncFill s w.die (pa / 64)).poison else poisonAt s pa

/-- Poison of the version of a sector that a task's write extends: its copy, or for a deterministic task what its own reads find (17 R376, R377). -/
def ownPoison (s : State) (w : Who) (e : Word) (pa : Nat) : Bool :=
  match (if w.det = 0 then none else detSource s w (pa / 64)) with
  | some x => x.poison
  | none => copyPoison s w e pa

/-- The write of a task leaves its version of a sector poisoned or not: where it was kept, the copy; where it was discarded, the private entry (17 R377). -/
def setOwnPoison (s : State) (w : Who) (e : Word) (pa : Nat) (b : Bool) : State :=
  if storeKept s w (pa / 64) then (if copyPoison s w e pa = b then s else markPoison s w e pa b)
  else { s with vs := updWhere (fun x => decide (x.sector = pa / 64) && x.priv == some (w.node, w.task)) (fun x => { x with poison := b }) s.vs }

/-- Write for a transfer to bytes of one sector; the poison of the version it writes follows its marks (15 R335). -/
def xferWrite (w : Who) (sp : Bool) (a : Nat) (bs : List Byte) (bad : Bool) (m : Marks) : X Marks :=
  if sp then fun s =>
    let k := spadKey w.lcore a
    let r := m.step (true, k / 64) (k % 64) bs.length bad (spadPoisonAt s k)
    let s1 := writeSpad s k bs
    .ok (r.1, { s1 with spadPoison := Store.set zeroOf s1.spadPoison (k / 64) (if r.2 then 1 else 0) })
  else do
    let at_ ← xRead (fun s => ((nodeOf s w.node).bind (fun x => nodePA x (BitVec.ofNat 64 a))).filter (fun p => isDeviceMem p.1))
    let was ← xRead (fun s => at_.elim false (fun p => ownPoison s w p.2 p.1))
    writeVirt w false [(a, bs)]
    match at_ with
    | none => pure m
    | some (pa, e) => do
      let r := m.step (false, pa / 64) (pa % 64) bs.length bad was
      xMod (fun s => setOwnPoison s w e pa r.2)
      pure r.1

/-- Move `k` bytes within runs, in pieces that lie in one destination sector: byte `i` of the pattern goes from `src i` to `dst i`, and `run i` bytes from
there on are contiguous in both. -/
def moveBytes (w : Who) (ssp dsp : Bool) (src dst run : Nat → Nat) (fuel i k : Nat) (m : Marks) : X Marks :=
  match fuel with
  | 0 => pure m
  | f + 1 =>
    if k = 0 then pure m
    else do
      let n := min (min (run i) (64 - dst i % 64)) k
      let r ← xferRead w ssp (src i) n
      let m1 ← xferWrite w dsp (dst i) r.1 r.2 m
      moveBytes w ssp dsp src dst run f (i + n) (k - n) m1

/-- Bytes `from_` on of a copy, at most `k`, in the loop order of 15 R335. -/
def copyStep (w : Who) (b : List Byte) (from_ k : Nat) (m : Marks) : X Marks :=
  let l0 := cpLen b 0
  let l1 := cpLen b 1
  let fl := fieldAt b 0x1C 4
  let at_ : (Nat → Nat → Nat → Nat) → Nat → Nat := fun f i => f (i / l0 / l1) (i / l0 % l1) (i % l0)
  moveBytes w (nbit fl 0) (nbit fl 1) (at_ (cpSrc b)) (at_ (cpDst b)) (fun i => l0 - i % l0) k from_ k m

/-- Write zero bytes at an element of a gather whose index is out of range. -/
def zeroBytes (w : Who) (dsp : Bool) (l : List (Nat × List Byte)) (m : Marks) : X Marks :=
  match l with
  | [] => pure m
  | p :: rest => do
    let m1 ← xferWrite w dsp p.1 p.2 false m
    zeroBytes w dsp rest m1

/-- Elements `i` on of a gather or scatter (15 R336), `n` of them: marks and whether an index was out of range. A poisoned index is consumed. -/
def gatherStep (w : Who) (b : List Byte) (n i : Nat) (m : Marks) : X (Marks × Bool) :=
  match n with
  | 0 => pure (m, false)
  | n' + 1 => do
    let fl := fieldAt b 0x24 4
    let es := fieldAt b 0x1C 4
    let ix ← xOnce w (readVirt w 3 ((fieldAt b 0x10 8 + 4 * i) % 2 ^ 64) 4)
    match ix.2 with
    | sec :: _ => xHalt (fun s => consumeFor s w sec (w.lcore.toNat / 4))
    | [] => do
      let j := bytesNat ix.1
      let ok := decide (j < fieldAt b 0x20 4)
      let tab := (fieldAt b 0 8 + j * es) % 2 ^ 64
      let lst := (fieldAt b 8 8 + i * es) % 2 ^ 64
      let move := fun (ssp dsp : Bool) (from_ to_ : Nat) =>
        xOnce w (moveBytes w ssp dsp (fun k => from_ + k) (fun k => to_ + k) (fun k => es - k) es 0 es m)
      let m1 ← (if nbit fl 2 then (if ok then move (nbit fl 1) (nbit fl 0) lst tab else pure m)
        else if ok then move (nbit fl 0) (nbit fl 1) tab lst
        else zeroBytes w (nbit fl 1) (pieces64 lst (List.replicate es 0)) m)
      let rest ← gatherStep w b n' (i + 1) m1
      pure (rest.1, !ok || rest.2)

/-- Bytes of a transfer moved so far, and its marks. -/
def markDone (s : State) (num done : Nat) (m : Marks) : State :=
  let f : Transfer → Transfer := fun x => { x with done := done, taint := m.taint, cover := m.cover }
  { s with transfers := updWhere (fun x => decide (x.num = num)) f s.transfers }

/-- Bytes of a transfer's next step (15 R339): at most 65,536; to host memory no more than half of the egress buffer can hold if every byte takes an
entry of its own. -/
def stepBytes (s : State) (t : Transfer) : Nat :=
  let host := match nodeOf s t.node with
    | none => false
    | some nd => t.extents.any (fun e => e.wr && !e.spad
        && (upFrom (e.lo / 65536) (e.hi / 65536 + 1 - e.lo / 65536)).any (fun p => isHost (leafPA (Store.get zeroOf nd.pages p))))
  if host then 16384 else 65536

/-- Write destination bytes of a matched collective from address `a` on, sector by sector. -/
def xResult (w : Who) (fuel a : Nat) (l : List (Byte × Bool)) (m : Marks) : X Marks :=
  match fuel with
  | 0 => pure m
  | f + 1 =>
    if l.isEmpty then pure m
    else do
      let n := 64 - a % 64
      let m1 ← xferWrite w false (a % 2 ^ 64) ((l.take n).map Prod.fst) ((l.take n).any Prod.snd) m
      xResult w f (a + n) (l.drop n) m1

/-- One counting step of a transfer, performed and then counted (15 R339). A collective moves once it is matched; one that has ended without data only
counts (R338). -/
def xferMove (t : Transfer) : X Unit := do
  let w := whoXfer t
  let lim ← xRead (fun s => stepBytes s t)
  let m : Marks := ⟨t.taint, t.cover⟩
  match t.kind with
  | .copy => do
    let k := min lim (t.total - t.done)
    let m1 ← xOnce w (copyStep w t.block t.done k m)
    xMod (fun s => markDone s t.num (t.done + k) m1)
    xCount w t.bar k false
  | .gather => do
    let es := fieldAt t.block 0x1C 4
    let n := min (lim / es) ((t.total - t.done) / es)
    let r ← gatherStep w t.block n (t.done / es) m
    xMod (fun s => markDone s t.num (t.done + n * es) r.1)
    xCount w t.bar (n * es) r.2
  | .coll => do
    let k := min lim (t.total - t.done)
    if t.matched then do
      let m1 ← xResult w (k / 64 + 2) (fieldAt t.block 8 8 + t.done) ((t.result.drop t.done).take k) m
      xMod (fun s => markDone s t.num (t.done + k) m1)
      xCount w t.bar k t.err
    else xStall

/-- The step's writes carry one tag (19 R402). -/
def xferStep (t : Transfer) : X Unit := oneTag (whoXfer t).die (xferMove t)

/-- Events of one transfer. -/
def isXferEvent (x : Nat) (i : Instr) : Bool :=
  match i with
  | .engineCount y => decide (y = x)
  | .transferRetire y => decide (y = x)
  | .collMatch y => decide (y = x)
  | .collTimeout y => decide (y = x)
  | _ => false

/-- The last transfer of a node whose tasks have all ended has retired: the node is DONE (03 Table 3.3). -/
def nodeTransfersOver (s : State) (node : Nat) : State :=
  match nodeOf s node with
  | none => s
  | some nd =>
    if nd.state = .running ∧ nd.endedTasks = hdrTasks nd.hdr ∧ (s.transfers.any (fun t => decide (t.node = node))) = false then raiseOnce s (.nodeDone node) else s

/-- Unmatched collectives are looked at again (15 R338). -/
def nextColl (s : State) : State :=
  ((s.transfers.filter (fun t => t.kind == .coll && !t.matched)).map (fun t => Instr.collMatch t.num)).foldl raiseOnce s

/-- A transfer retires when its last byte is counted (15 R339): its interlock entries are freed, its hart's stalled instruction may issue, and an
invalidation that waited for it goes on (04 R87). -/
def retireXfer (s : State) (t : Transfer) : State :=
  let s1 := { s with transfers := s.transfers.filter (fun x => decide (x.num ≠ t.num)), pending := s.pending.filter (fun i => !isXferEvent t.num i) }
  nodeTransfersOver (invalGoesOn (nextColl s1)) t.node

/-- The engine that serves a transfer (15 Table 15.1): copy and gather engines of a logical cluster, the collective engine of a die. -/
def sameEngine (a b : Transfer) : Bool :=
  a.kind == b.kind && (if a.kind == .coll then decide (a.lcore.toNat / 64 = b.lcore.toNat / 64) else decide (a.lcore.toNat / 4 = b.lcore.toNat / 4))

/-- It is the oldest command of its hart on its engine, which serves those in order (15 R332). -/
def firstOfHart (s : State) (t : Transfer) : Bool := !s.transfers.any (fun x => sameEngine x t && decide (x.hid = t.hid ∧ x.num < t.num))

/-- The key of 05 R101 by which an engine serves its harts (15 R332): the age of the command counts from the round in which it entered the front end. Harts
of several cores with all else equal go by their logical core before their hartid (DESIGN CHOICE, log 7); a task that has ended leaves its node's priority. -/
def xferKey (s : State) (t : Transfer) : List Nat :=
  let age := s.clock - t.entered
  match hartOf s t.hid with
  | some h => h.key age
  | none => [((nodeOf s t.node).map (fun n => hdrPrio n.hdr)).getD 0, 0, 0, 0, age, 0]

/-- The best ranked of a list, the first of equal ones. -/
def bestXfer (f : Transfer → List Nat) (l : List Transfer) : Option Transfer :=
  match l with
  | [] => none
  | a :: r => match bestXfer f r with
    | none => some a
    | some b => if ranksAbove (f b) (f a) then some b else some a

/-- The command that an engine serves now: of those that can move on. -/
def engineHead (s : State) (t : Transfer) : Option Transfer :=
  bestXfer (xferKey s) (s.transfers.filter (fun x => sameEngine x t && firstOfHart s x && (x.kind != .coll || x.matched)))

/-- Run the engine of a transfer until that one has retired. -/
def xferRun (num fuel : Nat) : X Unit :=
  match fuel with
  | 0 => xStall
  | f + 1 => do
    let t ← xRead (fun s => s.transfers.find? (fun x => decide (x.num = num)))
    match t with
    | none => pure ()
    | some t => do
      let h ← xRead (fun s => engineHead s t)
      match h with
      | none => xStall
      | some h => do
        if h.done < h.total then xferStep h else xMod (fun s => retireXfer s h)
        xferRun num f

/-- Steps that the transfers in flight can take, at most. -/
def xferFuel (s : State) : Nat := (s.transfers.map (fun t => t.total / 8192 + 4)).sum

/-- Wait for transfers: each runs to its end behind the commands that its engine serves before it; an unmatched collective stalls. -/
def xferWait (l : List Transfer) : X Unit :=
  match l with
  | [] => pure ()
  | t :: rest => do
    let n ← xRead xferFuel
    xferRun t.num n
    xferWait rest

/-- Does an access conflict with a transfer (15 R341): a read with a destination extent, a write with any extent? -/
def extentHit (e : Extent) (sp : Bool) (lo n : Nat) (wr : Bool) : Bool :=
  decide (e.spad = sp) && (wr || e.wr) && decide (lo ≤ e.hi ∧ e.lo < lo + n)

def xferHit (t : Transfer) (sp : Bool) (lo n : Nat) (wr : Bool) : Bool := t.extents.any (fun e => extentHit e sp lo n wr)

/-- The interlock of 15 R341: an access of the hart that overlaps one of its transfers waits until that transfer has retired. -/
def interlock (w : Who) (sp : Bool) (lo n : Nat) (wr : Bool) : X Unit := do
  let l ← xRead (fun s => s.transfers.filter (fun t => decide (t.hid = w.hid) && xferHit t sp lo n wr))
  xferWait l

/-- Wait for every transfer of a hart (16 R365: a fence whose earlier class is vector). -/
def xferWaitAll (hid : Nat) : X Unit := do
  let l ← xRead (fun s => s.transfers.filter (fun t => decide (t.hid = hid)))
  xferWait l

end Sys2Proof.Machine
end

