-- ==== Sys2Proof/Machine/Access.lean ====
section
/-! DEFINITION. Sys2Proof/Machine/Access.lean: accesses of the current hart's instructions: the checks of 04 R73, the interlock of 15 R341, consumed poison
(18 R396), injected faults (18 R399), and the private memory of Ozsis (22 R443). -/
namespace Sys2Proof.Machine

/-- The current hart as the one for whom an access is made. -/
def State.who (s : State) : Who := whoHart s.hart

/-- The checks of 04 R73 on an access of the current hart; a failing one traps. -/
def xCheck (va n : Nat) (rd wr ex : Bool) : X Unit := fun s =>
  match checkAccess s s.hart.node va n rd wr ex with
  | some (c, v) => .error (.trap c v false s)
  | none => .ok ((), s)

/-- KIND, COUNT and AT of tinject (18 Table 18.5). -/
def injKind (t : Word) : Nat := nbits t.toNat 60 4
def injCount (t : Word) : Nat := nbits t.toNat 58 2
def injAt (t : Word) : Nat := nbits t.toNat 0 48

/-- `n` events of a kind happen (18 R399): does the armed fault fall on one of them? If so, KIND becomes 0. -/
def injectEvents (h : Hart) (kind n : Nat) : Bool × Hart :=
  if injKind h.inj.tinject ≠ kind then (false, h)
  else
    let c := (Store.get zeroOf h.inj.counts kind).toNat
    if c ≤ injAt h.inj.tinject ∧ injAt h.inj.tinject < c + n then
      (true, { h with inj := { h.inj with tinject := h.inj.tinject &&& 0x0FFFFFFFFFFFFFFF } })
    else (false, { h with inj := { h.inj with counts := Store.set zeroOf h.inj.counts kind (BitVec.ofNat 64 (c + n)) } })

/-- The loads of the current instruction, `n` of them, are events of KIND 4 (18 R399): the number of the first. They are counted once, where the instruction
executes first: one that has trapped keeps its numbers when it is executed again after its handler. -/
def xLoadNo (n : Nat) : X Nat := fun s =>
  let h := s.hart
  let c := (Store.get zeroOf h.inj.counts 4).toNat
  if injKind h.inj.tinject ≠ 4 ∨ n = 0 then .ok (0, s)
  else match (if h.trap.tstatus.getLsbD 0 then none else h.inj.held.filter (fun p => p.1 == h.front.pc)) with
    | some p => .ok (p.2, s)
    | none => .ok (c, { s with hart := { h with inj := { h.inj with
        counts := Store.set zeroOf h.inj.counts 4 (BitVec.ofNat 64 (c + n)),
        held := if h.trap.tstatus.getLsbD 0 then h.inj.held else some (h.front.pc, c) } } })

/-- Load `no` of the hart, whose lowest active element lies at `va` and has passed its checks: the armed poison of KIND 4 falls on that element's sector when it is
event AT (18 R399, R418). The load consumes it and no sector is marked. -/
def xLoadEvent (no va : Nat) : X Unit := fun s =>
  if injKind s.hart.inj.tinject = 4 ∧ injAt s.hart.inj.tinject = no then
    let s1 := { s with hart := { s.hart with inj := { s.hart.inj with tinject := s.hart.inj.tinject &&& 0x0FFFFFFFFFFFFFFF } } }
    let pa := match (nodeOf s s.hart.node).bind (fun nd => nodePA nd (BitVec.ofNat 64 va)) with
      | some (pa, _) => pa
      | none => 0
    .error (.halt (escalate s1 s.die 7 s.hart.lcore.toNat (BitVec.ofNat 64 pa)))
  else .ok ((), s)

/-- An instruction with loads completes: its numbers are done with (18 R399). -/
def State.loadDone (s : State) : State :=
  if decide (injKind s.hart.inj.tinject ≠ 4) || s.hart.trap.tstatus.getLsbD 0 then s else { s with hart := { s.hart with inj := { s.hart.inj with held := none } } }

/-- Read bytes for an instruction that consumes poison (18 R396). -/
def xReadBytes (va n : Nat) : X (List Byte) := do
  let w ← xRead State.who
  let r ← xOnce w (readVirt w (n / 64 + 2) va n)
  match r.2 with
  | [] => pure r.1
  | sec :: _ => xHalt (fun s => consumePoison s sec)

/-- A load of `n` bytes: checks, interlock, bytes. -/
def xLoad (va n : Nat) : X (List Byte) := do
  xCheck va n true false false
  let w ← xRead State.who
  interlock w false va n false
  xReadBytes va n

/-- Write bytes that have passed their checks. -/
def xWriteBytes (plain : Bool) (va : Nat) (bs : List Byte) : X Unit := do
  let w ← xRead State.who
  writeVirt w plain (pieces64 va bs)

/-- A store: checks, interlock, bytes. -/
def xStore (va : Nat) (bs : List Byte) : X Unit := do
  xCheck va bs.length false true false
  let w ← xRead State.who
  interlock w false va bs.length true
  xWriteBytes false va bs

/-- An instruction fetch of one word (06 R130, 04 R73): a failing check traps with the word's address; poison is consumed. A fetch reads current contents
(17 R375). -/
def xFetch (va : Nat) : X Nat := do
  let bad ← xRead (fun s => checkAccess s s.hart.node va 4 false false true)
  match bad with
  | some (c, _) => xTrap c (BitVec.ofNat 64 va)
  | none => do
    let w ← xRead State.who
    let r ← readVirt { w with fetch := true } 3 va 4
    match r.2 with
    | [] => pure (bytesNat r.1)
    | sec :: _ => xHalt (fun s => consumePoison s sec)

/-- Leaf of an address of the current hart as kept at the lease. -/
def xLeaf (va : Nat) : X Word := xRead (fun s =>
  match nodeOf s s.hart.node with
  | some nd => leafAt nd va
  | none => 0)

/-- The current hart's instruction retires. -/
def xRetire : X Unit := xMod State.retire

/-- A load retires. -/
def xRetireLoad : X Unit := xMod (fun s => s.loadDone.retire)

/-- Write S[n] of the current hart. -/
def xSetS (n : Nat) (v : Word) : X Unit := xMod (fun s => s.setSreg n v)

def xS (n : Nat) : X Word := xRead (fun s => s.sreg n)

/-- Change the vector side of the current hart. -/
def State.modVec (s : State) (f : Vec → Vec) : State := { s with hart := { s.hart with vec := f s.hart.vec } }
def State.modMat (s : State) (f : Mat → Mat) : State := { s with hart := { s.hart with mat := f s.hart.mat } }
def State.modDist (s : State) (f : Dist → Dist) : State := { s with hart := { s.hart with dist := f s.hart.dist } }

/-- Ozsis private memory is 512 KiB (22 R443). -/
def ozInside (a n : Nat) : Bool := decide (a + n ≤ 0x80000)
def ozRead (s : State) (a n : Nat) : List Byte := Store.read zeroOf s.oz.mem a n
def ozWrite (s : State) (a : Nat) (bs : List Byte) : State := { s with oz := { s.oz with mem := Store.write zeroOf s.oz.mem a bs } }

end Sys2Proof.Machine
end

