-- ==== Sys2Proof/Machine/Operands.lean ====
section
/-! DEFINITION. Sys2Proof/Machine/Operands.lean: operand fields (05 R96, R108), words of formats for tval, and the lane slots of a core (05 R101 to R104). -/
namespace Sys2Proof.Machine

/-- A 7-bit field that names a scalar register. -/
def isS (f : BitVec 7) : Bool := decide (f.toNat < 64)

/-- A 7-bit field that names a vector register below vregs. -/
def isV (h : Hart) (f : BitVec 7) : Bool := decide (64 ≤ f.toNat ∧ f.toNat - 64 < h.vregs.toNat)

/-- Number of the vector register. -/
def vnum (f : BitVec 7) : Nat := f.toNat - 64

/-- A 7-bit field that names an m, t, d or q register: bits 6 to 4 zero (05 R96). -/
def isX (f : BitVec 7) : Bool := decide (f.toNat < 16)

/-- A field that names one of the hart's tile registers t0 to t(2 parts - 1) (05 R92). -/
def isT (h : Hart) (n : Nat) : Bool := decide (n < 2 * h.parts.toNat)

/-- CheckOperands() of an instruction of a hart (05 R115): ILLEGAL_OPERAND with tval 0. -/
def xOperands (ok : Bool) : X Unit := xNeed ok .illegalOperand 0

/-- SExt of an 11-bit, an 18-bit and a 25-bit immediate. -/
def imm11 (i : BitVec 11) : Word := i.signExtend 64
def imm18 (i : BitVec 18) : Word := i.signExtend 64
def imm25 (i : BitVec 25) : Word := i.signExtend 64

/-- Words of formats F3 and FS (05 Table 5.3). -/
def wordF3 (op d a b fn : Nat) : Nat := op * 2 ^ 25 + d * 2 ^ 18 + a * 2 ^ 11 + b * 2 ^ 4 + fn
def wordFS (op d c fn : Nat) : Nat := op * 2 ^ 25 + d * 2 ^ 18 + c * 2 ^ 6 + fn

/-- Key of a hart for a lane slot, in the round `now`: its age counts from the round in which it became ready to run (05 R101). -/
def rankKey (now : Nat) (h : Hart) : List Nat := h.key (now - h.since)

/-- The best ranked of a list. -/
def bestOf (now : Nat) (l : List Hart) : Option Hart :=
  match l with
  | [] => none
  | h :: r => match bestOf now r with
    | none => some h
    | some g => if ranksAbove (rankKey now g) (rankKey now h) then some g else some h

/-- Two harts on one physical core. -/
def sameCore (a b : Hart) : Bool := decide (a.lcore.toNat / 64 = b.lcore.toNat / 64 ∧ a.pcore = b.pcore)

/-- Harts ready for a lane slot: parked with no wait left. -/
def Hart.readyParked (h : Hart) : Bool := h.status == .parked && h.wait == .none && !h.out

/-- A hart that holds a lane slot (05 R90): it runs, or the instruction at its pc has not issued yet. -/
def Hart.holdsSlot (h : Hart) : Bool := h.status == .running || h.wait == .retry

/-- Give free lane slots of the core of `c` to parked harts that are ready, best ranked first (05 R91, R103, R104). -/
def fillSlots (s : State) (c : Hart) (fuel : Nat) : State :=
  match fuel with
  | 0 => s
  | f + 1 =>
    let here := (allHarts s).filter (sameCore c)
    let used := (here.filter Hart.holdsSlot).length
    if used < c.slots.toNat then
      match bestOf s.clock (here.filter Hart.readyParked) with
      | none => s
      | some h => fillSlots (updHart s h.hid (fun x => { x with status := .running, passed := 0, aged := false, since := s.clock })) c f
    else s

/-- The current hart gives up its lane slot (05 R103, R104): it is parked or waits. Its instructions run whole, so nothing of it is queued. -/
def dropSlot (s : State) (st : HartStatus) (wt : Wait) : State :=
  let s1 := { s with hart := { s.hart with status := st, wait := wt, since := s.clock, parkedAt := s.clock } }
  fillSlots s1 s.hart 8

/-- A wait of a hart ends: it is parked and ready, and takes a slot if it can. -/
def endWait (s : State) (h : Nat) : State :=
  match hartOf s h with
  | none => s
  | some x => fillSlots (updHart s h (fun y => { y with status := .parked, wait := .none, window := [], since := s.clock })) x 8

/-- The instruction at pc of a hart that waited for it retires (05 R98). -/
def Hart.retireHere (h : Hart) (free now : Nat) : Hart :=
  { h.served free now with front := h.front.seqFrom (h.trap.tstatus.getLsbD 0) h.front.pc }

/-- A wait ends with the retirement of the instruction that waited; `f` writes its results. -/
def endWaitRetire (s : State) (h : Nat) (f : Hart → Hart) : State :=
  bumpFree (endWait (updHart s h (fun x => (f x).retireHere s.free s.clock)) h)

/-- The current instruction has issued and waits in the replay queue; pc stays at it until it retires (05 R98). -/
def pushWindow (s : State) (word : Nat) (a b : Word) : State :=
  { s with hart := { s.hart with window := s.hart.window ++ [⟨BitVec.ofNat 32 word, s.hart.front.pc, a, b⟩] } }

/-- Wait for every transfer of the current hart without its slot (19 R420, 17 R380): the instruction, whose operands have been checked, stands in the replay
queue meanwhile (05 R98). -/
def xferPark (word : Nat) : X Unit := fun s =>
  match xferWaitAll s.hart.hid s with
  | .error (.stall q) => .error (.halt (dropSlot (pushWindow (applyStall s q) word 0 0) .waiting .xfers))
  | r => r

/-- Harts that waited so and whose transfers have retired are ready, and their instruction goes on. -/
def releaseXfers (s : State) : State :=
  ((allHarts s).filter (fun h => h.wait == .xfers && !h.out && !s.transfers.any (fun t => decide (t.hid = h.hid)))).foldl (fun t h => endWait t h.hid) s

/-- Make a hart the current one. -/
def focus (s : State) (h : Nat) : State :=
  if s.hart.hid = h then { s with agent := .hart }
  else match s.others.find? (fun x => decide (x.hid = h)) with
    | none => s
    | some x =>
      let rest := s.others.filter (fun y => decide (y.hid ≠ h))
      { s with agent := .hart, hart := x, others := if s.hart.status = .absent then rest else s.hart :: rest }

end Sys2Proof.Machine
end

