-- ==== Sys2Proof/Machine/Advice.lean ====
section
/-! DEFINITION. Sys2Proof/Machine/Advice.lean: the advice instructions of the sequencer and the events of an advice context (12 R260 to R269). -/
namespace Sys2Proof.Machine

/-- Change the advice context of the current hart. -/
def State.modAdv (s : State) (f : Advice → Advice) : State := { s with hart := { s.hart with adv := f s.hart.adv } }

/-- ADV_HDROP, ADV_CEND, ADV_LATE, ADV_MISM of a die (12 Table 12.2). -/
def advReg (die off : Nat) : Nat := 0x50100 + 0x40 * die + off

/-- An advice instruction whose word the sequencer accepts (12 R269). -/
def advWord (s : State) (w : Nat) (ok : Bool) (m : State → Host.Outcome State Fault Refusal) : Host.Outcome State Fault Refusal :=
  adviceOnly s w (fun s => if ok then m s else .next (dropWord s))

/-- An AWAIT of a hart's context returns (12 R263): flags, register, counts, and the counters of late and mismatched returns. -/
def awaitReturn (s : State) (h : Hart) (rd : Nat) (late mism : Bool) : State :=
  let a := h.adv
  let r := (if late then 1 else 0) + (if mism then 2 else 0) + (if a.aldf then 4 else 0)
  let f := a.front.wr rd (BitVec.ofNat 64 r)
  let a2 := { a with status := .ready, front := f, aldf := false, actions := 0, wdog := advBudget s, markId := none, since := s.clock }
  let s1 := updHart s h.hid (fun x => { x with adv := a2 })
  let die := h.lcore.toNat / 64
  let s2 := if late then mgmtAdd s1 (advReg die 0x20) 1 else s1
  if mism then mgmtAdd s2 (advReg die 0x28) 1 else s2

/-- AWAIT (12 R263): at once when the occurrence has passed, else the context waits. The sequencer has served the hart either way (05 R102). -/
def awaitWith (rd : Nat) (id : BitVec 16) (n : BitVec 48) (s : State) : Host.Outcome State Fault Refusal :=
  let o := s.hart.pmOcc
  if n.toNat ≤ o.toNat then
    let u := sendPrefetch (s.setFront (s.front.seqFrom false s.front.pc))
    let t := { u with hart := { u.hart with passed := 0, aged := false } }
    .next (awaitReturn t t.hart rd true (decide (o = n ∧ s.hart.pmId ≠ id)))
  else .next (s.retire.modAdv (fun a => { a with status := .waiting, awaitRd := rd, awaitId := id, awaitN := n, markId := none }))

/-- AWAIT with an immediate id and occurrence (12 R263). -/
def execAwaitImm (d : BitVec 6) (i : BitVec 11) (n : BitVec 7) (s : State) : Host.Outcome State Fault Refusal :=
  adviceOnly s (0x52 * 2 ^ 25 + d.toNat * 2 ^ 18 + i.toNat * 2 ^ 7 + n.toNat) (awaitWith d.toNat (i.setWidth 16) (n.setWidth 48))

/-- AWAIT with registers (12 R263): id S[ra][15:0], occurrence S[rb][47:0]. -/
def execAwaitReg (d : BitVec 6) (a b : BitVec 7) (s : State) : Host.Outcome State Fault Refusal :=
  advWord s (0x52 * 2 ^ 25 + 2 ^ 24 + d.toNat * 2 ^ 18 + a.toNat * 2 ^ 11 + b.toNat * 2 ^ 4) (isS a && isS b) (fun s =>
    awaitWith d.toNat (BitVec.ofNat 16 (s.sreg a.toNat).toNat) (BitVec.ofNat 48 (s.sreg b.toNat).toNat) s)

/-- The lead limit (12 R261): an action beyond it is dropped and counted; else it takes one and acts. The word is executed either way. -/
def withinLead (s : State) (act : State → State) : State :=
  let lead := max 1 (nbits (mgmtGet s 0x50010).toNat 0 8)
  let n := s.hart.adv.actions
  if n + 1 > lead then mgmtAdd s.retire (advReg s.die 0x10) 1
  else act (s.retire.modAdv (fun a => { a with actions := n + 1 }))

/-- Is a 64-byte line of a prefetch kept (12 R264)? `a` to `a + n - 1` are its requested bytes. -/
def prefetchLine (s : State) (nd : Node) (level : BitVec 2) (a n : Nat) : Option Nat :=
  let e := leafAt nd a
  let pa := leafPA e + a % 65536
  let away := decide (homeDie pa ≠ s.die ∧ level ≠ 1)
  if (leaseFail nd a n true false false).isSome || !leafAllows e true false false || decide (leafMT e = 1) || (isHost pa && !hostCached s e)
      || (leafEPH e && isCounted s (pa / 256)) || (leafNC e && away) then none
  else some pa

/-- Requested bytes of each 64-byte line from `a` on. -/
def linePieces (a n fuel : Nat) : List (Nat × Nat) :=
  match fuel with
  | 0 => []
  | f + 1 => if n = 0 then [] else
    let k := min n (64 - a % 64)
    (a % 2 ^ 64, k) :: linePieces (a + k) (n - k) f

/-- The lines of an APREF: dropped ones are counted, the others wait to be sent, a host line is asked for at once (12 R264, 11 R239). -/
def prefetch (s : State) (level : BitVec 2) (a n : Nat) : State :=
  match nodeOf s s.hart.node with
  | none => s
  | some nd => (linePieces a n (n / 64 + 2)).foldl (fun t p =>
      match prefetchLine t nd level p.1 p.2 with
      | none => mgmtAdd t (advReg t.die 0x10) 1
      | some pa =>
        if isHost pa then hostAsk t t.die (pa / 64)
        else if leafNC (leafAt nd p.1) then t
        else t.modAdv (fun x => { x with unsent := x.unsent ++ [(pa / 64, level)] })) s

/-- APREF (12 R264). -/
def execApref (l a e : BitVec 7) (v : BitVec 2) (s : State) : Host.Outcome State Fault Refusal :=
  advWord s (wordF3 0x53 l.toNat a.toNat e.toNat v.toNat) (isS a) (fun s =>
    let addr := s.sreg a.toNat + 64 * e.signExtend 64
    .next (withinLead s (fun t => prefetch t v addr.toNat (64 * (l.toNat + 1)))))

/-- One request into the placement queue of a die, which holds 256: the oldest is dropped and counted (12 R266). -/
def placeOne (s : State) (r : PlaceReq) : State :=
  let mine := s.placeQ.filter (fun q => q.die == r.die)
  if mine.length < 256 then { s with placeQ := s.placeQ ++ [r] }
  else match mine with
    | [] => { s with placeQ := s.placeQ ++ [r] }
    | old :: _ => mgmtAdd { s with placeQ := s.placeQ.erase old ++ [r] } (advReg r.die.toNat 0x10) 1

/-- APLACE (12 R266). -/
def execAplace (a b : BitVec 7) (g : BitVec 2) (s : State) : Host.Outcome State Fault Refusal :=
  advWord s (wordF3 0x54 0 a.toNat b.toNat g.toNat) (isS a && isS b) (fun s =>
    let va := (s.sreg a.toNat).toNat
    let n := (s.sreg b.toNat).toNat
    .next (withinLead s (fun t =>
      match nodeOf t t.hart.node with
      | none => t
      | some nd =>
        if n = 0 ∨ n > 2 ^ 32 ∨ (leaseFail nd va n false false false).isSome = true then mgmtAdd t (advReg t.die 0x10) 1
        else (upFrom (va / 65536) ((va + n - 1) / 65536 + 1 - va / 65536)).foldl (fun u p =>
          placeOne u ⟨BitVec.ofNat 2 u.die, BitVec.ofNat 16 (asidOf u nd.slot.toNat), BitVec.ofNat 40 p, g, u.hart.hid⟩) t)))

/-- APRIO (12 R265). -/
def execAprio (p : BitVec 4) (s : State) : Host.Outcome State Fault Refusal :=
  adviceOnly s (wordF3 0x55 0 0 p.toNat 0) (fun s => .next (withinLead s (fun t => t.modAdv (fun x => { x with prio := p }))))

/-- AORDER (12 R265): modes 0 to 2, any other is dropped. -/
def execAorder (p : BitVec 4) (s : State) : Host.Outcome State Fault Refusal :=
  advWord s (wordF3 0x55 0 0 p.toNat 1) (decide (p.toNat ≤ 2)) (fun s =>
    .next (withinLead s (fun t => t.modAdv (fun x => { x with order := p.setWidth 2 }))))

/-- The value of ALD (12 R267), none when it fails: the bytes a copy on the die or home holds now. -/
def aldRead (s : State) (va : Word) : Option Word :=
  match nodeOf s s.hart.node with
  | none => none
  | some nd =>
    let a := va.toNat
    let e := leafAt nd a
    let pa := leafPA e + a % 65536
    if a % 8 ≠ 0 ∨ (leaseFail nd a 8 true false false).isSome = true ∨ leafAllows e true false false = false ∨ leafMT e ≠ 0 ∨ leafEPH e = true
        ∨ (isHost pa = true ∧ hostCached s e = false) then none
    else match (if leafNC e then s.nc.find? (fun c => decide (c.die.toNat = s.die ∧ c.sector = pa / 64)) else none) with
      | some c => if c.poison then none else some (BitVec.ofNat 64 (c.data.toNat / 2 ^ (8 * (pa % 64))))
      | none => if poisonAt s pa then none else some (BitVec.ofNat 64 (memNat s pa 8))

/-- ALD (12 R267). -/
def execAld (d a : BitVec 7) (i : BitVec 11) (s : State) : Host.Outcome State Fault Refusal :=
  advWord s (0x56 * 2 ^ 25 + d.toNat * 2 ^ 18 + a.toNat * 2 ^ 11 + i.toNat) (isS d && isS a) (fun s =>
    match aldRead s (s.sreg a.toNat + imm11 i) with
    | some v => .next (s.setSreg d.toNat v).retire
    | none => .next ((s.setSreg d.toNat 0).modAdv (fun x => { x with aldf := true })).retire)

/-- What ADROP withdraws (12 R268). -/
def adropWith (s : State) (m : BitVec 3) : State :=
  let s1 := if m.getLsbD 0 then s.modAdv (fun x => { x with unsent := [] }) else s
  let s2 := if m.getLsbD 1 then { s1 with placeQ := s1.placeQ.filter (fun q => decide (q.hid ≠ s.hart.hid)) } else s1
  if m.getLsbD 2 then s2.modAdv (fun x => { x with prio := 0, order := 0 }) else s2

/-- ADROP (12 R268). -/
def execAdrop (m : BitVec 3) (s : State) : Host.Outcome State Fault Refusal :=
  adviceOnly s (wordF3 0x57 0 0 m.toNat 0) (fun s => .next (adropWith s m).retire)

/-- AEND (12 R268): the context ends (R253, R254). -/
def execAend (s : State) : Host.Outcome State Fault Refusal :=
  adviceOnly s (wordF3 0x57 0 0 0 1) (fun s => .next (s.retire.modAdv Advice.end_))

/-- AWAIT_RETURN (12 R263): a MARK has set pm.occ to the awaited occurrence. A context whose watchdog count is zero
ends instead (R262). -/
def execAwaitReturn (h : Nat) (s : State) : Host.Outcome State Fault Refusal :=
  match hartOf s h with
  | none => .next s
  | some x =>
    if x.adv.status = .waiting ∧ x.adv.wdog ≠ 0 then
      match x.adv.markId with
      | some i => .next (awaitReturn s x x.adv.awaitRd false (decide (i ≠ x.adv.awaitId)))
      | none => .next s
    else .next s

/-- ADVICE_WATCHDOG (12 R262): the count has reached zero, the context ends and ADV_CEND counts it. -/
def execAdviceWatchdog (h : Nat) (s : State) : Host.Outcome State Fault Refusal :=
  match hartOf s h with
  | none => .next s
  | some x =>
    if (x.adv.status = .ready ∨ x.adv.status = .waiting) ∧ x.adv.wdog = 0 then
      .next (mgmtAdd (updHart s h (fun y => { y with adv := y.adv.end_ })) (advReg (x.lcore.toNat / 64) 0x18) 1)
    else .next s

end Sys2Proof.Machine
end

