-- ==== Sys2Proof/Machine/Atomic.lean ====
section
/-! DEFINITION. Sys2Proof/Machine/Atomic.lean: atomics, CAS and CASP, LDA and STL, fences, monitors (16 R361 to R367). Each instruction runs whole and in
program order (log 1), so the order an instruction sets up holds already but for engine transfers, which a fence of vector class waits for (R365). -/
namespace Sys2Proof.Machine

/-- Checks of an atomic after alignment (16 R363): lease for read and write, leaf RD and W, then MT = 1, NC and host pages raise PERMISSION. -/
def xAtomicCheck (addr : Word) (n : Nat) : X Unit := do
  xCheck addr.toNat n true true false
  let e ← xLeaf addr.toNat
  xNeed (decide (leafMT e ≠ 1) && !leafNC e && !isHost (leafPA e)) .permission addr

/-- Ready a line for a read at its home that an atomic makes there (11 R246, R248): of a counted line it is one read. -/
def readAtHome (s : State) (pa : Nat) : Except Stall State :=
  if isCounted s (pa / 256) then takeReads s [pa / 256] (rinOf s (homeDie pa))
  else match cohRead s (homeDie pa) (pa / 256) with
    | some t => .ok t
    | none => .error (.line (homeDie pa) (pa / 64) false)

/-- One indivisible read-modify-write at the home of a line (16 R362, 11 R246): `f` gives the value to write, or none to write nothing. A CAS that
writes nothing is a read of the line and nothing more. Answers the old value. -/
def xReadModify (addr : Word) (n : Nat) (f : Nat → Option Nat) : X Nat := do
  let w ← xRead State.who
  interlock w false addr.toNat n true
  fun s =>
    match (nodeOf s w.node).bind (fun nd => nodePA nd addr) with
    | none => .error (.trap .permission addr false s)
    | some (pa, _) =>
      let s := receives s w.die (pa / 64)
      if poisonAt s pa then .error (.halt (consumePoison s (pa / 64)))
      else
        let old := memNat s pa n
        match f old with
        | none => (match readAtHome s pa with
          | .ok t => .ok (old, t)
          | .error q => .error (.stall q))
        | some v =>
          if vsFull s (homeDie pa) then .error (.stall (.space (homeDie pa) (rinOf s (homeDie pa))))
          else match cohWrite s (homeDie pa) (pa / 256) (pa / 64) with
            | none => .error (.stall (.line (homeDie pa) (pa / 64) true))
            | some t => .ok (old, writeHome t pa (natBytes v n) (rinOf s w.die) (some w.node) (some w.hid))

/-- An atomic of n bytes (16 R362): S[rd] := ZExt(old), memory := F(old, b). -/
def xAmo (n : Nat) (f : Nat → Nat → Nat) (d a b : BitVec 6) : X Unit := do
  let addr ← xS a.toNat
  let bv ← xS b.toNat
  xNeed (decide (addr.toNat % n = 0)) .misaligned addr
  xAtomicCheck addr n
  let old ← xReadModify addr n (fun o => some (f o (bv.toNat % 2 ^ (8 * n)) % 2 ^ (8 * n)))
  xSetS d.toNat (BitVec.ofNat 64 old)
  xRetire

def amo (n : Nat) (f : Nat → Nat → Nat) (d a b : BitVec 6) (s : State) : Host.Outcome State Fault Refusal := hartOnly s (runX (xAmo n f d a b))

/-- F(old, b) of the signed minimum and maximum. -/
def sMin (w x y : Nat) : Nat := if sval w x < sval w y then x else y
def sMax (w x y : Nat) : Nat := if sval w x < sval w y then y else x

/-- AMOADD (16 R362), 8 bytes: old + b. -/
def execAmoadd (_sc : BitVec 3) (d a b : BitVec 6) (s : State) : Host.Outcome State Fault Refusal := amo 8 (fun o b => o + b) d a b s

/-- AMOAND (16 R362), 8 bytes: and. -/
def execAmoand (_sc : BitVec 3) (d a b : BitVec 6) (s : State) : Host.Outcome State Fault Refusal := amo 8 (fun o b => o &&& b) d a b s

/-- AMOOR (16 R362), 8 bytes: or. -/
def execAmoor (_sc : BitVec 3) (d a b : BitVec 6) (s : State) : Host.Outcome State Fault Refusal := amo 8 (fun o b => o ||| b) d a b s

/-- AMOXOR (16 R362), 8 bytes: exclusive or. -/
def execAmoxor (_sc : BitVec 3) (d a b : BitVec 6) (s : State) : Host.Outcome State Fault Refusal := amo 8 (fun o b => o ^^^ b) d a b s

/-- AMOMIN (16 R362), 8 bytes: signed smaller. -/
def execAmomin (_sc : BitVec 3) (d a b : BitVec 6) (s : State) : Host.Outcome State Fault Refusal := amo 8 (sMin 64) d a b s

/-- AMOMAX (16 R362), 8 bytes: signed larger. -/
def execAmomax (_sc : BitVec 3) (d a b : BitVec 6) (s : State) : Host.Outcome State Fault Refusal := amo 8 (sMax 64) d a b s

/-- AMOMINU (16 R362), 8 bytes: unsigned smaller. -/
def execAmominu (_sc : BitVec 3) (d a b : BitVec 6) (s : State) : Host.Outcome State Fault Refusal := amo 8 (fun o b => min o b) d a b s

/-- AMOMAXU (16 R362), 8 bytes: unsigned larger. -/
def execAmomaxu (_sc : BitVec 3) (d a b : BitVec 6) (s : State) : Host.Outcome State Fault Refusal := amo 8 (fun o b => max o b) d a b s

/-- AMOSWAP (16 R362), 8 bytes: b. -/
def execAmoswap (_sc : BitVec 3) (d a b : BitVec 6) (s : State) : Host.Outcome State Fault Refusal := amo 8 (fun _ b => b) d a b s

/-- AMOADD_32 (16 R362), 4 bytes: old + b. -/
def execAmoadd32 (_sc : BitVec 3) (d a b : BitVec 6) (s : State) : Host.Outcome State Fault Refusal := amo 4 (fun o b => o + b) d a b s

/-- AMOAND_32 (16 R362), 4 bytes: and. -/
def execAmoand32 (_sc : BitVec 3) (d a b : BitVec 6) (s : State) : Host.Outcome State Fault Refusal := amo 4 (fun o b => o &&& b) d a b s

/-- AMOOR_32 (16 R362), 4 bytes: or. -/
def execAmoor32 (_sc : BitVec 3) (d a b : BitVec 6) (s : State) : Host.Outcome State Fault Refusal := amo 4 (fun o b => o ||| b) d a b s

/-- AMOXOR_32 (16 R362), 4 bytes: exclusive or. -/
def execAmoxor32 (_sc : BitVec 3) (d a b : BitVec 6) (s : State) : Host.Outcome State Fault Refusal := amo 4 (fun o b => o ^^^ b) d a b s

/-- AMOMIN_32 (16 R362), 4 bytes: signed smaller. -/
def execAmomin32 (_sc : BitVec 3) (d a b : BitVec 6) (s : State) : Host.Outcome State Fault Refusal := amo 4 (sMin 32) d a b s

/-- AMOMAX_32 (16 R362), 4 bytes: signed larger. -/
def execAmomax32 (_sc : BitVec 3) (d a b : BitVec 6) (s : State) : Host.Outcome State Fault Refusal := amo 4 (sMax 32) d a b s

/-- AMOMINU_32 (16 R362), 4 bytes: unsigned smaller. -/
def execAmominu32 (_sc : BitVec 3) (d a b : BitVec 6) (s : State) : Host.Outcome State Fault Refusal := amo 4 (fun o b => min o b) d a b s

/-- AMOMAXU_32 (16 R362), 4 bytes: unsigned larger. -/
def execAmomaxu32 (_sc : BitVec 3) (d a b : BitVec 6) (s : State) : Host.Outcome State Fault Refusal := amo 4 (fun o b => max o b) d a b s

/-- AMOSWAP_32 (16 R362), 4 bytes: b. -/
def execAmoswap32 (_sc : BitVec 3) (d a b : BitVec 6) (s : State) : Host.Outcome State Fault Refusal := amo 4 (fun _ b => b) d a b s

/-- CAS (16 R362): compares with the old S[rd], writes S[rb] when equal, S[rd] := old. -/
def xCas (d a b : BitVec 6) : X Unit := do
  let addr ← xS a.toNat
  let exp ← xS d.toNat
  let new ← xS b.toNat
  xNeed (decide (addr.toNat % 8 = 0)) .misaligned addr
  xAtomicCheck addr 8
  let old ← xReadModify addr 8 (fun o => if o = exp.toNat then some new.toNat else none)
  xSetS d.toNat (BitVec.ofNat 64 old)
  xRetire

def execCas (_sc : BitVec 3) (d a b : BitVec 6) (s : State) : Host.Outcome State Fault Refusal := hartOnly s (runX (xCas d a b))

/-- CASP (16 R362): the same on 16 bytes and pairs; an odd rd or rb raises ILLEGAL_OPERAND. -/
def xCasp (d a b : BitVec 6) : X Unit := do
  xOperands (decide (d.toNat % 2 = 0 ∧ b.toNat % 2 = 0))
  let addr ← xS a.toNat
  let exp ← xRead (fun s => s.front.rdPair d.toNat)
  let new ← xRead (fun s => s.front.rdPair b.toNat)
  xNeed (decide (addr.toNat % 16 = 0)) .misaligned addr
  xAtomicCheck addr 16
  let old ← xReadModify addr 16 (fun o => if o = exp.toNat then some new.toNat else none)
  xMod (fun s => s.setFront (s.front.wrPair d.toNat (BitVec.ofNat 128 old)))
  xRetire

def execCasp (_sc : BitVec 3) (d a b : BitVec 6) (s : State) : Host.Outcome State Fault Refusal := hartOnly s (runX (xCasp d a b))

/-- Address and size of LDA and STL (16 R361). -/
def ldaAddr (s : State) (a : BitVec 6) (o : BitVec 7) : Word := s.sreg a.toNat + BitVec.ofNat 64 (4 * o.toNat)
def ldaSize (addr : Word) (w4 : Bool) : Nat := if w4 then 4 else if addr.toNat % 8 = 0 then 8 else 4

/-- LDA (16 R361): an acquire load of 4 or 8 bytes; MT = 1 gives PERMISSION. -/
def xLda (d : BitVec 6) (addr : Word) (n : Nat) : X Unit := do
  let no ← xLoadNo 1
  xNeed (decide (addr.toNat % n = 0)) .misaligned addr
  xCheck addr.toNat n true false false
  let e ← xLeaf addr.toNat
  xNeed (decide (leafMT e ≠ 1)) .permission addr
  xLoadEvent no addr.toNat
  let bs ← xLoad addr.toNat n
  xSetS d.toNat (BitVec.ofNat 64 (bytesNat bs))
  xRetireLoad

def execLda (d a : BitVec 6) (_sc : BitVec 3) (w4 : Bool) (o : BitVec 7) (s : State) : Host.Outcome State Fault Refusal :=
  hartOnly s (fun s => runX (xLda d (ldaAddr s a o) (ldaSize (ldaAddr s a o) w4)) s)

/-- STL (16 R361): a release store. -/
def xStl (d : BitVec 6) (addr : Word) (n : Nat) : X Unit := do
  let v ← xS d.toNat
  xNeed (decide (addr.toNat % n = 0)) .misaligned addr
  xCheck addr.toNat n false true false
  let e ← xLeaf addr.toNat
  xNeed (decide (leafMT e ≠ 1)) .permission addr
  xStore addr.toNat (natBytes v.toNat n)
  xRetire

def execStl (d a : BitVec 6) (_sc : BitVec 3) (w4 : Bool) (o : BitVec 7) (s : State) : Host.Outcome State Fault Refusal :=
  hartOnly s (fun s => runX (xStl d (ldaAddr s a o) (ldaSize (ldaAddr s a o) w4)) s)

/-- A fence (16 R365): with a vector class P it waits until the hart's engine transfers have retired; at scope .h it retires without waiting. -/
def fence (vectorFirst : Bool) (sc : BitVec 3) (s : State) : Host.Outcome State Fault Refusal :=
  hartOnly s (runX (do
    if vectorFirst && decide (sc ≠ 0) then xWaitAll else pure ()
    xRetire))
where
  /-- Wait for every transfer of the current hart. -/
  xWaitAll : X Unit := do
    let h ← xRead (fun s => s.hart.hid)
    xferWaitAll h

/-- FENCE (16 R364). -/
def execFence (sc : BitVec 3) (s : State) : Host.Outcome State Fault Refusal := fence true sc s
/-- FENCE.SV (16 R364): scalar before vector. -/
def execFenceSv (sc : BitVec 3) (s : State) : Host.Outcome State Fault Refusal := fence false sc s
/-- FENCE.VS (16 R364): vector before scalar. -/
def execFenceVs (sc : BitVec 3) (s : State) : Host.Outcome State Fault Refusal := fence true sc s
/-- FENCE.VV (16 R364): vector before vector. -/
def execFenceVv (sc : BitVec 3) (s : State) : Host.Outcome State Fault Refusal := fence true sc s

/-- MONARM (16 R367): checked as a 1-byte load; MT = 1, NC, EPH and host pages without HOSTC raise PERMISSION; the monitor is armed on the 64 bytes. -/
def xMonarm (a : BitVec 7) : X Unit := do
  xOperands (isS a)
  let addr ← xS a.toNat
  xCheck addr.toNat 1 true false false
  let e ← xLeaf addr.toNat
  let cached ← xRead (fun s => hostCached s e)
  xNeed (decide (leafMT e ≠ 1) && !leafNC e && !leafEPH e && (!isHost (leafPA e) || cached)) .permission addr
  xMod (fun s => { s with hart := { s.hart with monitor := some ((leafPA e + addr.toNat % 65536) / 64) } })
  xRetire

def execMonarm (a : BitVec 7) (s : State) : Host.Outcome State Fault Refusal := hartOnly s (runX (xMonarm a))

/-- MONWAIT (16 R367): with no monitor armed it writes 0 at once; else the hart sleeps without its slot until MONITOR_WAKE or MONWAIT_TIMEOUT. The
instruction retires before it sleeps (DESIGN CHOICE, log 78). A bound of 0 has run out at once. -/
def execMonwait (d b : BitVec 7) (s : State) : Host.Outcome State Fault Refusal :=
  hartOnly s (fun s =>
    if !(isS d && isS b) then .next (takeTrap s .illegalOperand 0)
    else match s.hart.monitor with
      | none => .next (s.setSreg d.toNat 0).retire
      | some _ =>
        let t := dropSlot s.retire .waiting (.monwait (s.front.dest d.toNat) (s.sreg b.toNat))
        .next (if s.sreg b.toNat = 0 then raiseEvents t [.monwaitTimeout s.hart.hid] else t))

/-- A wait of MONWAIT ends with a status (16 R367): every return disarms the monitor. A hart that is switched out returns when it is restored. -/
def monReturn (s : State) (h : Nat) (status : Word) : State :=
  match hartOf s h with
  | none => s
  | some x => match x.wait with
    | .monwait rd _ => if x.out then s else endWait (updHart s h (fun y => { (y.setPhys rd status) with monitor := none })) h
    | _ => s

/-- MONITOR_WAKE (16 R367): a write to the monitored block, or the loss of the monitor. A hart that no longer sleeps loses its monitor and reads it at
its next MONWAIT. -/
def execMonitorWake (h : Nat) (s : State) : Host.Outcome State Fault Refusal :=
  match hartOf s h with
  | none => .next s
  | some x => match x.wait with
    | .monwait _ _ => .next (monReturn s h 0)
    | _ => .next (updHart s h (fun y => { y with monitor := none }))

/-- MONWAIT_TIMEOUT (16 R367): the bound runs out, status 1. -/
def execMonwaitTimeout (h : Nat) (s : State) : Host.Outcome State Fault Refusal :=
  match hartOf s h with
  | none => .next s
  | some x => match x.wait with
    | .monwait _ _ => .next (monReturn s h 1)
    | _ => .next s

end Sys2Proof.Machine
end

