-- ==== Sys2Proof/Machine/Barrier.lean ====
section
/-! DEFINITION. Sys2Proof/Machine/Barrier.lean: barrier operands and instructions, and the events of BWAIT (15 R344 to R353). -/
namespace Sys2Proof.Machine

/-- The checks of a barrier operand (15 R344): form, alignment, lease and leaf of the memory form. `memOnly` for XCOLL. -/
def xBarOperand (op : Word) (memOnly : Bool) : X Unit := do
  xNeed (!barSpad op || (decide (nbits op.toNat 22 41 = 0) && !memOnly)) .illegalOperand op
  xNeed (decide (op.toNat % 16 = 0)) .misaligned op
  if barSpad op then pure ()
  else do
    xCheck op.toNat 16 true true false
    let e ← xLeaf op.toNat
    xNeed (decide (leafMT e = 0) && !leafNC e && !leafEPH e && isDeviceMem (leafPA e)) .permission op

/-- Read the object of a checked operand for an instruction that updates it: set RZ bits raise ILLEGAL_OPERAND (15 R347), poison is consumed. -/
def xBarRead (op : Word) (update : Bool) : X Nat := do
  let w ← xRead State.who
  if barSpad op then interlock w true (op.toNat % 2 ^ 22) 16 update else interlock w false op.toNat 16 update
  xMod (fun s => barReceive s w op)
  fun s => match barRead s w op with
    | none => .error (.trap .permission op false s)
    | some (o, bad, pa) =>
      if bad && update then .error (.halt (consumePoison s (pa / 64)))
      else if barRzClear o then .ok (o, s) else .error (.trap .illegalOperand op false s)

def xBarWrite (op : Word) (o : Nat) : X Unit := fun s => xBarPut s.who op o s

/-- BINIT (15 R348): the object as a store. -/
def xBinit (a b : BitVec 7) : X Unit := do
  xOperands (isS a && isS b)
  let op ← xS a.toNat
  let v ← xS b.toNat
  xOperands (decide (nbits v.toNat 12 20 = 0))
  xBarOperand op false
  let w ← xRead State.who
  if barSpad op then interlock w true (op.toNat % 2 ^ 22) 16 true else interlock w false op.toNat 16 true
  let ae := nbits v.toNat 0 12
  let be := nbits v.toNat 32 32
  xBarWrite op (ae + ae * 2 ^ 12 + be * 2 ^ 32 + be * 2 ^ 64)
  xRetire

def execBinit (a b : BitVec 7) (s : State) : Host.Outcome State Fault Refusal := hartOnly s (runX (xBinit a b))

/-- The update of BARRIVE (15 R349): the object after n arrivals, and whether they overran. -/
def barArrive (o n : Nat) : Nat × Bool :=
  if n > barApend o then (barComplete (setBits (setBits o 28 1 1) 12 12 0), true)
  else (barComplete (setBits o 12 12 (barApend o - n)), false)

/-- BARRIVE (15 R349): an overrun traps after the arrival, with tepc at the next instruction. -/
def xBarrive (a : BitVec 7) (n : BitVec 4) : X Unit := do
  xOperands (isS a)
  let op ← xS a.toNat
  xOperands (decide (n ≠ 0))
  xBarOperand op false
  let o ← xBarRead op true
  let r := barArrive o n.toNat
  xBarWrite op r.1
  xRetire
  if r.2 then xTrap .barrierOverrun op else pure ()

def execBarrive (a : BitVec 7) (n : BitVec 4) (s : State) : Host.Outcome State Fault Refusal := hartOnly s (runX (xBarrive a n))

/-- BEXPECT (15 R350): adds n to BPEND; a sum above 2^32 - 1 raises ILLEGAL_OPERAND. -/
def xBexpect (a b : BitVec 7) : X Unit := do
  xOperands (isS a && isS b)
  let op ← xS a.toNat
  let v ← xS b.toNat
  xOperands (decide (v.toNat < 2 ^ 32))
  xBarOperand op false
  let o ← xBarRead op true
  xOperands (decide (barBpend o + v.toNat < 2 ^ 32))
  xBarWrite op (setBits o 64 32 (barBpend o + v.toNat))
  xRetire

def execBexpect (a b : BitVec 7) (s : State) : Host.Outcome State Fault Refusal := hartOnly s (runX (xBexpect a b))

/-- BWAIT (15 R351): status 2 on overrun, 0 when the phase differs, 1 when the bound has run out; else the hart sleeps without its slot. -/
def xBwait (d a b : BitVec 7) : X Unit := do
  xOperands (isS d && isS a && isS b)
  let op ← xS a.toNat
  let v ← xS b.toNat
  xOperands (decide (nbits v.toNat 4 12 = 0))
  xBarOperand op false
  let o ← xBarRead op false
  let p := nbits v.toNat 0 4
  let bound := nbits v.toNat 16 48
  if barOvr o then do
    xSetS d.toNat 2
    xRetire
  else if barPhase o ≠ p then do
    xSetS d.toNat 0
    xRetire
  else if bound = 0 then do
    xSetS d.toNat 1
    xRetire
  else xMod (fun s =>
    let rd := s.front.dest d.toNat
    let t := pushWindow s (wordF3 0x4D d.toNat a.toNat b.toNat 3) op v
    dropSlot t .waiting (.bwait rd op (BitVec.ofNat 4 p) (BitVec.ofNat 48 bound) false))

def execBwait (d a b : BitVec 7) (s : State) : Host.Outcome State Fault Refusal := hartOnly s (runX (xBwait d a b))

/-- BTEST (15 R353). -/
def xBtest (d a : BitVec 7) : X Unit := do
  xOperands (isS d && isS a)
  let op ← xS a.toNat
  xBarOperand op false
  let o ← xBarRead op false
  xSetS d.toNat (BitVec.ofNat 64 (o % 2 ^ 32 + barBpend o * 2 ^ 32))
  xRetire

def execBtest (d a : BitVec 7) (s : State) : Host.Outcome State Fault Refusal := hartOnly s (runX (xBtest d a))

/-- A wait of BWAIT ends with a status: the instruction retires (15 R347). -/
def bwaitReturn (s : State) (h rd : Nat) (status : Word) : State := endWaitRetire s h (fun y => y.setPhys rd status)

/-- The loop of 15 R351 taken once more for a sleeping hart: its status, if any. A change of PHASE ends the wait even where PHASE has come back to p. -/
def bwaitStatus (o : Nat) (p : BitVec 4) (moved late : Bool) : Option Word :=
  if barOvr o then some 2
  else if moved || decide (barPhase o ≠ p.toNat) then some 0
  else if late then some 1
  else none

/-- A sleeping hart reads its object again (15 R351). RZ bits found set raise ILLEGAL_OPERAND at the BWAIT, which has had no effect (R347).
A hart that is switched out compares when it is restored (05 R107). -/
def bwaitAgain (h : Nat) (late : Bool) (s0 : State) : State :=
  match hartOf s0 h with
  | none => s0
  | some x => match x.wait with
    | .bwait rd op p bound moved =>
      let o := barObject s0 x op
      let s := barReceive s0 (whoHart x) op
      if x.out then s0
      else if late && bound == BitVec.allOnes 48 then s0
      else if barRzClear o then (bwaitStatus o p moved late).elim s (bwaitReturn s h rd)
      else takeTrap (focus (endWait s h) h) .illegalOperand op
    | _ => s0

/-- BWAIT_WAKE (15 R351): an update has changed PHASE or OVR. -/
def execBwaitWake (h : Nat) (s : State) : Host.Outcome State Fault Refusal := .next (bwaitAgain h false s)

/-- BWAIT_DEADLINE (15 R351): the deadline of a sleeping hart is reached. -/
def execBwaitDeadline (h : Nat) (s : State) : Host.Outcome State Fault Refusal := .next (bwaitAgain h true s)

end Sys2Proof.Machine
end

