-- ==== Sys2Proof/Machine/Cache.lean ====
section
/-! DEFINITION. Sys2Proof/Machine/Cache.lean: CWB, CINV and CFLUSH (11 R242, R243). -/
namespace Sys2Proof.Machine

/-- First byte of a range outside the lease, or where the lease grants neither read nor write (11 R242). -/
def cacheLeaseFail (nd : Node) (va n : Nat) : Option Nat :=
  if nd.lease.any (fun r => (r.rd || r.wr) && rangeHas r va && decide ((va + 2 ^ 64 - r.base.toNat) % 2 ^ 64 + n ≤ r.len)) then none
  else firstRefused nd va n (fun a => leaseByte nd a true false false || leaseByte nd a false true false)

/-- First byte whose leaf lacks both RD and W. -/
def cacheLeafFail (nd : Node) (va n : Nat) : Option Nat :=
  let first := va / 65536
  let last := (va + n - 1) / 65536
  ((upFrom first (last + 1 - first)).find? (fun p => !(leafAllows (leafAt nd (p * 65536)) true false false
    || leafAllows (leafAt nd (p * 65536)) false true false))).map (fun p => max va (p * 65536))

/-- The first failing byte decides (11 R242). -/
def cacheCheck (nd : Node) (va n : Nat) : Option (Cause × Word) :=
  match cacheLeaseFail nd va n, cacheLeafFail nd va n with
  | some a, some b => if a ≤ b then some (.leaseViolation, BitVec.ofNat 64 a) else some (.permission, BitVec.ofNat 64 b)
  | some a, none => some (.leaseViolation, BitVec.ofNat 64 a)
  | none, some b => some (.permission, BitVec.ofNat 64 b)
  | none, none => none

/-- Does a line (256 bytes) of physical memory hold a byte of the range, through the node's translations, on a page whose leaf a test admits? MT = 1 pages and
host pages without HOSTC are left alone (11 R242). -/
def lineInPages (ok : Word → Bool) (s : State) (nd : Node) (va n line : Nat) : Bool :=
  (upFrom (va / 65536) ((va + n - 1) / 65536 + 1 - va / 65536)).any (fun p =>
    let e := leafAt nd (p * 65536)
    let lo := max va (p * 65536)
    let hi := min (va + n - 1) (p * 65536 + 65535)
    let base := leafPA e
    leafOk e && ok e && decide (leafMT e ≠ 1) && (!isHost base || hostCached s e)
      && decide ((base + lo % 65536) / 256 ≤ line ∧ line ≤ (base + hi % 65536) / 256))

def lineInRange : State → Node → Nat → Nat → Nat → Bool := lineInPages (fun _ => true)

/-- What a cache maintenance instruction does: write back, drop. -/
structure CacheOp where
  /-- Dirty NC sectors are written home; without it they are discarded. -/
  ncWrite : Bool
  drop : Bool
deriving DecidableEq, Repr

/-- Effect on the NC copies of the issuing die (11 Table 11.7). -/
def cacheNc (s : State) (die : Nat) (nd : Node) (va n : Nat) (op : CacheOp) : State :=
  let hits := s.nc.filter (fun c => decide (c.die.toNat = die) && lineInRange s nd va n (c.sector / 4))
  hits.foldl (fun t c =>
    let t1 := if op.ncWrite then ncClean t die c.sector else t
    if op.drop then setNc t1 die c.sector none else t1) s

/-- The coherent lines of the issuing die that hold a byte of the range. -/
def cacheLines (s : State) (die : Nat) (nd : Node) (va n : Nat) : List RdcLine :=
  s.rdc.filter (fun r => decide (r.agent.toNat = die) && lineInRange s nd va n r.line)

/-- A line on its way, or one whose directory entry is not stable, must become stable first (11 R236). -/
def cacheWaits (s : State) (die : Nat) (nd : Node) (va n : Nat) : Bool :=
  (cacheLines s die nd va n).any (fun r => r.st.transient || ((dirOf s r.line).map DirState.stable == some false))

/-- A die gives a line up to its end (11 Tables 11.4, 11.5): S silently; E and M by EvC and WbD, and the entry of the owner is freed. A line of host
memory answers to the host (R239). -/
def giveUp (s : State) (die : Nat) (r : RdcLine) : State :=
  let t := setRdc s die r.line none
  let a : BitVec 3 := BitVec.ofNat 3 die
  let l := BitVec.ofNat 44 r.line
  match r.st with
  | .e => if isHost (r.line * 256) then answer t r.line [.evc a l] else freeEntry t r.line
  | .m => if isHost (r.line * 256) then answer t r.line [.wbd a l r.dirty] else freeEntry t r.line
  | _ => t

/-- Effect on the stable coherent lines of the issuing die: written back, M becomes E; or dropped, and the directory entry follows (11 Table 11.7). CWB and
CFLUSH end the count of a counted line (R248), and so does CINV on coherent pages, where it acts as CFLUSH. -/
def cacheCoherent (s : State) (die : Nat) (nd : Node) (va n : Nat) (op : CacheOp) : State :=
  let s1 := (cacheLines s die nd va n).foldl (fun t r =>
    if op.drop then giveUp t die r
    else if r.st = .m then setRdc t die r.line (some (.e, 0)) else t) s
  { s1 with counted := s1.counted.filter (fun c => !lineInPages (fun e => op.ncWrite || !leafNC e) s nd va n c.line) }

/-- A cache maintenance instruction (11 R242): checks in order, then every line that holds a byte of the range. -/
def xCache (op : CacheOp) (a b : BitVec 7) : X Unit := do
  xOperands (isS a && isS b)
  let va ← xS a.toNat
  let len ← xS b.toNat
  xNeed (decide (len.toNat ≤ 2 ^ 32)) .illegalOperand len
  if len = 0 then xRetire
  else do
    let nd ← xRead (fun s => nodeOf s s.hart.node)
    match nd with
    | none => xTrap .leaseViolation va
    | some nd => do
      match cacheCheck nd va.toNat len.toNat with
      | some (c, v) => xTrap c v
      | none => do
        let w ← xRead State.who
        interlock w false va.toNat len.toNat true
        let waits ← xRead (fun s => cacheWaits s s.die nd va.toNat len.toNat)
        if waits then xStall else pure ()
        xMod (fun s => cacheCoherent (cacheNc s s.die nd va.toNat len.toNat op) s.die nd va.toNat len.toNat op)
        xRetire

/-- CWB (11 R243): write back, copies kept clean. -/
def execCwb (a b : BitVec 7) (s : State) : Host.Outcome State Fault Refusal := hartOnly s (runX (xCache ⟨true, false⟩ a b))
/-- CINV (11 R243): as CFLUSH on coherent lines; NC copies dropped, their dirty sectors discarded. -/
def execCinv (a b : BitVec 7) (s : State) : Host.Outcome State Fault Refusal := hartOnly s (runX (xCache ⟨false, true⟩ a b))
/-- CFLUSH (11 R243): write back and drop. -/
def execCflush (a b : BitVec 7) (s : State) : Host.Outcome State Fault Refusal := hartOnly s (runX (xCache ⟨true, true⟩ a b))

end Sys2Proof.Machine
end

