-- ==== Sys2Proof/Machine/Engine.lean ====
section
/-! DEFINITION. Sys2Proof/Machine/Engine.lean: issue of XCOPY, XGATH and XCOLL, and the steps of copy and gather transfers (15 R332 to R342). -/
namespace Sys2Proof.Machine

/-- An extent of signed bounds: none when it leaves the 64-bit address space. -/
def mkExtent (sp : Bool) (lo hi : Int) (wr : Bool) : Option Extent :=
  if 0 ≤ lo ∧ hi < 2 ^ 64 then some ⟨sp, lo.toNat, hi.toNat, wr⟩ else none

/-- The extents of a copy (15 R334): lowest and highest byte of the pattern. -/
def cpExtent (b : List Byte) (base s1 s2 : Nat) (sp wr : Bool) : Option Extent :=
  let r1 := ((cpLen b 1 : Int) - 1) * sval 64 s1
  let r2 := ((cpLen b 2 : Int) - 1) * sval 64 s2
  mkExtent sp (base + min 0 r1 + min 0 r2) (base + max 0 r1 + max 0 r2 + cpLen b 0 - 1) wr

/-- Two extents in one space overlap. -/
def overlaps (x y : Extent) : Bool := decide (x.spad = y.spad) && decide (x.lo ≤ y.hi ∧ y.lo ≤ x.hi)

/-- A scratchpad extent reaches 0x40_0000. -/
def spadBad (x : Extent) : Bool := x.spad && decide (x.hi ≥ 0x400000)

/-- Fields of an XCOPY block within their limits (15 R335): its extents and bytes, or none for ENGINE_FAULT. A memory extent that leaves the address
space is kept as the whole space, which no lease covers. -/
def whole (sp wr : Bool) : Extent := ⟨sp, 0, 2 ^ 64 - 1, wr⟩

def copyFields (b : List Byte) : Option (List Extent × Nat) :=
  let n := cpLen b 0 * cpLen b 1 * cpLen b 2
  let fl := fieldAt b 0x1C 4
  let src := (cpExtent b (fieldAt b 0 8) (fieldAt b 0x20 8) (fieldAt b 0x28 8) (nbit fl 0) false).getD (whole (nbit fl 0) false)
  let dst := (cpExtent b (fieldAt b 8 8) (fieldAt b 0x30 8) (fieldAt b 0x38 8) (nbit fl 1) true).getD (whole (nbit fl 1) true)
  if n = 0 ∨ n > 2 ^ 32 - 1 ∨ fl ≥ 8 ∨ spadBad src = true ∨ spadBad dst = true ∨ overlaps src dst = true then none
  else some ([src, dst], n)

/-- Powers of two from 1 to 4,096. -/
def isPow2 (n k : Nat) : Bool := (List.range (k + 1)).any (fun i => decide (n = 2 ^ i))

/-- Fields of an XGATH block within their limits (15 R336). -/
def gatherFields (b : List Byte) : Option (List Extent × Nat) :=
  let cnt := fieldAt b 0x18 4
  let es := fieldAt b 0x1C 4
  let lim := fieldAt b 0x20 4
  let fl := fieldAt b 0x24 4
  let sc := nbit fl 2
  let t := (mkExtent (nbit fl 0) (fieldAt b 0 8 : Nat) ((fieldAt b 0 8 + lim * es : Nat) - 1) sc).getD (whole (nbit fl 0) sc)
  let l := (mkExtent (nbit fl 1) (fieldAt b 8 8 : Nat) ((fieldAt b 8 8 + cnt * es : Nat) - 1) (!sc)).getD (whole (nbit fl 1) (!sc))
  let x := (mkExtent false (fieldAt b 0x10 8 : Nat) ((fieldAt b 0x10 8 + 4 * cnt : Nat) - 1) false).getD (whole false false)
  let w := if sc then t else l
  let r := if sc then l else t
  if cnt = 0 ∨ cnt > 2 ^ 24 ∨ isPow2 es 12 = false ∨ lim = 0 ∨ fl ≥ 8 ∨ (b.drop 0x28).all (fun y => decide (y = 0)) = false
      ∨ fieldAt b 0 8 % es ≠ 0 ∨ fieldAt b 8 8 % es ≠ 0 ∨ fieldAt b 0x10 8 % 4 ≠ 0
      ∨ spadBad t = true ∨ spadBad l = true ∨ overlaps w r = true ∨ overlaps w x = true then none
  else some ([t, l, x], cnt * es)

/-- Element width in bits of a collective dtype (15 Table 15.4), 0 for any other value. -/
def collEW (dt : Nat) : Nat := if dt = 0 ∨ dt = 11 ∨ dt = 19 then 32 else if dt = 1 ∨ dt = 2 then 16 else if dt = 17 then 8 else 0

/-- Bytes that a collective writes to one member's destination, and counts (15 Table 15.5). -/
def collBytes (op count dt g : Nat) : Nat :=
  if op = 0 then count * collEW dt / 8 / g else if op = 1 then count * collEW dt / 8 * g else if op = 2 then count * collEW dt / 8 else count / g

/-- Fields of an XCOLL block within their limits (15 R337), for a chip whose seal domain is `dom`. -/
def collFields (b : List Byte) (dom : Word) : Option (List Extent × Nat) :=
  let cnt := fieldAt b 0x10 4
  let op := fieldAt b 0x14 1
  let rop := fieldAt b 0x15 1
  let dt := fieldAt b 0x16 1
  let grp := fieldAt b 0x18 8
  let g := countOnes grp 64
  let srcB := if op = 3 then cnt else cnt * collEW dt / 8
  let dstB := collBytes op cnt dt g
  let src := (mkExtent false (fieldAt b 0 8 : Nat) ((fieldAt b 0 8 + srcB : Nat) - 1) false).getD (whole false false)
  let dst := (mkExtent false (fieldAt b 8 8 : Nat) ((fieldAt b 8 8 + dstB : Nat) - 1) true).getD (whole false true)
  if cnt = 0 ∨ cnt > 2 ^ 28 ∨ op > 3 ∨ rop > 2 ∨ ((op = 1 ∨ op = 3) ∧ rop ≠ 0) ∨ collEW dt = 0 ∨ ((op = 3) ≠ (dt = 17))
      ∨ fieldAt b 0x17 1 ≠ 0 ∨ g < 2 ∨ (BitVec.ofNat 64 grp &&& ~~~dom) ≠ 0 ∨ fieldAt b 0x28 16 ≠ 0
      ∨ ((op = 0 ∨ op = 3) ∧ cnt % g ≠ 0) ∨ overlaps src dst = true then none
  else some ([src, dst], dstB)

/-- A page of an extent that the command may not name: MT = 1 (15 R334), and for a collective, whose source and destination are device memory
(Table 15.4), a page of host memory. That the latter raises PERMISSION is the model's choice (log 64). -/
def extentPageBad (coll : Bool) (e : Word) : Bool := decide (leafMT e = 1) || (coll && isHost (leafPA e))

/-- Every byte of the memory extents is inside the lease with the rights the transfer needs (04 R73). -/
def xExtentLeases (l : List Extent) : X Unit :=
  match l with
  | [] => pure ()
  | e :: r => do
    let bad ← xRead (fun s => if e.spad then none else (nodeOf s s.hart.node).bind (fun nd => leaseFail nd e.lo (e.hi + 1 - e.lo) (!e.wr) e.wr false))
    match bad with
    | some a => xTrap .leaseViolation (BitVec.ofNat 64 a)
    | none => xExtentLeases r

/-- The leaves of the memory extents grant the rights, and none is a page that the command may not name (15 R334). -/
def xExtentPages (coll : Bool) (l : List Extent) : X Unit :=
  match l with
  | [] => pure ()
  | e :: r => do
    if e.spad then pure ()
    else do
      xCheck e.lo (e.hi + 1 - e.lo) (!e.wr) e.wr false
      let bad ← xRead (fun s => match nodeOf s s.hart.node with
        | none => none
        | some nd => (upFrom (e.lo / 65536) (e.hi / 65536 + 1 - e.lo / 65536)).find? (fun p => extentPageBad coll (leafAt nd (p * 65536))))
      match bad with
      | some p => xTrap .permission (BitVec.ofNat 64 (max e.lo (p * 65536)))
      | none => pure ()
    xExtentPages coll r

/-- Check every memory extent for the rights the transfer needs (15 R334): R334 gives the extents no order, so LEASE_VIOLATION of any comes before
PERMISSION of any (18 R388). -/
def xExtents (coll : Bool) (l : List Extent) : X Unit := do
  xExtentLeases l
  xExtentPages coll l

/-- Later commands wait for earlier transfers that their extents conflict with (15 R341). -/
def xExtentLocks (l : List Extent) : X Unit :=
  match l with
  | [] => pure ()
  | e :: r => do
    let w ← xRead State.who
    interlock w e.spad e.lo (e.hi + 1 - e.lo) e.wr
    xExtentLocks r

/-- Number of this chip in its seal domain (19 Table 19.3). -/
def chipNum (s : State) : Nat := (mgmtGet s 0x90018).toNat % 64

def collGroup (b : List Byte) : Nat := fieldAt b 0x18 8
def collKey (b : List Byte) : Nat := fieldAt b 0x20 8

/-- Commands that a chip has issued with a group and key (15 R338), and one more of them. -/
def collCount (s : State) (chip : Nat) (group key : Word) : Nat :=
  ((s.collCounts.find? (fun c => decide (c.chip = chip ∧ c.group = group ∧ c.key = key))).map CollCount.count).getD 0

def collCounted (s : State) (chip : Nat) (group key : Word) : State :=
  let n := collCount s chip group key
  { s with collCounts := s.collCounts.filter (fun c => !decide (c.chip = chip ∧ c.group = group ∧ c.key = key)) ++ [⟨chip, group, key, n + 1⟩] }

/-- The transfer that a command of the current hart becomes (15 R332, R339). -/
def newTransfer (s : State) (kind : EngineKind) (b : List Byte) (addr op : Word) (es : List Extent) (total : Nat) : Transfer :=
  let h := s.hart
  let k := if kind = .coll then collCount s (chipNum s) (BitVec.ofNat 64 (collGroup b)) (BitVec.ofNat 64 (collKey b)) else 0
  { num := s.nextXfer, kind := kind, hid := h.hid, node := h.node, task := h.task, lcore := h.lcore, det := h.det, block := b, blockAddr := addr,
    bar := op, since := s.clock, entered := h.since, total := total, done := 0, err := false, extents := es, idx := k, matched := false, taint := [], cover := [], result := [] }

/-- Hand a command over to its engine (15 R332, R339). -/
def handOver (s : State) (t : Transfer) : State :=
  let s1 := { s with transfers := s.transfers ++ [t], nextXfer := s.nextXfer + 1 }
  match t.kind with
  | .coll => raiseEvents (collCounted s1 (chipNum s) (BitVec.ofNat 64 (collGroup t.block)) (BitVec.ofNat 64 (collKey t.block))) [.collMatch t.num]
  | _ => raiseEvents s1 [.engineCount t.num]

/-- Depth of an engine's queue (15 Table 15.1). -/
def queueDepth (kind : EngineKind) : Nat := if kind = .coll then 16 else 32

/-- The queue of the engine of a command is full: it holds the commands handed over and not retired (15 R332). -/
def engineFull (s : State) (t : Transfer) : Bool := decide (queueDepth t.kind ≤ (s.transfers.filter (sameEngine t)).length)

/-- Issue of a command (15 R334): operands, barrier operand, block, fields, extents, in this order; then the table and the engine's
queue must have room (R340, R332). -/
def xCommand (kind : EngineKind) (a b : BitVec 7) : X Unit := do
  xOperands (isS a && isS b)
  let addr ← xS a.toNat
  let op ← xS b.toNat
  let coll := decide (kind = .coll)
  xBarOperand op coll
  xNeed (decide (addr.toNat % 64 = 0)) .misaligned addr
  xCheck addr.toNat 64 true coll false
  let w ← xRead State.who
  interlock w false addr.toNat 64 false
  let blk ← xReadBytes addr.toNat 64
  let dom ← xRead (fun s => mgmtGet s 0x90010)
  let fields := match kind with
    | .copy => copyFields blk
    | .gather => gatherFields blk
    | .coll => collFields blk dom
  match fields with
  | none => xTrap .engineFault addr
  | some (es, total) => do
    xExtents coll es
    xExtentLocks es
    let used ← xRead (fun s => ((s.transfers.filter (fun t => decide (t.hid = w.hid))).map (fun t => t.extents.length)).sum)
    if used + es.length > 64 then xferWaitAll w.hid else pure ()
    let t ← xRead (fun s => newTransfer s kind blk addr op es total)
    let full ← xRead (fun s => engineFull s t)
    if full then xStall else pure ()
    xMod (fun s => (handOver s t).retire)

/-- XCOPY (15 R333, R335). -/
def execXcopy (a b : BitVec 7) (s : State) : Host.Outcome State Fault Refusal := hartOnly s (runX (xCommand .copy a b))
/-- XGATH (15 R333, R336). -/
def execXgath (a b : BitVec 7) (s : State) : Host.Outcome State Fault Refusal := hartOnly s (runX (xCommand .gather a b))
/-- XCOLL (15 R333, R337). -/
def execXcoll (a b : BitVec 7) (s : State) : Host.Outcome State Fault Refusal := hartOnly s (runX (xCommand .coll a b))

/-- Run a step for an agent that is no instruction: a stall leaves the state but for its request; a stop by escalation stands. -/
def runEvent (m : X Unit) (s : State) : Host.Outcome State Fault Refusal :=
  match m s with
  | .ok r => .next r.2
  | .error (.trap _ _ _ _) => .next s
  | .error (.stall q) => .next (applyStall s q)
  | .error (.halt t) => .next t
  | .error (.fault f) => .fault f

/-- Run a step of transfer `x`: the same, and a store that waits for its line is known by the transfer (11 R236). -/
def xferEvent (x : Nat) (m : X Unit) (s : State) : Host.Outcome State Fault Refusal :=
  match m s with
  | .error (.stall q) => .next (stallFor s q (false, x))
  | _ => runEvent m s

/-- The next event of a transfer that its engine serves: a step, or the retirement. -/
def nextStep (t : Transfer) : Instr := if t.done < t.total then .engineCount t.num else .transferRetire t.num

/-- After a counting step: the next event of the engine. -/
def xferNext (t : Transfer) (s : State) : State := (engineHead s t).elim s (fun h => raiseEvents s [nextStep h])

/-- Is it the command that its engine serves now (15 R332)? -/
def isHead (s : State) (t : Transfer) : Bool := (engineHead s t).map Transfer.num == some t.num

/-- ENGINE_COUNT (15 R339, R352): a step of at most 65,536 bytes of the command that the engine serves is performed and counted. A step that must wait
is tried again. -/
def execEngineCount (x : Nat) (s : State) : Host.Outcome State Fault Refusal :=
  match s.transfers.find? (fun t => decide (t.num = x)) with
  | none => .next s
  | some t =>
    if t.done < t.total ∧ isHead s t = true then xferEvent x (do
      xferStep t
      xMod (xferNext t)) s
    else .next s

/-- TRANSFER_RETIRE (15 R339): its last byte is counted. -/
def execTransferRetire (x : Nat) (s : State) : Host.Outcome State Fault Refusal :=
  match s.transfers.find? (fun t => decide (t.num = x)) with
  | none => .next s
  | some t => if t.total ≤ t.done then .next (retireXfer s t) else .next s

end Sys2Proof.Machine
end

