-- ==== Sys2Proof/Machine/Flags.lean ====
section
/-! DEFINITION. Sys2Proof/Machine/Flags.lean: number formats, rounding, overflow, saturation, NaN and the sticky flags (07 R145 to R158). Numbers are
encodings held as Nat; an exact real is a fraction (numerator, denominator). -/
namespace Sys2Proof.Machine

/-- A floating-point format: exponent bits, fraction bits, infinities (07 Table 7.1). -/
structure FFmt where
  eb : Nat
  fb : Nat
  inf : Bool
deriving DecidableEq, Repr

def f32F : FFmt := ⟨8, 23, true⟩
def f16F : FFmt := ⟨5, 10, true⟩
def bf16F : FFmt := ⟨8, 7, true⟩
def f8aF : FFmt := ⟨4, 3, false⟩
def f8bF : FFmt := ⟨5, 2, true⟩

def FFmt.bias (F : FFmt) : Nat := 2 ^ (F.eb - 1) - 1
def FFmt.width (F : FFmt) : Nat := 1 + F.eb + F.fb
def FFmt.signBit (F : FFmt) (neg : Bool) : Nat := if neg then 2 ^ (F.eb + F.fb) else 0
/-- The default NaN (07 Table 7.2). -/
def FFmt.nan (F : FFmt) : Nat := if F.inf then (2 ^ F.eb - 1) * 2 ^ F.fb + 2 ^ (F.fb - 1) else 2 ^ (F.eb + F.fb) - 1
def FFmt.infinity (F : FFmt) (neg : Bool) : Nat := F.signBit neg + (2 ^ F.eb - 1) * 2 ^ F.fb
/-- The largest finite value. -/
def FFmt.maxFin (F : FFmt) (neg : Bool) : Nat := F.signBit neg + (if F.inf then (2 ^ F.eb - 1) * 2 ^ F.fb - 1 else 2 ^ (F.eb + F.fb) - 2)

/-- An exact real as a fraction with a positive denominator. -/
abbrev Frac := Int × Nat

def fracAdd (x y : Frac) : Frac := (x.1 * y.2 + y.1 * x.2, x.2 * y.2)
def fracMul (x y : Frac) : Frac := (x.1 * y.1, x.2 * y.2)
def fracNeg (x : Frac) : Frac := (-x.1, x.2)
/-- x times 2^e. -/
def fracShift (x : Frac) (e : Int) : Frac := if 0 ≤ e then (x.1 * 2 ^ e.toNat, x.2) else (x.1, x.2 * 2 ^ (-e).toNat)
def fracLt (x y : Frac) : Bool := decide (x.1 * y.2 < y.1 * x.2)
def fracEq (x y : Frac) : Bool := decide (x.1 * y.2 = y.1 * x.2)
def fracOfInt (x : Int) : Frac := (x, 1)
def fracFloor (x : Frac) : Int := x.1 / x.2

/-- The value of an encoding (07 R145): NaN, an infinity, or a finite value with its sign. -/
inductive FVal where
  | nan
  | inf (neg : Bool)
  | fin (neg : Bool) (x : Frac)
deriving DecidableEq, Repr

def FVal.neg (v : FVal) : FVal :=
  match v with
  | .nan => .nan
  | .inf s => .inf (!s)
  | .fin s x => .fin (!s) (fracNeg x)

/-- Read an encoding. -/
def FFmt.val (F : FFmt) (b : Nat) : FVal :=
  let s := nbit b (F.eb + F.fb)
  let e := nbits b F.fb F.eb
  let f := nbits b 0 F.fb
  let top := decide (e = 2 ^ F.eb - 1)
  let sg : Int := if s then -1 else 1
  if top && F.inf then (if f = 0 then .inf s else .nan)
  else if top && decide (f = 2 ^ F.fb - 1) then .nan
  else if e = 0 then .fin s (fracShift (sg * f, 1) (1 - (F.bias : Int) - F.fb))
  else .fin s (fracShift (sg * (2 ^ F.fb + f : Nat), 1) ((e : Int) - F.bias - F.fb))

def FVal.isZero (v : FVal) : Bool :=
  match v with
  | .fin _ x => decide (x.1 = 0)
  | _ => false

/-- Rounding modes (07 R149, Table 7.4): 0 RNE, 1 RTZ, 2 RDN, 3 RUP. Round away from zero, given the magnitude's floor m, the remainder r of a
division by D? -/
def roundsUp (mode : Nat) (neg : Bool) (m r D : Nat) : Bool :=
  if mode = 0 then decide (D < 2 * r) || (decide (2 * r = D) && decide (m % 2 = 1))
  else if mode = 1 then false
  else if mode = 2 then neg && decide (r ≠ 0)
  else !neg && decide (r ≠ 0)

/-- The magnitude n/d in units of 2^q, rounded: the count of units, and whether rounding changed it. -/
def roundUnits (mode : Nat) (neg : Bool) (n d : Nat) (q : Int) : Nat × Bool :=
  let N := if 0 ≤ q then n else n * 2 ^ (-q).toNat
  let D := if 0 ≤ q then d * 2 ^ q.toNat else d
  let m := N / D
  let r := N % D
  (if roundsUp mode neg m r D then m + 1 else m, decide (r ≠ 0))

/-- floor(log2(n/d)) of a positive fraction. -/
def log2Floor (n d : Nat) : Int :=
  let k : Int := (Nat.log2 n : Int) - Nat.log2 d
  let ge := if 0 ≤ k then decide (d * 2 ^ k.toNat ≤ n) else decide (d ≤ n * 2 ^ (-k).toNat)
  if ge then k else k - 1

/-- Sticky flags (07 Table 7.7). -/
def flNX : Nat := 1
def flUF : Nat := 2
def flOF : Nat := 4
def flDZ : Nat := 8
def flNV : Nat := 16
def flSAT : Nat := 32

/-- A result: encoding, flags that it sets, and its overflow-mask bit (07 R153). -/
structure Res where
  val : Nat
  fl : Nat
  ovm : Bool
deriving DecidableEq, Repr

def Res.pure (v : Nat) : Res := ⟨v, 0, false⟩

/-- An overflowed result (07 R151, Table 7.5). -/
def overflowRes (F : FFmt) (mode : Nat) (clamp neg : Bool) : Res :=
  if !F.inf || clamp then ⟨F.maxFin neg, flOF + flNX + flSAT, true⟩
  else if mode = 0 then ⟨F.infinity neg, flOF + flNX, true⟩
  else if mode = 1 then ⟨F.maxFin neg, flOF + flNX, true⟩
  else if (mode = 2) = neg then ⟨F.infinity neg, flOF + flNX, true⟩
  else ⟨F.maxFin neg, flOF + flNX, true⟩

/-- Round a non-zero magnitude n/d with a sign into a format (07 R149, R151). `clamp`: overflow delivers the largest finite value. A magnitude that rounds to
zero keeps its sign (DESIGN CHOICE, log 73). -/
def roundMag (F : FFmt) (mode : Nat) (clamp neg : Bool) (n d : Nat) : Res :=
  let e := log2Floor n d
  let qmin : Int := 1 - (F.bias : Int) - F.fb
  let q := max (e - F.fb) qmin
  let r := roundUnits mode neg n d q
  let free := roundUnits mode neg n d (e - F.fb)
  let small := (1 - (F.bias : Int)) - (e - F.fb)
  let tiny := decide (0 < small) && decide (free.1 < 2 ^ small.toNat)
  let bits := if r.1 < 2 ^ F.fb then r.1
    else if r.1 < 2 ^ (F.fb + 1) then ((q + F.fb + F.bias).toNat) * 2 ^ F.fb + (r.1 - 2 ^ F.fb)
    else ((q + F.fb + F.bias).toNat + 1) * 2 ^ F.fb
  if bits > F.maxFin false then overflowRes F mode clamp neg
  else ⟨F.signBit neg + bits, (if r.2 then flNX else 0) + (if r.2 && tiny then flUF else 0), false⟩

/-- Round an exact real (07 R149); `zneg` is the sign of an exact zero. -/
def roundF (F : FFmt) (mode : Nat) (clamp zneg : Bool) (x : Frac) : Res :=
  if x.1 = 0 then Res.pure (F.signBit zneg) else roundMag F mode clamp (decide (x.1 < 0)) x.1.natAbs x.2

def nanRes (F : FFmt) : Res := Res.pure F.nan
def nvRes (F : FFmt) : Res := ⟨F.nan, flNV, false⟩

/-- Sign of an exact zero sum: +0.0, in RDN -0.0, for operands of opposite signs (07 R149); that two zeros of one sign keep it is the model's choice (log 73). -/
def zeroSum (mode : Nat) (s t : Bool) : Bool := if s = t then s else decide (mode = 2)

/-- a + b (07 R149, R154). -/
def fAdd (F : FFmt) (mode : Nat) (sat : Bool) (a b : FVal) : Res :=
  match a, b with
  | .nan, _ => nanRes F
  | _, .nan => nanRes F
  | .inf s, .inf t => if s = t then Res.pure (F.infinity s) else nvRes F
  | .inf s, _ => Res.pure (F.infinity s)
  | _, .inf t => Res.pure (F.infinity t)
  | .fin s x, .fin t y => roundF F mode sat (zeroSum mode s t) (fracAdd x y)

/-- The exact product as a value: none for 0 times infinity. A zero product has the sign that differing operand signs make negative (DESIGN CHOICE, log 73). -/
def fProd (a b : FVal) : Option FVal :=
  match a, b with
  | .nan, _ => some .nan
  | _, .nan => some .nan
  | .inf s, .inf t => some (.inf (s != t))
  | .inf s, .fin t y => if y.1 = 0 then none else some (.inf (s != t))
  | .fin s x, .inf t => if x.1 = 0 then none else some (.inf (s != t))
  | .fin s x, .fin t y => some (.fin (s != t) (fracMul x y))

/-- Round a value that is exact but for its format. That a zero keeps its sign in another format, and that the integer 0 becomes +0.0, is the model's choice (log 73). -/
def roundV (F : FFmt) (mode : Nat) (clamp : Bool) (v : FVal) : Res :=
  match v with
  | .nan => nanRes F
  | .inf s => Res.pure (F.infinity s)
  | .fin s x => roundF F mode clamp s x

/-- a times b. -/
def fMul (F : FFmt) (mode : Nat) (sat : Bool) (a b : FVal) : Res :=
  match fProd a b with
  | none => nvRes F
  | some v => roundV F mode sat v

/-- a times b plus d, one rounding; 0 times infinity is invalid whatever the addend (07 R154). -/
def fFma (F : FFmt) (mode : Nat) (sat : Bool) (a b d : FVal) : Res :=
  match fProd a b with
  | none => nvRes F
  | some v => fAdd F mode sat v d

/-- a / b (07 R154). A zero quotient has the sign that differing operand signs make negative; so has the infinity of a division by zero, of which R154 gives no sign,
and an infinity divided by zero is that infinity without a flag (DESIGN CHOICE, log 73). -/
def fDiv (F : FFmt) (mode : Nat) (sat : Bool) (a b : FVal) : Res :=
  match a, b with
  | .nan, _ => nanRes F
  | _, .nan => nanRes F
  | .inf _, .inf _ => nvRes F
  | .inf s, .fin t _ => Res.pure (F.infinity (s != t))
  | .fin s _, .inf t => Res.pure (F.signBit (s != t))
  | .fin s x, .fin t y =>
    if y.1 = 0 then (if x.1 = 0 then nvRes F else ⟨F.infinity (s != t), flDZ, false⟩)
    else roundF F mode sat (s != t) (x.1 * y.2 * y.1.sign, x.2 * y.1.natAbs)

/-- floor(sqrt n), from bit k down. -/
def isqrtFrom (n k r : Nat) : Nat :=
  match k with
  | 0 => r
  | k + 1 => if (r + 2 ^ k) * (r + 2 ^ k) ≤ n then isqrtFrom n k (r + 2 ^ k) else isqrtFrom n k r

/-- A fraction between sqrt(x) rounded down and up to `p` bits after the point, equal to sqrt(x) only when that is exact: half a unit stands for what is
cut off. -/
def sqrtSticky (x : Frac) (p : Nat) : Frac :=
  let N := x.1.natAbs * x.2 * 4 ^ p
  let r := isqrtFrom N (Nat.log2 N / 2 + 1) 0
  if r * r = N then ((r : Int), x.2 * 2 ^ p) else ((2 * r + 1 : Nat), x.2 * 2 ^ (p + 1))

/-- Square root (08 Table 8.6): the scaled root has 40 bits beyond those that any format keeps. -/
def fSqrt (F : FFmt) (mode : Nat) (sat : Bool) (a : FVal) : Res :=
  match a with
  | .nan => nanRes F
  | .inf s => if s then nvRes F else Res.pure (F.infinity false)
  | .fin s x =>
    if x.1 = 0 then Res.pure (F.signBit s)
    else if x.1 < 0 then nvRes F
    else roundF F mode sat false (sqrtSticky x 240)

/-- a < b of values that are not NaN, under -0.0 = +0.0. -/
def fLt (a b : FVal) : Bool :=
  match a, b with
  | .inf s, .inf t => s && !t
  | .inf s, .fin _ _ => s
  | .fin _ _, .inf t => !t
  | .fin _ x, .fin _ y => fracLt x y
  | _, _ => false

def fEq (a b : FVal) : Bool :=
  match a, b with
  | .inf s, .inf t => s == t
  | .fin _ x, .fin _ y => fracEq x y
  | _, _ => false

/-- The order of VFMIN and VFMAX (08 R180), where -0.0 < +0.0: is a below b? -/
def fBelow (a b : FVal) : Bool :=
  match a, b with
  | .fin s x, .fin t y => fracLt x y || (fracEq x y && s && !t)
  | _, _ => fLt a b

def FVal.sign (v : FVal) : Bool :=
  match v with
  | .nan => false
  | .inf s => s
  | .fin s _ => s

/-- Round to an integer (07 R149). -/
def roundInt (mode : Nat) (x : Frac) : Int × Bool :=
  let neg := decide (x.1 < 0)
  let r := roundUnits mode neg x.1.natAbs x.2 0
  (if neg then -(r.1 : Int) else (r.1 : Int), r.2)

/-- Range of an integer type. -/
def intMin (w : Nat) (signed : Bool) : Int := if signed then -(2 ^ (w - 1) : Nat) else 0
def intMax (w : Nat) (signed : Bool) : Int := if signed then (2 ^ (w - 1) : Nat) - 1 else (2 ^ w : Nat) - 1
def inRange (w : Nat) (signed : Bool) (x : Int) : Bool := decide (intMin w signed ≤ x ∧ x ≤ intMax w signed)
def clampI (w : Nat) (signed : Bool) (x : Int) : Int := max (intMin w signed) (min x (intMax w signed))

/-- Read an element as an integer. -/
def readI (w : Nat) (signed : Bool) (v : Nat) : Int := if signed then sval w v else (v : Int)

/-- An integer result marked "range" (07 R152, 08 R176). -/
def intRes (w : Nat) (signed sat : Bool) (x : Int) : Res :=
  if inRange w signed x then Res.pure (wrapI w x)
  else if sat then ⟨wrapI w (clampI w signed x), flSAT, true⟩
  else ⟨wrapI w x, 0, true⟩

/-- Conversion of a float to an integer type (07 R152). -/
def floatToInt (w : Nat) (signed : Bool) (mode : Nat) (a : FVal) : Res :=
  match a with
  | .nan => ⟨0, flNV, true⟩
  | .inf s => ⟨wrapI w (if s then intMin w signed else intMax w signed), flNV + flSAT, true⟩
  | .fin _ x =>
    let r := roundInt mode x
    if inRange w signed r.1 then ⟨wrapI w r.1, if r.2 then flNX else 0, false⟩
    else ⟨wrapI w (clampI w signed r.1), flNV + flSAT, true⟩

/-- Conversion between floats (08 R183): overflow clamps; an infinity into f8a gives 448 with SAT (07 R151). -/
def floatToFloat (F : FFmt) (mode : Nat) (a : FVal) : Res :=
  match a with
  | .inf s => if F.inf then Res.pure (F.infinity s) else ⟨F.maxFin s, flSAT, true⟩
  | v => roundV F mode true v

/-- Conversion of a value to a grouped code with an entry of the scale file (07 R148): Q is 15 or 255. -/
def toCode (Q mode : Nat) (a : FVal) (entry : Nat) : Res :=
  let z := nbits entry 16 8
  match a, f16F.val (entry % 65536) with
  | .fin _ x, .fin _ sc =>
    if sc.1 = 0 then ⟨min z Q, flNV, true⟩
    else
      let r := roundInt mode (x.1 * sc.2 * sc.1.sign, x.2 * sc.1.natAbs)
      let y := r.1 + z
      let q := min (max y 0) (Q : Int)
      ⟨q.toNat, (if q ≠ y then flSAT else 0) + (if r.2 then flNX else 0), decide (q ≠ y)⟩
  | .inf s, .fin _ sc =>
    if sc.1 = 0 then ⟨min z Q, flNV, true⟩
    else ⟨if s = decide (sc.1 < 0) then Q else 0, flSAT, true⟩
  | _, _ => ⟨min z Q, flNV, true⟩

/-- Dequant (07 R147) in f32. A zero is negative where the signs of s and of q - z, a zero counting as positive, differ (DESIGN CHOICE, log 73). -/
def dequant (entry q : Nat) : Res :=
  let dz : Int := (q : Int) - nbits entry 16 8
  match f16F.val (entry % 65536) with
  | .nan => nanRes f32F
  | .inf s => if dz = 0 then nvRes f32F else Res.pure (f32F.infinity (s != decide (dz < 0)))
  | .fin s sc => roundF f32F 0 false (s != decide (dz < 0)) (fracMul sc (dz, 1))

/-- Class bit of VFCLASS (08 R181). -/
def fClass (F : FFmt) (b : Nat) : Nat :=
  let e := nbits b F.fb F.eb
  match F.val b with
  | .nan => 256
  | .inf s => if s then 1 else 128
  | .fin s x => if x.1 = 0 then (if s then 8 else 16) else if e = 0 then (if s then 4 else 32) else if s then 2 else 64

/-- A sum that keeps the larger of two denominators when the smaller divides it. -/
def fracSum (x y : Frac) : Frac :=
  if y.2 % x.2 = 0 then (x.1 * (y.2 / x.2 : Nat) + y.1, y.2)
  else if x.2 % y.2 = 0 then (x.1 + y.1 * (x.2 / y.2 : Nat), x.2)
  else fracAdd x y

/-- An exact product or sum with the NV of 0 times infinity or of infinities of both signs (07 R154). -/
structure Exact where
  v : FVal
  nv : Bool
deriving DecidableEq, Repr

def exMul (a b : FVal) : Exact :=
  match fProd a b with
  | none => ⟨.nan, true⟩
  | some v => ⟨v, false⟩

def exAdd (x : Exact) (y : Exact) : Exact :=
  match x.v, y.v with
  | .nan, _ => ⟨.nan, x.nv || y.nv⟩
  | _, .nan => ⟨.nan, x.nv || y.nv⟩
  | .inf s, .inf t => if s = t then ⟨.inf s, x.nv || y.nv⟩ else ⟨.nan, true⟩
  | .inf s, _ => ⟨.inf s, x.nv || y.nv⟩
  | _, .inf t => ⟨.inf t, x.nv || y.nv⟩
  | .fin s p, .fin t q =>
    let z := fracSum p q
    ⟨.fin (if z.1 = 0 then zeroSum 0 s t else decide (z.1 < 0)) z, x.nv || y.nv⟩

/-- The pairwise tree (07 R158): leaves are values or Empty. One level. -/
def pairLevel {α : Type} (op : α → α → α) (l : List (Option α)) : List (Option α) :=
  match l with
  | none :: y :: r => y :: pairLevel op r
  | some x :: none :: r => some x :: pairLevel op r
  | some x :: some y :: r => some (op x y) :: pairLevel op r
  | [x] => [x]
  | [] => []

/-- PairTree with at most 2^k leaves. -/
def pairTree {α : Type} (op : α → α → α) (k : Nat) (l : List (Option α)) : Option α :=
  match k with
  | 0 => l.headD none
  | k + 1 => pairTree op k (pairLevel op l)

end Sys2Proof.Machine
end

