-- ==== Sys2Proof/Machine/Special.lean ====
section
/-! DEFINITION. Sys2Proof/Machine/Special.lean: the special functions by TablePoly (07 R159 to R161, Tables 7.8 and 7.10). Coefficients that are no
fractions are computed in fixed point with 256 bits after the point and then rounded to binary64 (log 9). -/
namespace Sys2Proof.Machine

/-- RNE to the 53 bits of binary64; every coefficient lies inside its exponent range. -/
def toB64 (x : Frac) : Frac :=
  if x.1 = 0 then (0, 1)
  else
    let q := log2Floor x.1.natAbs x.2 - 52
    let r := roundUnits 0 (decide (x.1 < 0)) x.1.natAbs x.2 q
    fracShift (x.1.sign * r.1, 1) q

/-- Bits after the point of the fixed-point numbers. -/
def fixBits : Nat := 256
def fixOne : Int := 2 ^ fixBits

/-- 2 times the sum of z^(2k+1)/(2k+1), k < n: 2 atanh z of a fixed-point z. -/
def atanhTwice (z : Int) (n : Nat) : Int :=
  let z2 := z * z / fixOne
  2 * ((List.range n).foldl (fun (acc : Int × Int) k => (acc.1 + acc.2 / (2 * k + 1 : Nat), acc.2 * z2 / fixOne)) (0, z)).1

/-- ln 2 = 2 atanh(1/3). -/
def ln2Fix : Int := atanhTwice (fixOne / 3) 90

/-- ln of a fraction near 1: 2 atanh((c - 1)/(c + 1)). -/
def lnFix (c : Frac) : Int := atanhTwice ((c.1 - c.2) * fixOne / (c.1 + c.2)) 70

/-- exp of a fixed-point number from 0 to 1, by its series. -/
def expFix (r : Int) : Int :=
  ((List.range 70).foldl (fun (acc : Int × Int) k => (acc.1 + acc.2, acc.2 * r / fixOne / (k + 1 : Nat))) (0, fixOne)).1

/-- exp of a positive fraction, as a fraction: exp(v) = exp(v - k ln 2) 2^k. -/
def expFrac (v : Frac) : Frac :=
  let f := v.1 * fixOne / v.2
  let k := (f / ln2Fix).toNat
  (expFix (f - k * ln2Fix) * 2 ^ k, fixOne.toNat)

/-- An exact fraction with a positive denominator from two integers. -/
def fracDiv (x y : Frac) : Frac := (x.1 * y.2 * y.1.sign, x.2 * y.1.natAbs)

/-- P = A0 + A1 d + A2 d^2 (+ A3 d^3) of rounded coefficients (07 R159). -/
def polyAt (coef : List Frac) (d : Frac) : Frac := coef.foldr (fun a acc => fracAdd (toB64 a) (fracMul d acc)) (0, 1)

/-- The five special functions. -/
inductive SpecFn where
  | rcp
  | rsq
  | exp2
  | log2
  | tanh
deriving DecidableEq, Repr

/-- The coefficients f^(i)(c)/i! at a centre (07 R159). -/
def specCoef (f : SpecFn) (c : Frac) (cubic : Bool) : List Frac :=
  match f with
  | .rcp => let i := fracDiv (1, 1) c
            [i, fracNeg (fracMul i i), fracMul i (fracMul i i)]
  | .rsq => let i := fracDiv (1, 1) c
            let i3 := fracMul i (fracMul i i)
            [sqrtSticky i 200, fracNeg (sqrtSticky (fracMul i3 (1, 4)) 200), sqrtSticky (fracMul (fracMul i3 (fracMul i i)) (9, 64)) 200]
  | .exp2 => let l : Frac := (ln2Fix, fixOne.toNat)
             let a := (expFix (c.1 * ln2Fix / c.2), fixOne.toNat)
             [a, fracMul l a, fracMul (fracMul l l) (fracMul a (1, 2))]
  | .log2 => let r : Frac := (fixOne, ln2Fix.toNat)
             let i := fracDiv (1, 1) c
             let a0 : Frac := if cubic then (0, 1) else (lnFix c, ln2Fix.toNat)
             let base := [a0, fracMul r i, fracNeg (fracMul (fracMul r (1, 2)) (fracMul i i))]
             if cubic then base ++ [fracMul r (1, 3)] else base
  | .tanh => let e := expFrac (fracMul (2, 1) c)
             let t := fracDiv (fracAdd e (-1, 1)) (fracAdd e (1, 1))
             let d := fracDiv (fracMul (4, 1) e) (fracMul (fracAdd e (1, 1)) (fracAdd e (1, 1)))
             [t, d, fracNeg (fracMul t d)]

/-- The value of TablePoly at y in the interval with centre c. -/
def tablePoly (f : SpecFn) (c y : Frac) (cubic : Bool) : Frac := polyAt (specCoef f c cubic) (fracAdd y (fracNeg c))

/-- Keep an exponent in a range beyond every format: results overflow or vanish alike outside it. -/
def clampExp (n : Int) : Int := max (-4000) (min n 4000)

/-- VFRCP of a finite non-zero source of magnitude m 2^e. -/
def specRcp (neg : Bool) (m : Frac) (e : Int) : Frac :=
  let r := if m.1 = m.2 then (1, 1)
    else
      let j := (fracFloor (fracMul (fracAdd m (-1, 1)) (256, 1)))
      tablePoly .rcp (513 + 2 * j, 512) m false
  fracShift (if neg then fracNeg r else r) (-e)

/-- VFRSQ of a positive source. -/
def specRsq (m : Frac) (e : Int) : Frac :=
  let y := if e % 2 = 0 then m else fracMul m (2, 1)
  let e2 := if e % 2 = 0 then e else e - 1
  let j := fracFloor (fracMul (fracAdd y (-1, 1)) (256, 1))
  fracShift (tablePoly .rsq (513 + 2 * j, 512) y false) (-(e2 / 2))

/-- VFEXP2 of a finite source. -/
def specExp2 (x : Frac) : Frac :=
  let n := fracFloor x
  let y := fracAdd x (-n, 1)
  let p := if y.1 = 0 then (1, 1) else
    let j := fracFloor (fracMul y (256, 1))
    tablePoly .exp2 (2 * j + 1, 512) y false
  fracShift p (clampExp n)

/-- VFLOG2 of a positive source. -/
def specLog2 (m : Frac) (e : Int) : Frac :=
  if m.1 = m.2 then (e, 1)
  else
    let up := decide (3 * (m.2 : Int) ≤ 2 * m.1)
    let y := if up then fracMul m (1, 2) else m
    let e2 := if up then e + 1 else e
    let j := fracFloor (fracMul (fracAdd y (-3, 4)) (256, 1))
    let mid := decide (j = 63 ∨ j = 64)
    fracAdd (e2, 1) (tablePoly .log2 (if mid then (1, 1) else (385 + 2 * j, 512)) y mid)

/-- VFTANH of a magnitude from 2^-12 to below 16. -/
def specTanh (x m : Frac) (e : Int) : Frac :=
  let j := fracFloor (fracMul (fracAdd m (-1, 1)) (128, 1))
  tablePoly .tanh (fracShift (257 + 2 * j, 256) e) x false

/-- A finite non-zero source. -/
def specFin (F : FFmt) (sat : Bool) (f : SpecFn) (neg : Bool) (x : Frac) : Res :=
  let a : Frac := (x.1.natAbs, x.2)
  let e := log2Floor x.1.natAbs x.2
  let m := fracShift a (-e)
  match f with
  | .rcp => roundF F 0 sat neg (specRcp neg m e)
  | .rsq => if neg then nvRes F else roundF F 0 sat false (specRsq m e)
  | .exp2 => roundF F 0 sat false (specExp2 x)
  | .log2 => if neg then nvRes F else roundF F 0 sat false (specLog2 m e)
  | .tanh =>
    if e < -12 then
      let r := roundF F 0 sat neg x
      ⟨r.val, r.fl ||| flNX, r.ovm⟩
    else if 4 ≤ e then
      let r := roundF F 0 sat neg (if neg then (-1, 1) else (1, 1))
      ⟨r.val, r.fl ||| flNX, r.ovm⟩
    else
      let p := specTanh a m e
      roundF F 0 sat neg (if neg then fracNeg p else p)

/-- A special function (07 R160, R161, Table 7.8). -/
def specRes (F : FFmt) (sat : Bool) (f : SpecFn) (v : FVal) : Res :=
  match v with
  | .nan => nanRes F
  | .inf s =>
    (match f with
     | .rcp => Res.pure (F.signBit s)
     | .rsq => if s then nvRes F else Res.pure 0
     | .exp2 => if s then Res.pure 0 else Res.pure (F.infinity false)
     | .log2 => if s then nvRes F else Res.pure (F.infinity false)
     | .tanh => roundF F 0 sat s (if s then (-1, 1) else (1, 1)))
  | .fin s x =>
    if x.1 = 0 then
      (match f with
       | .rcp => ⟨F.infinity s, flDZ, false⟩
       | .rsq => ⟨F.infinity s, flDZ, false⟩
       | .exp2 => roundF F 0 sat false (1, 1)
       | .log2 => ⟨F.infinity true, flDZ, false⟩
       | .tanh => Res.pure (F.signBit s))
    else specFin F sat f s x

end Sys2Proof.Machine
end

