-- ==== Sys2Proof/Machine/Vector.lean ====
section
/-! DEFINITION. Sys2Proof/Machine/Vector.lean: vector elements and configuration (08 R162 to R167), streams and their element walk (09 R189 to R199), bound
reads (09 R208), the recompute check (08 R186, R187), and the shape of every element-wise instruction (08 R172 to R175). -/
namespace Sys2Proof.Machine

/-- Classes of element formats (08 Table 8.2). -/
inductive FClass where
  | float
  | narrow
  | sint
  | uint
  | grouped
  | none
deriving DecidableEq, Repr

def fmtClass (c : Nat) : FClass :=
  if c ≤ 2 then .float else if c ≤ 4 then .narrow else if 8 ≤ c ∧ c ≤ 12 then .sint else if 16 ≤ c ∧ c ≤ 20 then .uint
  else if c = 24 ∨ c = 25 then .grouped else .none

/-- Element width in bits, 0 for a reserved code (08 Table 8.2). -/
def fmtEW (c : Nat) : Nat :=
  if c = 0 then 32 else if c = 1 ∨ c = 2 then 16 else if c = 3 ∨ c = 4 then 8 else if 8 ≤ c ∧ c ≤ 12 then 2 ^ (c - 6)
  else if 16 ≤ c ∧ c ≤ 20 then 2 ^ (c - 14) else if c = 24 then 4 else if c = 25 then 8 else 0

def fmtFloat (c : Nat) : FFmt := if c = 0 then f32F else if c = 1 then f16F else if c = 2 then bf16F else if c = 3 then f8aF else f8bF

/-- Fields of vtype (08 Table 8.1). -/
def Vec.fmt (v : Vec) : Nat := v.vtype.toNat % 32
def Vec.blk (v : Vec) : Nat := nbits v.vtype.toNat 5 3
def Vec.ovm (v : Vec) : Nat := nbits v.vtype.toNat 8 4
def Vec.sat (v : Vec) : Bool := nbit v.vtype.toNat 12
def Vec.ew (v : Vec) : Nat := fmtEW v.fmt
def Vec.cls (v : Vec) : FClass := fmtClass v.fmt
def Vec.signed (v : Vec) : Bool := v.cls == .sint
def Vec.isInt (v : Vec) : Bool := v.cls == .sint || v.cls == .uint
def Vec.ncol (v : Vec) : Nat := v.vshape.toNat % 2 ^ 20
def Vec.nrow (v : Vec) : Nat := v.vshape.toNat / 2 ^ 20

/-- VLMAXE of a format (08 R165). -/
def Hart.vlmaxeOf (h : Hart) (fmt : Nat) : Nat := h.vlmax * 8 / fmtEW fmt
def Hart.vlmaxe (h : Hart) : Nat := h.vlmaxeOf h.vec.fmt

/-- Element e of width w of vector register n (07 R146, 05 R92). -/
def getEl (m : Store 8) (n w e : Nat) : Nat :=
  if w = 4 then
    let b := (Store.get zeroOf m (n * 98304 + e / 2)).toNat
    if e % 2 = 0 then b % 16 else b / 16
  else bytesNat (Store.read zeroOf m (n * 98304 + e * (w / 8)) (w / 8))

def setEl (m : Store 8) (n w e v : Nat) : Store 8 :=
  if w = 4 then
    let k := n * 98304 + e / 2
    let b := (Store.get zeroOf m k).toNat
    Store.set zeroOf m k (BitVec.ofNat 8 (if e % 2 = 0 then b / 16 * 16 + v % 16 else b % 16 + v % 16 * 16))
  else Store.write zeroOf m (n * 98304 + e * (w / 8)) (natBytes v (w / 8))

/-- Join writes to consecutive keys: contiguous elements of one store reach memory as one access. -/
def joinRuns {α : Type} (l : List (Nat × List α)) : List (Nat × List α) :=
  l.foldr (fun p acc => match acc with
    | (a, bs) :: rest => if p.1 + p.2.length = a then (p.1, p.2 ++ bs) :: rest else p :: acc
    | [] => [p]) []

/-- M[n][e] (05 R95). -/
def Vec.mask (v : Vec) (n e : Nat) : Bool := decide (Store.get zeroOf v.masks (n * 2 ^ 18 + e) = 1)
def setMask (m : Store 1) (n e : Nat) (b : Bool) : Store 1 := Store.set zeroOf m (n * 2 ^ 18 + e) (if b then 1 else 0)

def putMasks (m : Store 1) (n : Nat) (l : List (Nat × Bool)) : Store 1 :=
  (joinRuns (l.map (fun p => (n * 2 ^ 18 + p.1, [if p.2 then (1 : BitVec 1) else 0])))).foldl (fun acc p => Store.write zeroOf acc p.1 p.2) m

/-- Stream register n. -/
def Vec.stream (v : Vec) (n : Nat) : Stream := v.streams.getD n Stream.zero
def Vec.setStream (v : Vec) (n : Nat) (q : Stream) : Vec := { v with streams := v.streams.set n q }

/-- Element e of a stream access is padding (09 R194). -/
def Stream.pad (q : Stream) (e : Nat) : Bool := decide (q.count ≠ 0) && decide (q.count.toNat ≤ q.pos.toNat + e)

/-- The active elements of an instruction in ascending order (05 Table 5.8): from vstart below vl, under the mask, no padding. -/
def Vec.active (v : Vec) (masked : Bool) (pads : List Stream) : List Nat :=
  (upFrom v.vstart.toNat (v.vl.toNat - v.vstart.toNat)).filter (fun e => (!masked || v.mask 0 e) && !pads.any (fun q => q.pad e))

/-- The stream a vector register is bound to (09 R208). -/
def Vec.boundTo (v : Vec) (reg : Nat) : Option Nat := (List.range 16).find? (fun i => (v.stream i).bound && decide ((v.stream i).breg.toNat = reg))
def Vec.isBound (v : Vec) (reg : Nat) : Bool := (v.boundTo reg).isSome

/-- Signed stride, and A of 09 R193. -/
def Stream.step (q : Stream) : Int := q.stride.toInt
def Stream.origin (q : Stream) : Int := q.base.toNat + q.pos.toNat * q.step

/-- The stream moves on by vl (09 R195). A position beyond the field of Table 9.1 is not stated: a free value. -/
def Stream.advance (q : Stream) (vl free : Nat) : Stream :=
  let p := q.pos.toNat + vl
  { q with pos := if q.count ≠ 0 then BitVec.ofNat 40 (min p q.count.toNat) else if p < 2 ^ 40 then BitVec.ofNat 40 p
                  else BitVec.ofNat 40 (Config.freeWord free).toNat }

def advanceStream (s : State) (n : Nat) : State :=
  bumpFree (s.modVec (fun v => v.setStream n ((v.stream n).advance v.vl.toNat s.free)))

/-- Address of element e of a unit-stride walk: a byte for a packed stream (09 R192, R193). -/
def Stream.unitAddr (q : Stream) (w e : Nat) : Nat :=
  if w = 4 then (q.base.toNat + (q.pos.toNat + e) / 2) % 2 ^ 64 else wrapI 64 (q.origin + e * q.step)

/-- Value of element e from the bytes read at its address. -/
def Stream.pick (q : Stream) (w e : Nat) (bs : List Byte) : Nat :=
  let v := bytesNat bs
  if w = 4 then (if (q.pos.toNat + e) % 2 = 0 then v % 16 else v / 16) else v

/-- Bytes of one element's access. -/
def elBytes (w : Nat) : Nat := if w = 4 then 1 else w / 8

/-- The checks of one element (09 R197): alignment, lease and leaf, page type. -/
def elemCheck (s : State) (va n : Nat) (wr : Bool) : Option (Cause × Word) :=
  if va % n ≠ 0 then some (.misaligned, BitVec.ofNat 64 va)
  else match checkAccess s s.hart.node va n (!wr) wr false with
    | some x => some x
    | none =>
      match nodeOf s s.hart.node with
      | none => none
      | some nd => if leafMT (leafAt nd va) = 1 then some (.permission, BitVec.ofNat 64 va) else none

/-- Set vstart of the current hart. -/
def State.setVstart (s : State) (e : Nat) : State := s.modVec (fun v => { v with vstart := BitVec.ofNat 18 e })

/-- Elements of a list below the first that a check refuses, and that one with its cause: a vector instruction traps at its lowest failing active element
(18 R388, 09 R197). -/
def firstFail (chk : Nat → Option (Cause × Word)) (l : List Nat) : List Nat × Option (Nat × Cause × Word) :=
  match l with
  | [] => ([], none)
  | e :: r => match chk e with
    | some (c, v) => ([], some (e, c, v))
    | none => let q := firstFail chk r
              (e :: q.1, q.2)

/-- The reads of a load's elements, which have passed their checks (09 R199): values by element, and the element that meets poison first, with its sector. -/
def xLoadEls (addr : Nat → Nat) (n : Nat) (pick : Nat → List Byte → Nat) (l : List Nat) (acc : List (Nat × Nat)) :
    X (List (Nat × Nat) × Option (Nat × Nat)) :=
  match l with
  | [] => pure (acc.reverse, none)
  | e :: r => do
    let w ← xRead State.who
    interlock w false (addr e) n false
    let r0 ← readVirt w 3 (addr e) n
    match r0.2 with
    | sec :: _ => pure (acc.reverse, some (e, sec))
    | [] => xLoadEls addr n pick r ((e, pick e r0.1) :: acc)

/-- Poison met at elements of the loads of one instruction: that of the lowest element is consumed (18 R388, R396). -/
def xPoisonAt (l : List (Option (Nat × Nat))) : X Unit :=
  let hits := l.filterMap id
  match (hits.map Prod.fst).min? with
  | none => pure ()
  | some e => xHalt (fun s => consumePoison s (((hits.find? (fun p => decide (p.1 = e))).map Prod.snd).getD 0))

/-- An instruction traps at an element: `f` is what the elements below it leave in place; vstart names it (09 R199). -/
def xTrapAt {α : Type} (f : State → State) (e : Nat) (c : Cause) (tv : Word) : X α := fun s => .error (.trap c tv true ((f s).setVstart e))

/-- Write loaded elements to a register. -/
def putEls (reg w : Nat) (l : List (Nat × Nat)) (m : Store 8) : Store 8 :=
  if w = 4 then l.foldl (fun acc p => setEl acc reg w p.1 p.2) m
  else (joinRuns (l.map (fun p => (reg * 98304 + p.1 * (w / 8), natBytes p.2 (w / 8))))).foldl (fun acc p => Store.write zeroOf acc p.1 p.2) m

def State.putVrf (s : State) (reg w : Nat) (l : List (Nat × Nat)) : State := s.modVec (fun v => { v with vrf := putEls reg w l v.vrf })

/-- A stream named by a q field must be set, of the current width, and not bound (09 R190). -/
def streamOk (v : Vec) (f : BitVec 7) : Bool :=
  let q := v.stream f.toNat
  isX f && q.valid && decide (fmtEW q.etype.toNat = v.ew) && !q.bound

/-- The load event of a vector load, load `no` of the hart (18 R399): an injected fault falls on its lowest active element, once that has passed its checks. -/
def xFirstLoad (no : Nat) (addr : Nat → Nat) (live : List Nat) : X Unit :=
  match live with
  | [] => pure ()
  | e :: _ => xLoadEvent no (addr e)

/-- A vector load of elements of `n` bytes at `addr`, as far as its checks pass: values by element, and the element that fails. -/
def xLoadVec (no : Nat) (addr : Nat → Nat) (n : Nat) (pick : Nat → List Byte → Nat) (act : List Nat) :
    X (List (Nat × Nat) × Option (Nat × Cause × Word)) := do
  let sp ← xRead (fun s => firstFail (fun e => elemCheck s (addr e) n false) act)
  xFirstLoad no addr sp.1
  let w ← xRead State.who
  let els ← xOnce w (xLoadEls addr n pick sp.1 [])
  xPoisonAt [els.2]
  pure (els.1, sp.2)

/-- The width of every bound stream is the current one (09 R190). -/
def boundWidths (v : Vec) (bs : List (Nat × Nat)) : Bool := bs.all (fun p => decide (fmtEW (v.stream p.1).etype.toNat = v.ew))

/-- The checks of one element in all bound streams (09 R197, R208). -/
def boundCheck (s : State) (bs : List (Nat × Nat)) (e : Nat) : Option (Cause × Word) :=
  let v := s.hart.vec
  bs.findSome? (fun p => elemCheck s ((v.stream p.1).unitAddr v.ew e) (elBytes v.ew) false)

/-- One bound read (09 R208), load `no` of the hart, through stream `qi`, of elements that have passed their checks: values, and the first poison. -/
def xBoundRead (no qi : Nat) (act : List Nat) : X (List (Nat × Nat) × Option (Nat × Nat)) := do
  let v ← xRead (fun s => s.hart.vec)
  let q := v.stream qi
  xFirstLoad no (q.unitAddr v.ew) act
  let w ← xRead State.who
  xOnce w (xLoadEls (q.unitAddr v.ew) (elBytes v.ew) (q.pick v.ew) act [])

/-- What one instruction has read through a bound stream: the stream, its register, the elements. -/
abbrev BoundEls := Nat × Nat × List (Nat × Nat)

/-- The bound reads of several streams, each a load of its own, and the poison that each has met. -/
def xBoundEach (no : Nat) (act : List Nat) (l : List (Nat × Nat)) : X (List BoundEls × List (Option (Nat × Nat))) :=
  match l with
  | [] => pure ([], [])
  | p :: r => do
    let els ← xBoundRead no p.1 act
    let rest ← xBoundEach (no + 1) act r
    pure ((p.1, p.2, els.1) :: rest.1, els.2 :: rest.2)

/-- With KEEP a bound register takes the elements that a test admits (09 R208). -/
def keepBound (ok : Nat → Bool) (l : List BoundEls) (s : State) : State :=
  l.foldl (fun t p => if (t.hart.vec.stream p.1).keep then t.putVrf p.2.1 t.hart.vec.ew (p.2.2.filter (fun x => ok x.1)) else t) s

/-- The register file that an instruction reads from, beside its bound reads. -/
def boundView (ew : Nat) (view : Store 8) (l : List BoundEls) : Store 8 := l.foldl (fun m p => putEls p.2.1 ew p.2.2 m) view

/-- The bound reads of the source registers (09 R208): the register file that the instruction reads from, and what was read. The lowest element that
fails in any of the streams traps; the elements below it are written with KEEP (R199), the instruction itself is not executed. Elements of `more`, above those
of `act`, are checked and not read. -/
def xBoundReads (act more : List Nat) (bs : List (Nat × Nat)) (view : Store 8) : X (Store 8 × List BoundEls) := do
  let no ← xLoadNo bs.length
  let sp ← xRead (fun s => firstFail (boundCheck s bs) (act ++ more))
  let r ← xBoundEach no (sp.1.take act.length) bs
  xPoisonAt r.2
  match sp.2 with
  | some (e, c, tv) => xTrapAt (keepBound (fun _ => true) r.1) e c tv
  | none => do
    let ew ← xRead (fun s => s.hart.vec.ew)
    pure (boundView ew view r.1, r.1)

/-- Bound sources of an instruction, each stream once. -/
def boundSources (v : Vec) (srcs : List Nat) : List (Nat × Nat) := srcs.eraseDups.filterMap (fun r => (v.boundTo r).map (fun q => (q, r)))

/-- Retirement of bound reads: with KEEP the register takes the elements; the stream moves on. -/
def retireBound (s : State) (l : List BoundEls) : State := (l.foldl (fun t p => advanceStream t p.1) (keepBound (fun _ => true) l s)).loadDone

/-- One step of the recompute-check LFSR (08 R186). -/
def lfsrStep (x : BitVec 32) : BitVec 32 := if x.getLsbD 0 then (x >>> 1) ^^^ 0x80200003 else x >>> 1

/-- The element that is recomputed (08 R186): of A active elements the one of rank LFSR mod A, in ascending order; none when A is 0. -/
def checkChoice (x : BitVec 32) (act : List Nat) : Option Nat := act[x.toNat % act.length]?

/-- Log a repaired check of the current hart. -/
def noteCheck (s : State) (cls : Nat) : State := bumpFree (logEvent s s.die cls s.hart.lcore.toNat 0 (Config.freeWord s.free))

/-- The paths of a checked instruction (08 R187; 18 R393, R399). The two computations of Dest(c) are the same function of the same source elements: they
agree but where a lane is wrong (Input.laneError) or a fault is injected (log 20): KIND 2 is a mismatch, where a comparison is made; the first squashes and reissues, one in a reissue escalates. KIND 3 is a soft error, which squashes the instruction
once or twice before it is compared, so that a mismatch then is one in a reissue. -/
def xPaths (compared : Bool) : X Unit := fun s =>
  let times := if injCount s.hart.inj.tinject = 2 then 2 else 1
  let r2 := injectEvents s.hart 2 1
  let r3 := injectEvents r2.2 3 1
  let soft := if r3.1 then times else 0
  let wrong := if compared then max s.hart.lane.toNat (if r2.1 then times else 0) else 0
  let t := (List.range soft).foldl (fun u _ => noteCheck u 2) { s with hart := { r3.2 with lane := if compared then 0 else s.hart.lane } }
  if wrong = 0 then .ok ((), t)
  else if 0 < soft then .error (.halt (escalate t s.die 5 s.hart.lcore.toNat 0))
  else if wrong = 1 then .ok ((), noteCheck t 3)
  else .error (.halt (escalate (noteCheck t 3) s.die 5 s.hart.lcore.toNat 0))

/-- A step of the LFSR of the current hart. -/
def State.stepLfsr (s : State) : State := s.modVec (fun v => { v with lfsr := lfsrStep v.lfsr })

/-- Checked instructions one after another, each with its active elements (08 R186, R187): the LFSR steps, the element is chosen, and where there is one its
recomputed value is compared. -/
def xChecked (acts : List (List Nat)) : X Unit :=
  match acts with
  | [] => pure ()
  | a :: r => do
    xMod State.stepLfsr
    let c ← xRead (fun s => checkChoice s.hart.vec.lfsr a)
    xPaths c.isSome
    xChecked r

/-- Where an element-wise instruction writes: elements of a register, of a group (08 R174), or mask bits (08 R178). -/
inductive VDest where
  | vec (reg w : Nat)
  | group (reg w : Nat)
  | mask (m : Nat)
deriving DecidableEq, Repr

/-- An element-wise instruction whose operands have passed their checks: mask bit, vector registers read, destination, registers written, and the
operation on element e, which reads from a register file. -/
structure EInstr where
  masked : Bool
  srcs : List Nat
  dst : VDest
  writes : List Nat
  op : Vec → Store 8 → Nat → Res

/-- Write elements of a register, of each register of a group, or bits of a mask. -/
def VDest.put (vlmax : Nat) (d : VDest) (l : List (Nat × Nat)) (v : Vec) : Vec :=
  match d with
  | .vec r w => { v with vrf := putEls r w l v.vrf }
  | .group r w =>
    let n := vlmax * 8 / w
    { v with vrf := (List.range 16).foldl (fun acc g =>
        putEls (r + g) w ((l.filter (fun p => decide (p.1 / n = g))).map (fun p => (p.1 % n, p.2))) acc) v.vrf }
  | .mask m => { v with masks := putMasks v.masks m (l.map (fun p => (p.1, decide (p.2 ≠ 0)))) }

/-- Flags and the overflow-mask bit of an active element (07 R153, R155). -/
def Vec.flag (v : Vec) (e : Nat) (r : Res) : Vec :=
  { v with fflags := v.fflags ||| BitVec.ofNat 6 r.fl, masks := if r.ovm && decide (v.ovm ≠ 0) then setMask v.masks v.ovm e true else v.masks }

/-- The element loop of 08 R173: results first, from the old registers, then destinations, flags and overflow-mask bits (R175). -/
def elemLoop (vlmax : Nat) (i : EInstr) (act : List Nat) (view : Store 8) (v : Vec) : Vec :=
  let rs := act.map (fun e => (e, i.op v view e))
  let v1 := i.dst.put vlmax (rs.map (fun p => (p.1, p.2.val))) v
  rs.foldl (fun acc p => acc.flag p.1 p.2) v1

/-- An element-wise instruction on the current hart (08 R172, R173; 09 R208, R209). That the LFSR steps only once every bound read has passed its checks,
and not at an execution that traps there, is the model's choice (log 66). -/
def xElem (mk : Hart → Option EInstr) : X Unit := do
  let h ← xRead (fun s => s.hart)
  match mk h with
  | none => xTrap .illegalOperand 0
  | some i => do
    let bs := boundSources h.vec i.srcs
    xOperands (!i.writes.any (fun r => h.vec.isBound r) && boundWidths h.vec bs)
    let act := h.vec.active i.masked (bs.map (fun p => h.vec.stream p.1))
    let view ← xBoundReads act [] bs h.vec.vrf
    xChecked [act]
    xMod (fun s => (retireBound (s.modVec (fun v => { elemLoop h.vlmax i act view.1 v with vstart := 0 })) view.2).retire)

def vElem (mk : Hart → Option EInstr) (s : State) : Host.Outcome State Fault Refusal := hartOnly s (runX (xElem mk))

end Sys2Proof.Machine
end

