-- ==== Sys2Proof/Machine/VInt.lean ====
section
/-! DEFINITION. Sys2Proof/Machine/VInt.lean: integer arithmetic, widening and integer compares (08 R176 to R178). -/
namespace Sys2Proof.Machine

/-- A three-register element-wise form (08 R172): `useD` when the old destination is a source. -/
def eThree (h : Hart) (ok useD : Bool) (d a b : BitVec 7) (m : Bool) (f : Vec → Nat → Nat → Nat → Res) : Option EInstr :=
  if isV h d && isV h a && isV h b && ok then
    let w := h.vec.ew
    some ⟨m, [vnum a, vnum b] ++ (if useD then [vnum d] else []), .vec (vnum d) w, [vnum d],
      fun v r e => f v (getEl r (vnum a) w e) (getEl r (vnum b) w e) (getEl r (vnum d) w e)⟩
  else none

/-- A one-source form. -/
def eTwo (h : Hart) (ok : Bool) (d a : BitVec 7) (m : Bool) (f : Vec → Nat → Res) : Option EInstr :=
  if isV h d && isV h a && ok then
    let w := h.vec.ew
    some ⟨m, [vnum a], .vec (vnum d) w, [vnum d], fun v r e => f v (getEl r (vnum a) w e)⟩
  else none

/-- A compare: the destination is a mask register (08 R178). -/
def eCmp (h : Hart) (ok : Bool) (d a b : BitVec 7) (m : Bool) (f : Vec → Nat → Nat → Res) : Option EInstr :=
  if isX d && isV h a && isV h b && ok then
    let w := h.vec.ew
    some ⟨m, [vnum a, vnum b], .mask d.toNat, [], fun v r e => f v (getEl r (vnum a) w e) (getEl r (vnum b) w e)⟩
  else none

/-- An integer operation (08 R176): exact result of a, b and d read by the signedness of FMT; "range" rows wrap or clamp. -/
def eInt (h : Hart) (useD clamp : Bool) (d a b : BitVec 7) (m : Bool) (f : Int → Int → Int → Int) : Option EInstr :=
  eThree h h.vec.isInt useD d a b m (fun v x y z =>
    intRes v.ew v.signed (clamp || v.sat) (f (readI v.ew v.signed x) (readI v.ew v.signed y) (readI v.ew v.signed z)))

/-- An integer operation on the bit patterns that cannot exceed the range. -/
def eBits (h : Hart) (d a b : BitVec 7) (m : Bool) (f : Vec → Nat → Nat → Nat) : Option EInstr :=
  eThree h h.vec.isInt false d a b m (fun v x y _ => Res.pure (f v x y % 2 ^ v.ew))

/-- An integer compare. -/
def eIcmp (h : Hart) (d a b : BitVec 7) (m : Bool) (f : Nat → Nat → Nat → Bool) : Option EInstr :=
  eCmp h h.vec.isInt d a b m (fun v x y => Res.pure (if f v.ew x y then 1 else 0))

/-- Registers of a destination group of r registers (08 R174), or none when it is misplaced or meets a source. -/
def groupRegs (h : Hart) (d : BitVec 7) (r : Nat) (srcs : List Nat) : Option (List Nat) :=
  let l := upFrom (vnum d) r
  if isV h d && decide (vnum d % r = 0 ∧ vnum d + r ≤ h.vregs.toNat) && !l.any (fun x => srcs.contains x) then some l else none

/-- A widening integer operation (08 R177). -/
def eWide (h : Hart) (d a b : BitVec 7) (m : Bool) (f : Int → Int → Int) : Option EInstr :=
  let w := h.vec.ew
  if isV h a && isV h b && h.vec.isInt && decide (w ≤ 32) then
    (groupRegs h d 2 [vnum a, vnum b]).map (fun g => ⟨m, [vnum a, vnum b], .group (vnum d) (2 * w), g, fun v r e =>
      Res.pure (wrapI (2 * w) (f (readI w v.signed (getEl r (vnum a) w e)) (readI w v.signed (getEl r (vnum b) w e))))⟩)
  else none

/-- VADD: a + b (08 Table 8.5). -/
def eVadd (h : Hart) (d a b : BitVec 7) (m : Bool) : Option EInstr := eInt h false false d a b m (fun x y _ => x + y)
def execVadd (d a b : BitVec 7) (m : Bool) (s : State) : Host.Outcome State Fault Refusal := vElem (fun h => eVadd h d a b m) s

/-- VSUB: a - b (08 Table 8.5). -/
def eVsub (h : Hart) (d a b : BitVec 7) (m : Bool) : Option EInstr := eInt h false false d a b m (fun x y _ => x - y)
def execVsub (d a b : BitVec 7) (m : Bool) (s : State) : Host.Outcome State Fault Refusal := vElem (fun h => eVsub h d a b m) s

/-- VMUL: a b (08 Table 8.5). -/
def eVmul (h : Hart) (d a b : BitVec 7) (m : Bool) : Option EInstr := eInt h false false d a b m (fun x y _ => x * y)
def execVmul (d a b : BitVec 7) (m : Bool) (s : State) : Host.Outcome State Fault Refusal := vElem (fun h => eVmul h d a b m) s

/-- VMULH: floor(a b / 2^w) (08 Table 8.5). -/
def eVmulh (h : Hart) (d a b : BitVec 7) (m : Bool) : Option EInstr := eThree h h.vec.isInt false d a b m (fun v x y _ =>
  Res.pure (wrapI v.ew (readI v.ew v.signed x * readI v.ew v.signed y / (2 ^ v.ew : Nat))))
def execVmulh (d a b : BitVec 7) (m : Bool) (s : State) : Host.Outcome State Fault Refusal := vElem (fun h => eVmulh h d a b m) s

/-- VMADD: d + a b (08 Table 8.5). -/
def eVmadd (h : Hart) (d a b : BitVec 7) (m : Bool) : Option EInstr := eInt h true false d a b m (fun x y z => z + x * y)
def execVmadd (d a b : BitVec 7) (m : Bool) (s : State) : Host.Outcome State Fault Refusal := vElem (fun h => eVmadd h d a b m) s

/-- VMIN: the smaller, read as signed (08 Table 8.5). -/
def eVmin (h : Hart) (d a b : BitVec 7) (m : Bool) : Option EInstr := eBits h d a b m (fun v x y => if sval v.ew x ≤ sval v.ew y then x else y)
def execVmin (d a b : BitVec 7) (m : Bool) (s : State) : Host.Outcome State Fault Refusal := vElem (fun h => eVmin h d a b m) s

/-- VMAX: the larger, read as signed (08 Table 8.5). -/
def eVmax (h : Hart) (d a b : BitVec 7) (m : Bool) : Option EInstr := eBits h d a b m (fun v x y => if sval v.ew x ≤ sval v.ew y then y else x)
def execVmax (d a b : BitVec 7) (m : Bool) (s : State) : Host.Outcome State Fault Refusal := vElem (fun h => eVmax h d a b m) s

/-- VABSD: the magnitude of a - b, unsigned (08 Table 8.5). -/
def eVabsd (h : Hart) (d a b : BitVec 7) (m : Bool) : Option EInstr := eBits h d a b m (fun v x y => (readI v.ew v.signed x - readI v.ew v.signed y).natAbs)
def execVabsd (d a b : BitVec 7) (m : Bool) (s : State) : Host.Outcome State Fault Refusal := vElem (fun h => eVabsd h d a b m) s

/-- VMINU: the smaller, read as unsigned (08 Table 8.5). -/
def eVminu (h : Hart) (d a b : BitVec 7) (m : Bool) : Option EInstr := eBits h d a b m (fun _ x y => min x y)
def execVminu (d a b : BitVec 7) (m : Bool) (s : State) : Host.Outcome State Fault Refusal := vElem (fun h => eVminu h d a b m) s

/-- VMAXU: the larger, read as unsigned (08 Table 8.5). -/
def eVmaxu (h : Hart) (d a b : BitVec 7) (m : Bool) : Option EInstr := eBits h d a b m (fun _ x y => max x y)
def execVmaxu (d a b : BitVec 7) (m : Bool) (s : State) : Host.Outcome State Fault Refusal := vElem (fun h => eVmaxu h d a b m) s

/-- VADDS: a + b, always clamped (08 Table 8.5). -/
def eVadds (h : Hart) (d a b : BitVec 7) (m : Bool) : Option EInstr := eInt h false true d a b m (fun x y _ => x + y)
def execVadds (d a b : BitVec 7) (m : Bool) (s : State) : Host.Outcome State Fault Refusal := vElem (fun h => eVadds h d a b m) s

/-- VSUBS: a - b, always clamped (08 Table 8.5). -/
def eVsubs (h : Hart) (d a b : BitVec 7) (m : Bool) : Option EInstr := eInt h false true d a b m (fun x y _ => x - y)
def execVsubs (d a b : BitVec 7) (m : Bool) (s : State) : Host.Outcome State Fault Refusal := vElem (fun h => eVsubs h d a b m) s

/-- VAVG: floor((a + b + 1)/2) (08 Table 8.5). -/
def eVavg (h : Hart) (d a b : BitVec 7) (m : Bool) : Option EInstr := eThree h h.vec.isInt false d a b m (fun v x y _ =>
  Res.pure (wrapI v.ew ((readI v.ew v.signed x + readI v.ew v.signed y + 1) / 2)))
def execVavg (d a b : BitVec 7) (m : Bool) (s : State) : Host.Outcome State Fault Refusal := vElem (fun h => eVavg h d a b m) s

/-- VSHL: a 2^k with k = b mod w (08 Table 8.5). -/
def eVshl (h : Hart) (d a b : BitVec 7) (m : Bool) : Option EInstr := eThree h h.vec.isInt false d a b m (fun v x y _ =>
  intRes v.ew v.signed v.sat (readI v.ew v.signed x * (2 ^ (y % v.ew) : Nat)))
def execVshl (d a b : BitVec 7) (m : Bool) (s : State) : Host.Outcome State Fault Refusal := vElem (fun h => eVshl h d a b m) s

/-- VSHR: a shifted right by k, zeros in (08 Table 8.5). -/
def eVshr (h : Hart) (d a b : BitVec 7) (m : Bool) : Option EInstr := eBits h d a b m (fun v x y => x / 2 ^ (y % v.ew))
def execVshr (d a b : BitVec 7) (m : Bool) (s : State) : Host.Outcome State Fault Refusal := vElem (fun h => eVshr h d a b m) s

/-- VSRA: floor(a / 2^k), a read as signed (08 Table 8.5). -/
def eVsra (h : Hart) (d a b : BitVec 7) (m : Bool) : Option EInstr := eThree h h.vec.isInt false d a b m (fun v x y _ =>
  Res.pure (wrapI v.ew (sval v.ew x / (2 ^ (y % v.ew) : Nat))))
def execVsra (d a b : BitVec 7) (m : Bool) (s : State) : Host.Outcome State Fault Refusal := vElem (fun h => eVsra h d a b m) s

/-- VWADD: a + b into a group of 2w (08 R177). -/
def eVwadd (h : Hart) (d a b : BitVec 7) (m : Bool) : Option EInstr := eWide h d a b m (fun x y => x + y)
def execVwadd (d a b : BitVec 7) (m : Bool) (s : State) : Host.Outcome State Fault Refusal := vElem (fun h => eVwadd h d a b m) s

/-- VWMUL: a b into a group of 2w (08 R177). -/
def eVwmul (h : Hart) (d a b : BitVec 7) (m : Bool) : Option EInstr := eWide h d a b m (fun x y => x * y)
def execVwmul (d a b : BitVec 7) (m : Bool) (s : State) : Host.Outcome State Fault Refusal := vElem (fun h => eVwmul h d a b m) s

/-- VCMPEQ: a = b (08 R178). -/
def eVcmpeq (h : Hart) (d a b : BitVec 7) (m : Bool) : Option EInstr := eIcmp h d a b m (fun _ x y => decide (x = y))
def execVcmpeq (d a b : BitVec 7) (m : Bool) (s : State) : Host.Outcome State Fault Refusal := vElem (fun h => eVcmpeq h d a b m) s

/-- VCMPNE: a differs from b (08 R178). -/
def eVcmpne (h : Hart) (d a b : BitVec 7) (m : Bool) : Option EInstr := eIcmp h d a b m (fun _ x y => decide (x ≠ y))
def execVcmpne (d a b : BitVec 7) (m : Bool) (s : State) : Host.Outcome State Fault Refusal := vElem (fun h => eVcmpne h d a b m) s

/-- VCMPLT: a < b, signed (08 R178). -/
def eVcmplt (h : Hart) (d a b : BitVec 7) (m : Bool) : Option EInstr := eIcmp h d a b m (fun w x y => decide (sval w x < sval w y))
def execVcmplt (d a b : BitVec 7) (m : Bool) (s : State) : Host.Outcome State Fault Refusal := vElem (fun h => eVcmplt h d a b m) s

/-- VCMPLE: a at most b, signed (08 R178). -/
def eVcmple (h : Hart) (d a b : BitVec 7) (m : Bool) : Option EInstr := eIcmp h d a b m (fun w x y => decide (sval w x ≤ sval w y))
def execVcmple (d a b : BitVec 7) (m : Bool) (s : State) : Host.Outcome State Fault Refusal := vElem (fun h => eVcmple h d a b m) s

/-- VCMPLTU: a < b, unsigned (08 R178). -/
def eVcmpltu (h : Hart) (d a b : BitVec 7) (m : Bool) : Option EInstr := eIcmp h d a b m (fun _ x y => decide (x < y))
def execVcmpltu (d a b : BitVec 7) (m : Bool) (s : State) : Host.Outcome State Fault Refusal := vElem (fun h => eVcmpltu h d a b m) s

/-- VCMPLEU: a at most b, unsigned (08 R178). -/
def eVcmpleu (h : Hart) (d a b : BitVec 7) (m : Bool) : Option EInstr := eIcmp h d a b m (fun _ x y => decide (x ≤ y))
def execVcmpleu (d a b : BitVec 7) (m : Bool) (s : State) : Host.Outcome State Fault Refusal := vElem (fun h => eVcmpleu h d a b m) s

end Sys2Proof.Machine
end

