-- ==== Sys2Proof/Machine/VFloat.lean ====
section
/-! DEFINITION. Sys2Proof/Machine/VFloat.lean: floating-point arithmetic, special functions and compares (08 R179 to R182, 07 R159). -/
namespace Sys2Proof.Machine

/-- FMT is a float format of 08 Table 8.4. -/
def Vec.isFloat (v : Vec) : Bool := v.cls == .float
def Vec.ff (v : Vec) : FFmt := fmtFloat v.fmt
def Vec.mode (v : Vec) : Nat := v.frm.toNat

/-- A two-operand operation (08 R179). -/
def eF2 (h : Hart) (d a b : BitVec 7) (m : Bool) (f : FFmt → Nat → Bool → FVal → FVal → Res) : Option EInstr :=
  eThree h h.vec.isFloat false d a b m (fun v x y _ => f v.ff v.mode v.sat (v.ff.val x) (v.ff.val y))

/-- A fused operation. -/
def eF3 (h : Hart) (d a b : BitVec 7) (m : Bool) (f : FVal → FVal → FVal → FVal × FVal × FVal) : Option EInstr :=
  eThree h h.vec.isFloat true d a b m (fun v x y z =>
    let q := f (v.ff.val x) (v.ff.val y) (v.ff.val z)
    fFma v.ff v.mode v.sat q.1 q.2.1 q.2.2)

/-- VFMIN and VFMAX (08 R180): NaN gives the default NaN, no rounding, no flag. -/
def fPick (F : FFmt) (larger : Bool) (x y : Nat) : Nat :=
  match F.val x, F.val y with
  | .nan, _ => F.nan
  | _, .nan => F.nan
  | a, b => if fBelow a b = larger then y else x

/-- A special function (07 R159). -/
def eSpec (h : Hart) (d a : BitVec 7) (m : Bool) (f : SpecFn) : Option EInstr :=
  eTwo h h.vec.isFloat d a m (fun v x => specRes v.ff v.sat f (v.ff.val x))

/-- A float compare (08 R182): a NaN operand gives 0, with NV where `nv` says so. -/
def eFcmp (h : Hart) (d a b : BitVec 7) (m nv : Bool) (f : FVal → FVal → Bool) : Option EInstr :=
  eCmp h h.vec.isFloat d a b m (fun v x y =>
    match v.ff.val x, v.ff.val y with
    | .nan, _ => ⟨0, if nv then flNV else 0, false⟩
    | _, .nan => ⟨0, if nv then flNV else 0, false⟩
    | p, q => Res.pure (if f p q then 1 else 0))

/-- VFADD: a + b (08 Table 8.6). -/
def eVfadd (h : Hart) (d a b : BitVec 7) (m : Bool) : Option EInstr := eF2 h d a b m fAdd
def execVfadd (d a b : BitVec 7) (m : Bool) (s : State) : Host.Outcome State Fault Refusal := vElem (fun h => eVfadd h d a b m) s

/-- VFSUB: a - b (08 Table 8.6). -/
def eVfsub (h : Hart) (d a b : BitVec 7) (m : Bool) : Option EInstr := eF2 h d a b m (fun F r c x y => fAdd F r c x y.neg)
def execVfsub (d a b : BitVec 7) (m : Bool) (s : State) : Host.Outcome State Fault Refusal := vElem (fun h => eVfsub h d a b m) s

/-- VFMUL: a b (08 Table 8.6). -/
def eVfmul (h : Hart) (d a b : BitVec 7) (m : Bool) : Option EInstr := eF2 h d a b m fMul
def execVfmul (d a b : BitVec 7) (m : Bool) (s : State) : Host.Outcome State Fault Refusal := vElem (fun h => eVfmul h d a b m) s

/-- VFMA: a b + d, one rounding (08 Table 8.6). -/
def eVfma (h : Hart) (d a b : BitVec 7) (m : Bool) : Option EInstr := eF3 h d a b m (fun x y z => (x, y, z))
def execVfma (d a b : BitVec 7) (m : Bool) (s : State) : Host.Outcome State Fault Refusal := vElem (fun h => eVfma h d a b m) s

/-- VFMS: a b - d (08 Table 8.6). -/
def eVfms (h : Hart) (d a b : BitVec 7) (m : Bool) : Option EInstr := eF3 h d a b m (fun x y z => (x, y, z.neg))
def execVfms (d a b : BitVec 7) (m : Bool) (s : State) : Host.Outcome State Fault Refusal := vElem (fun h => eVfms h d a b m) s

/-- VFNMA: d - a b (08 Table 8.6). -/
def eVfnma (h : Hart) (d a b : BitVec 7) (m : Bool) : Option EInstr := eF3 h d a b m (fun x y z => (x.neg, y, z))
def execVfnma (d a b : BitVec 7) (m : Bool) (s : State) : Host.Outcome State Fault Refusal := vElem (fun h => eVfnma h d a b m) s

/-- VFDIV: a / b (08 Table 8.6). -/
def eVfdiv (h : Hart) (d a b : BitVec 7) (m : Bool) : Option EInstr := eF2 h d a b m fDiv
def execVfdiv (d a b : BitVec 7) (m : Bool) (s : State) : Host.Outcome State Fault Refusal := vElem (fun h => eVfdiv h d a b m) s

/-- VFMIN: the smaller (R180) (08 Table 8.6). -/
def eVfmin (h : Hart) (d a b : BitVec 7) (m : Bool) : Option EInstr := eThree h h.vec.isFloat false d a b m (fun v x y _ => Res.pure (fPick v.ff false x y))
def execVfmin (d a b : BitVec 7) (m : Bool) (s : State) : Host.Outcome State Fault Refusal := vElem (fun h => eVfmin h d a b m) s

/-- VFMAX: the larger (R180) (08 Table 8.6). -/
def eVfmax (h : Hart) (d a b : BitVec 7) (m : Bool) : Option EInstr := eThree h h.vec.isFloat false d a b m (fun v x y _ => Res.pure (fPick v.ff true x y))
def execVfmax (d a b : BitVec 7) (m : Bool) (s : State) : Host.Outcome State Fault Refusal := vElem (fun h => eVfmax h d a b m) s

/-- VFABS: the sign cleared; NaN gives the default NaN (08 Table 8.6). -/
def eVfabs (h : Hart) (d a : BitVec 7) (m : Bool) : Option EInstr := eTwo h h.vec.isFloat d a m (fun v x =>
  Res.pure (if v.ff.val x = .nan then v.ff.nan else x % 2 ^ (v.ew - 1)))
def execVfabs (d a : BitVec 7) (m : Bool) (s : State) : Host.Outcome State Fault Refusal := vElem (fun h => eVfabs h d a m) s

/-- VFNEG: the sign inverted; NaN gives the default NaN (08 Table 8.6). -/
def eVfneg (h : Hart) (d a : BitVec 7) (m : Bool) : Option EInstr := eTwo h h.vec.isFloat d a m (fun v x =>
  Res.pure (if v.ff.val x = .nan then v.ff.nan else x ^^^ 2 ^ (v.ew - 1)))
def execVfneg (d a : BitVec 7) (m : Bool) (s : State) : Host.Outcome State Fault Refusal := vElem (fun h => eVfneg h d a m) s

/-- VFCLASS: the class of a (R181) (08 Table 8.6). -/
def eVfclass (h : Hart) (d a : BitVec 7) (m : Bool) : Option EInstr := eTwo h h.vec.isFloat d a m (fun v x => Res.pure (fClass v.ff x))
def execVfclass (d a : BitVec 7) (m : Bool) (s : State) : Host.Outcome State Fault Refusal := vElem (fun h => eVfclass h d a m) s

/-- VFSQRT: the square root (08 Table 8.6). -/
def eVfsqrt (h : Hart) (d a : BitVec 7) (m : Bool) : Option EInstr := eTwo h h.vec.isFloat d a m (fun v x => fSqrt v.ff v.mode v.sat (v.ff.val x))
def execVfsqrt (d a : BitVec 7) (m : Bool) (s : State) : Host.Outcome State Fault Refusal := vElem (fun h => eVfsqrt h d a m) s

/-- VFRCP: 1/a (08 Table 8.6). -/
def eVfrcp (h : Hart) (d a : BitVec 7) (m : Bool) : Option EInstr := eSpec h d a m .rcp
def execVfrcp (d a : BitVec 7) (m : Bool) (s : State) : Host.Outcome State Fault Refusal := vElem (fun h => eVfrcp h d a m) s

/-- VFRSQ: a^(-1/2) (08 Table 8.6). -/
def eVfrsq (h : Hart) (d a : BitVec 7) (m : Bool) : Option EInstr := eSpec h d a m .rsq
def execVfrsq (d a : BitVec 7) (m : Bool) (s : State) : Host.Outcome State Fault Refusal := vElem (fun h => eVfrsq h d a m) s

/-- VFEXP2: 2^a (08 Table 8.6). -/
def eVfexp2 (h : Hart) (d a : BitVec 7) (m : Bool) : Option EInstr := eSpec h d a m .exp2
def execVfexp2 (d a : BitVec 7) (m : Bool) (s : State) : Host.Outcome State Fault Refusal := vElem (fun h => eVfexp2 h d a m) s

/-- VFLOG2: log2 a (08 Table 8.6). -/
def eVflog2 (h : Hart) (d a : BitVec 7) (m : Bool) : Option EInstr := eSpec h d a m .log2
def execVflog2 (d a : BitVec 7) (m : Bool) (s : State) : Host.Outcome State Fault Refusal := vElem (fun h => eVflog2 h d a m) s

/-- VFTANH: tanh a (08 Table 8.6). -/
def eVftanh (h : Hart) (d a : BitVec 7) (m : Bool) : Option EInstr := eSpec h d a m .tanh
def execVftanh (d a : BitVec 7) (m : Bool) (s : State) : Host.Outcome State Fault Refusal := vElem (fun h => eVftanh h d a m) s

/-- VFCMPEQ: a = b (08 R182). -/
def eVfcmpeq (h : Hart) (d a b : BitVec 7) (m : Bool) : Option EInstr := eFcmp h d a b m false fEq
def execVfcmpeq (d a b : BitVec 7) (m : Bool) (s : State) : Host.Outcome State Fault Refusal := vElem (fun h => eVfcmpeq h d a b m) s

/-- VFCMPLT: a < b (08 R182). -/
def eVfcmplt (h : Hart) (d a b : BitVec 7) (m : Bool) : Option EInstr := eFcmp h d a b m true fLt
def execVfcmplt (d a b : BitVec 7) (m : Bool) (s : State) : Host.Outcome State Fault Refusal := vElem (fun h => eVfcmplt h d a b m) s

/-- VFCMPLE: a at most b (08 R182). -/
def eVfcmple (h : Hart) (d a b : BitVec 7) (m : Bool) : Option EInstr := eFcmp h d a b m true (fun x y => fLt x y || fEq x y)
def execVfcmple (d a b : BitVec 7) (m : Bool) (s : State) : Host.Outcome State Fault Refusal := vElem (fun h => eVfcmple h d a b m) s

end Sys2Proof.Machine
end

