-- ==== Sys2Proof/Machine/Collective.lean ====
section
/-! DEFINITION. Sys2Proof/Machine/Collective.lean: collectives (15 R337, R338) and reduction across chips (20 R427, R428). Another chip's command stands in
State.peers once the link has brought its parameters and data. -/
namespace Sys2Proof.Machine

/-- Sums of a float dtype with a leaf that is not finite (20 R428). -/
def sumSpecial (F : FFmt) (l : List FVal) : Res :=
  let has : FVal → Bool := fun v => l.any (fun x => x == v)
  if has (.inf false) && has (.inf true) then nvRes F
  else if has .nan then nanRes F
  else Res.pure (F.infinity (has (.inf true)))

def FVal.isFin (v : FVal) : Bool :=
  match v with
  | .fin _ _ => true
  | _ => false

/-- One element of a reduction over the members in rank order (20 R427): encoding and flags. -/
def reduceEl (dt rop : Nat) (leaves : List Nat) : Nat × Nat :=
  let opts := leaves.map some
  if dt = 17 then (leaves.foldl (fun a b => a ^^^ b) 0, 0)
  else if dt = 11 ∨ dt = 19 then
    let rd : Nat → Int := readI 32 (decide (dt = 11))
    let op : Nat → Nat → Nat := fun a b =>
      if rop = 0 then (a + b) % 2 ^ 32 else if rop = 1 then (if rd a < rd b then b else a) else if rd b < rd a then b else a
    ((pairTree op 6 opts).getD 0, 0)
  else
    let F := fmtFloat dt
    if rop ≠ 0 then ((pairTree (fPick F (decide (rop = 1))) 6 opts).getD 0, 0)
    else if leaves.all (fun x => (F.val x).isFin) then
      let r := pairTree (fun (a b : Res) =>
        let z := fAdd F 0 false (F.val a.val) (F.val b.val)
        (⟨z.val, a.fl ||| b.fl ||| z.fl, false⟩ : Res)) 6 (leaves.map (fun x => some (Res.pure x)))
      match r with
      | some z => (z.val, z.fl)
      | none => (0, 0)
    else
      let z := sumSpecial F (leaves.map F.val)
      (z.val, z.fl)

/-- Element i of a list of bytes, of width n bytes. -/
def bytesEl (l : List Byte) (n i : Nat) : Nat := fieldAt l (n * i) n

/-- The bytes that a member of rank r receives (15 Table 15.5), and the flags. `src` lists the members' sources in rank order. -/
def collResult (op rop dt count r : Nat) (src : List (List Byte)) : List Byte × Nat :=
  let n := collEW dt / 8
  if op = 1 then (src.flatten, 0)
  else
    let k := if op = 2 then count else count / src.length
    let first := if op = 2 then 0 else r * k
    let els := (upFrom first k).map (fun i => reduceEl dt rop (src.map (fun b => bytesEl b n i)))
    (els.flatMap (fun e => natBytes e.1 n), els.foldl (fun acc e => acc ||| e.2) 0)

/-- Source bytes of this chip that lie behind destination byte i: offset of the destination in the source, if any. -/
def collOrigin (op dstB r i : Nat) (srcB : Nat) : Option Nat :=
  if op = 1 then (if r * srcB ≤ i ∧ i < (r + 1) * srcB then some (i - r * srcB) else none)
  else if op = 2 then some i else some (r * dstB + i)

/-- The command of a chip that matches one of this chip: the same group and key, and as many before it (15 R338). -/
def peerOf (s : State) (t : Transfer) (chip : Nat) : Option PeerColl :=
  s.peers.find? (fun p => decide (p.chip.toNat = chip ∧ p.group.toNat = collGroup t.block ∧ p.key.toNat = collKey t.block ∧ p.idx = t.idx))

/-- Other members of a group. -/
def otherMembers (s : State) (b : List Byte) : List Nat := (List.range 64).filter (fun c => nbit (collGroup b) c && decide (c ≠ chipNum s))

/-- The matching commands of the other members that have arrived. -/
def collPeers (s : State) (t : Transfer) : List PeerColl := (otherMembers s t.block).filterMap (peerOf s t)

/-- Every other member's command has arrived (15 R337). -/
def collMet (s : State) (t : Transfer) : Bool := decide ((otherMembers s t.block).length ≤ (collPeers s t).length)

/-- A collective whose match can be made: its members have all issued, and its engine serves it next for its hart (15 R332, R338). -/
def collReady (s : State) (t : Transfer) : Bool := t.kind == .coll && !t.matched && firstOfHart s t && collMet s t

/-- The commands that matched one are used up. -/
def dropPeers (s : State) (t : Transfer) : State :=
  let ps := collPeers s t
  { s with peers := s.peers.filter (fun p => !ps.contains p) }

/-- A command is matched, or has ended without data: what is left of it is counted in steps (15 R339). -/
def collGoes (s : State) (t : Transfer) (err : Bool) (result : List (Byte × Bool)) : State :=
  let f : Transfer → Transfer := fun x => { x with matched := true, err := err, result := result }
  let s1 := dropPeers s t
  raiseEvents (nextColl { s1 with transfers := updWhere (fun x => decide (x.num = t.num)) f s1.transfers }) [.engineCount t.num]

/-- The engine writes the out word (15 Table 15.4). -/
def xOut (t : Transfer) (v : Nat) : X Unit := writeVirt (whoXfer t) false [((t.blockAddr.toNat + 0x38) % 2 ^ 64, natBytes v 8)]

/-- End a command without data (15 R338): its out word takes `bit`, its full byte count is counted with error set, and it retires. -/
def xCollEnd (t : Transfer) (bit : Nat) : X Unit := do
  xOut t (2 ^ bit)
  xMod (fun s => collGoes s t true [])

/-- Read a source in pieces of a sector: bytes, and for each byte whether its sector is poisoned. -/
def collSource (w : Who) (fuel a n : Nat) : X (List (Byte × Bool)) :=
  match fuel with
  | 0 => pure []
  | f + 1 =>
    if n = 0 then pure []
    else do
      let k := min n (64 - a % 64)
      let r ← xferRead w false a k
      let rest ← collSource w f (a + k) (n - k)
      pure (r.1.map (fun b => (b, r.2)) ++ rest)

/-- Data of a matched collective: its destination bytes, with the poison of the own source bytes behind them (18 R395), and the out word; the bytes are
written and counted in steps. -/
def xCollRun (t : Transfer) (peers : List PeerColl) : X Unit := do
  let w := whoXfer t
  xMod (fun s => peers.foldl (fun u p => takeTag w.die u p.tag) s)
  let b := t.block
  let op := fieldAt b 0x14 1
  let dt := fieldAt b 0x16 1
  let cnt := fieldAt b 0x10 4
  let srcB := if op = 3 then cnt else cnt * collEW dt / 8
  let own ← xOnce w (collSource w (srcB / 64 + 2) (fieldAt b 0 8) srcB)
  let me ← xRead chipNum
  let rank := (peers.filter (fun p => decide (p.chip.toNat < me))).length
  let lists := (peers.filter (fun p => decide (p.chip.toNat < me))).map PeerColl.data ++ [own.map Prod.fst]
    ++ (peers.filter (fun p => decide (me < p.chip.toNat))).map PeerColl.data
  let res := collResult op (fieldAt b 0x15 1) dt cnt rank lists
  let bad : Nat → Bool := fun i => match collOrigin op t.total rank i srcB with
    | some o => (own.getD o (0, false)).2
    | none => false
  xOut t res.2
  xMod (fun s => collGoes s t false (res.1.mapIdx (fun i x => (x, bad i))))

/-- Parameters of a peer's command agree with a block (15 R338). -/
def peerAgrees (b : List Byte) (p : PeerColl) : Bool :=
  decide (p.op.toNat = fieldAt b 0x14 1 ∧ p.rop.toNat = fieldAt b 0x15 1 ∧ p.dtype.toNat = fieldAt b 0x16 1 ∧ p.count.toNat = fieldAt b 0x10 4)

/-- COLL_MATCH (15 R338). While a member's command has not arrived, or an older command of the hart waits on the engine, nothing happens. -/
def execCollMatch (x : Nat) (s : State) : Host.Outcome State Fault Refusal :=
  match s.transfers.find? (fun t => decide (t.num = x)) with
  | none => .next s
  | some t =>
    if collReady s t then
      (if (collPeers s t).all (peerAgrees t.block) then xferEvent x (xCollRun t (collPeers s t)) s else xferEvent x (xCollEnd t 63) s)
    else .next s

/-- COLL_TIMEOUT (15 R338): COLL_TMO has passed without the command of every member; 0 means no bound. -/
def execCollTimeout (x : Nat) (s : State) : Host.Outcome State Fault Refusal :=
  match s.transfers.find? (fun t => decide (t.num = x)) with
  | none => .next s
  | some t =>
    if t.kind ≠ .coll ∨ t.matched = true ∨ collMet s t = true ∨ mgmtGet s 0xA0440 = 0 then .next s
    else xferEvent x (xCollEnd t 62) s

/-- A chip is reached over a link across domains (20 R423). -/
def overDomx (s : State) (chip : Nat) : Bool :=
  let p := (mgmtGet s (0xA0100 + 8 * chip)).toNat % 32
  decide (p < 16) && (mgmtGet s (0xA0000 + 8 * p)).getLsbD 0 && (mgmtGet s (0xA0000 + 8 * p)).getLsbD 1

/-- A command of another chip arrives (15 R337): it is that chip's next one with its group and key. One whose match has ended here is not kept (R338). A link across
domains carries none (20 R423). -/
def peerArrives (s0 : State) (c : PeerColl) : State :=
  if overDomx s0 c.chip.toNat then s0 else
  let s := straitHeard s0 c.chip.toNat
  let k := collCount s c.chip.toNat c.group c.key
  let s1 := collCounted s c.chip.toNat c.group c.key
  let mine : Transfer → Bool := fun t => t.kind == .coll && decide (collGroup t.block = c.group.toNat ∧ collKey t.block = c.key.toNat ∧ t.idx = k)
  let gone := decide (k < collCount s (chipNum s) c.group c.key) && !s.transfers.any (fun t => mine t && !t.matched)
  if gone then s1 else nextColl { s1 with peers := s1.peers ++ [{ c with idx := k }] }

/-- A command of another chip has ended there (15 R338): it matches nothing any more. -/
def peerEnds (s : State) (c : PeerColl) : State :=
  { s with peers := s.peers.filter (fun p => !decide (p.chip = c.chip ∧ p.group = c.group ∧ p.key = c.key ∧ p.idx = c.idx)) }

end Sys2Proof.Machine
end

