-- ==== Sys2Proof/Machine/SaveArea.lean ====
section
/-! DEFINITION. Sys2Proof/Machine/SaveArea.lean: the context save area (05 R106, Table 5.2): its sections as bytes, its place in the scheduler region, and
the hart that its bytes describe; lstate (06 R135), the stream layout (09 Table 9.1) and the distribution layout (14 Table 14.3). -/
namespace Sys2Proof.Machine

/-- Reference address of lstate (06 R135): the reading or writing instruction, or tepc in a handler. In a save area it is the saved program counter; in
a handler, whose address lies outside the loops, it is tepc there too (log 28). -/
def Hart.loopRef (h : Hart) : Word := if h.trap.tstatus.getLsbD 0 then h.trap.tepc else h.front.pc

/-- Fields of one level: LEN and BACK, in words of ten bits (06 Table 6.4). -/
def levelField (ref : Word) (l : Level) : Nat := nbits (l.stop - l.start).toNat 2 10 * 2 ^ 10 + nbits (ref - l.start).toNat 2 10

/-- lstate (06 Table 6.4): level 0 is the outermost. -/
def Hart.lstate (h : Hart) : Word :=
  let ls := h.front.levels.reverse
  BitVec.ofNat 64 (ls.length * 2 ^ 62 + ((List.range 3).zip ls).foldl (fun acc p => acc + levelField h.loopRef p.2 * 2 ^ (20 * p.1)) 0)

/-- The levels that a value of lstate describes, the outermost first. -/
def levelsOf (ref : Word) (v : Nat) : List Level :=
  (List.range (v / 2 ^ 62)).map (fun i =>
    let start := ref - BitVec.ofNat 64 (4 * nbits v (20 * i) 10)
    ⟨start, start + BitVec.ofNat 64 (4 * nbits v (20 * i + 10) 10)⟩)

/-- DLMAX (14 R304). -/
def Hart.dlmax (h : Hart) : Nat := 256 / h.hsplit.toNat

/-- Weight of a point at task start: one eighth of the mass (14 R306). -/
def distW0 (_ : Nat) : BitVec 32 := 0x00200000

/-- Key of point 0 of an element of a distribution register. -/
def distKey (d e : Nat) : Nat := (d * 256 + e) * 8

/-- Values of a store as bytes, `n` for each, and back. -/
def valuesBytes {w : Nat} (n : Nat) (vs : List (BitVec w)) : List Byte := vs.flatMap (fun v => natBytes v.toNat n)
def bytesValues (w n off k : Nat) (l : List Byte) : List (BitVec w) := (List.range k).map (fun i => BitVec.ofNat w (fieldAt l (off + n * i) n))

/-- Bits of a store as bytes, the lowest first, and back. -/
def bitsBytes (bits : List (BitVec 1)) : List Byte :=
  natBytes (bits.foldr (fun b acc => b.toNat + 2 * acc) 0) (bits.length / 8)
def bytesBits (off k : Nat) (l : List Byte) : List (BitVec 1) := (List.range k).map (fun i => BitVec.ofNat 1 (fieldAt l (off + i / 8) 1 / 2 ^ (i % 8)))

/-- A stream register as saved (09 Table 9.1). -/
def Stream.bytes (q : Stream) : List Byte :=
  natBytes q.base.toNat 8 ++ natBytes q.pos.toNat 8 ++ natBytes q.stride.toNat 4 ++ natBytes q.count.toNat 4 ++ natBytes q.etype.toNat 1
    ++ natBytes (q.valid.toNat + 2 * q.bound.toNat + 4 * q.keep.toNat) 1 ++ natBytes (if q.bound then q.breg.toNat else 0) 1 ++ List.replicate 37 0

def Stream.ofBytes (l : List Byte) (o : Nat) : Stream :=
  let st := fieldAt l (o + 0x19) 1
  ⟨BitVec.ofNat 64 (fieldAt l o 8), BitVec.ofNat 40 (fieldAt l (o + 8) 8), BitVec.ofNat 32 (fieldAt l (o + 0x10) 4),
    BitVec.ofNat 32 (fieldAt l (o + 0x14) 4), BitVec.ofNat 8 (fieldAt l (o + 0x18) 1), nbit st 0, nbit st 1, nbit st 2,
    BitVec.ofNat 6 (fieldAt l (o + 0x1A) 1)⟩

/-- An entry of the replay queue as saved (05 Table 5.2 section 7). -/
def Replay.bytes (r : Replay) : List Byte :=
  natBytes r.word.toNat 4 ++ natBytes 0 4 ++ natBytes r.addr.toNat 8 ++ natBytes r.capA.toNat 8 ++ natBytes r.capB.toNat 8

def Replay.ofBytes (l : List Byte) (o : Nat) : Replay :=
  ⟨BitVec.ofNat 32 (fieldAt l o 4), BitVec.ofNat 64 (fieldAt l (o + 8) 8), BitVec.ofNat 64 (fieldAt l (o + 16) 8), BitVec.ofNat 64 (fieldAt l (o + 24) 8)⟩

/-- The CSRs that Table 5.5 marks "Saved", in ascending address. -/
def Hart.csrBlock (h : Hart) : List Word :=
  [h.vec.vtype.setWidth 64, h.vec.vshape.setWidth 64, h.vec.vl.setWidth 64, h.vec.vstart.setWidth 64, h.front.wbase.setWidth 64,
    Store.get zeroOf h.front.lc 0, Store.get zeroOf h.front.lc 1, Store.get zeroOf h.front.lc 2, h.lstate, h.vec.fflags.setWidth 64, h.vec.frm.setWidth 64,
    BitVec.ofNat 64 (h.pmId.toNat * 2 ^ 48 + h.pmOcc.toNat), h.mat.tshape, h.mat.tfmt, h.mat.tstat, h.mat.tgrp,
    h.trap.tcause.setWidth 64, h.trap.tval, h.trap.tepc, h.trap.tstatus.setWidth 64, h.trap.tvec]

/-- An element of a distribution register (14 Table 14.1). -/
def Dist.elemBytes (x : Dist) (k : Nat) : List Byte :=
  (List.range 8).flatMap (fun p => natBytes (Store.get zeroOf x.values (k + p)).toNat 4 ++ natBytes (Store.get distW0 x.weights (k + p)).toNat 4)

/-- The distribution section (14 R330, Table 14.3): every element of all sixteen registers. -/
def Hart.distSection (h : Hart) : List Byte :=
  valuesBytes 2 (Store.read zeroOf h.dist.tags 0 16) ++ natBytes h.dlmax 2 ++ List.replicate 30 0
    ++ (List.range 16).flatMap (fun n => (List.range h.dlmax).flatMap (fun e => h.dist.elemBytes (distKey n e)))

/-- Elements of one register that a distribution section holds from an offset on: values (`at_` 0) or weights (4) of its points, in key order. -/
def distValues (l : List Byte) (off k at_ : Nat) : List (BitVec 32) :=
  (List.range (8 * k)).map (fun i => BitVec.ofNat 32 (fieldAt l (off + 8 * i + at_) 4))

def Dist.ofSection (l : List Byte) (off dl : Nat) : Dist :=
  let reg := fun n => off + 0x40 + 64 * (n * dl)
  ⟨(List.range 16).foldl (fun m n => Store.write zeroOf m (distKey n 0) (distValues l (reg n) dl 0)) [],
    (List.range 16).foldl (fun m n => Store.write distW0 m (distKey n 0) (distValues l (reg n) dl 4)) [],
    Store.write zeroOf [] 0 (bytesValues 16 2 off 16 l)⟩

/-- Sizes of sections 2 to 11 (05 Table 5.2), and the offset of section `i`, each at a 256-byte boundary. -/
def Hart.saveSizes (h : Hart) : List Nat :=
  [2048, 256, 4 * h.vlmax, 1024, 4096, 2048, h.parts.toNat * 98304, h.parts.toNat * 262144, 64 + 1024 * h.dlmax, 512]

def Hart.saveOffset (h : Hart) (i : Nat) : Nat := ((h.saveSizes.take (i - 2)).map (fun n => roundUp n 256)).foldl (· + ·) 256
def Hart.saveSize (h : Hart) : Nat := h.saveOffset 12

/-- Sections 2 to 11 as bytes. -/
def Hart.saveSections (h : Hart) : List (List Byte) :=
  [valuesBytes 8 (Store.read zeroOf h.front.regs 0 256),
    valuesBytes 8 h.csrBlock,
    (List.range 16).flatMap (fun m => bitsBytes (Store.read zeroOf h.vec.masks (m * 2 ^ 18) (2 * h.vlmax))),
    h.vec.streams.flatMap Stream.bytes,
    valuesBytes 4 (Store.read zeroOf h.vec.scale 0 1024),
    h.window.flatMap Replay.bytes,
    (List.range h.vregs.toNat).flatMap (fun v => Store.read zeroOf h.vec.vrf (v * 98304) h.vlmax),
    valuesBytes 4 (Store.read zeroOf h.mat.tiles 0 (h.parts.toNat * 65536)),
    h.distSection,
    bitsBytes (Store.read zeroOf h.detm.sigR 0 2048) ++ bitsBytes (Store.read zeroOf h.detm.sigW 0 2048)]

/-- Bytes padded with zeros. -/
def padTo (n : Nat) (l : List Byte) : List Byte := l ++ List.replicate (n - l.length) 0

def Hart.saveBody (h : Hart) : List Byte := (h.saveSections.zip h.saveSizes).flatMap (fun p => padTo (roundUp p.2 256) p.1)

/-- The header, section 1, with VALID = 1 (05 Table 5.2). The program counter is that of the instruction the front end stands at: for a hart that waits for
an instruction of its replay queue that instruction's (log 28). -/
def Hart.saveHeader (h : Hart) (node : Word) : List Byte :=
  padTo 256 (natBytes 0x0100 2 ++ natBytes 1 1 ++ List.replicate 5 0 ++ natBytes h.front.pc.toNat 8 ++ natBytes h.wid.toNat 8 ++ natBytes h.task.toNat 8
    ++ natBytes h.vec.lfsr.toNat 4 ++ natBytes h.parts.toNat 1 ++ natBytes h.vregs.toNat 1 ++ natBytes h.prio.toNat 1 ++ natBytes 0 1
    ++ natBytes node.toNat 8 ++ natBytes h.window.length 8)

/-- VALID = 1 and version 0x0100 (05 R107). -/
def headerValid (l : List Byte) : Bool := decide (fieldAt l 0 2 = 0x0100 ∧ fieldAt l 2 1 = 1)

/-- What the header of a save area gives back. -/
def Hart.ofHeader (h : Hart) (l : List Byte) : Hart :=
  { h with front := { h.front with pc := BitVec.ofNat 64 (fieldAt l 8 8) }, wid := BitVec.ofNat 64 (fieldAt l 0x10 8), task := BitVec.ofNat 24 (fieldAt l 0x18 8),
           vec := { h.vec with lfsr := BitVec.ofNat 32 (fieldAt l 0x20 4) }, parts := BitVec.ofNat 4 (fieldAt l 0x24 1),
           vregs := BitVec.ofNat 7 (fieldAt l 0x25 1), prio := BitVec.ofNat 3 (fieldAt l 0x26 1),
           window := (List.range (min 64 (fieldAt l 0x30 8))).map (fun i => Replay.ofBytes l (h.saveOffset 7 + 32 * i)) }

/-- The CSR block of a save area, `o` its offset. -/
def Hart.ofCsrs (h : Hart) (l : List Byte) (o : Nat) : Hart :=
  let f := fun i => fieldAt l (o + 8 * i) 8
  let g : Nat → Word := fun i => BitVec.ofNat 64 (f i)
  let h1 := { h with vec := { h.vec with vtype := BitVec.ofNat 13 (f 0), vshape := BitVec.ofNat 40 (f 1), vl := BitVec.ofNat 18 (f 2),
                                         vstart := BitVec.ofNat 18 (f 3), fflags := BitVec.ofNat 6 (f 9), frm := BitVec.ofNat 2 (f 10) },
                     front := { h.front with wbase := BitVec.ofNat 8 (f 4), lc := Store.write zeroOf [] 0 [g 5, g 6, g 7] },
                     pmId := BitVec.ofNat 16 (f 11 / 2 ^ 48), pmOcc := BitVec.ofNat 48 (f 11),
                     mat := { h.mat with tshape := g 12, tfmt := g 13, tstat := g 14, tgrp := g 15 },
                     trap := ⟨BitVec.ofNat 8 (f 16), g 17, g 18, BitVec.ofNat 16 (f 19), g 20⟩ }
  { h1 with front := { h1.front with levels := (levelsOf h1.loopRef (f 8)).reverse } }

/-- The hart that the bytes of a save area describe; what the area does not hold stays as the scheduler keeps it. -/
def Hart.ofSave (h0 : Hart) (l : List Byte) : Hart :=
  let h := h0.ofHeader l
  let o := h.saveOffset
  let h1 := h.ofCsrs l (o 3)
  let masks := (List.range 16).foldl (fun m i => Store.write zeroOf m (i * 2 ^ 18) (bytesBits (o 4 + i * (h.vlmax / 4)) (2 * h.vlmax) l)) ([] : Store 1)
  let vrf := (List.range h.vregs.toNat).foldl (fun m i => Store.write zeroOf m (i * 98304) (bytesValues 8 1 (o 8 + i * h.vlmax) h.vlmax l)) ([] : Store 8)
  { h1 with front := { h1.front with regs := Store.write zeroOf [] 0 (bytesValues 64 8 (o 2) 256 l) },
            vec := { h1.vec with masks := masks, vrf := vrf, streams := (List.range 16).map (fun i => Stream.ofBytes l (o 5 + 64 * i)),
                                 scale := Store.write zeroOf [] 0 (bytesValues 32 4 (o 6) 1024 l) },
            mat := { h1.mat with tiles := Store.write zeroOf [] 0 (bytesValues 32 4 (o 9) (h.parts.toNat * 65536) l), bad := [] },
            dist := Dist.ofSection l (o 10) h.dlmax,
            detm := { h1.detm with sigR := Store.write zeroOf [] 0 (bytesBits (o 11) 2048 l), sigW := Store.write zeroOf [] 0 (bytesBits (o 11 + 256) 2048 l) } }

/-- The scheduler region of a die (04 R67); behind the profile and the backing areas of the distribution registers (14 R305) save areas take it (log 28). What
lies in the backing areas, which change time only, is not held (log 79). -/
def schedRegion (die : Nat) : Nat := die * 2 ^ 37 + 0x1BF0000000
def saveRegion (die : Nat) : Nat := schedRegion die + 0x8810000

/-- Harts whose save areas lie in a die's region. -/
def savedOn (s : State) (die : Nat) : List Hart := (allHarts s).filter (fun h => h.out && h.alive && decide (homeDie h.saveAt = die))

/-- A save area for a hart: the lowest place behind others where it fits (log 28). -/
def saveSlot (s : State) (h : Hart) : Option Nat :=
  let die := h.lcore.toNat / 64
  let taken := savedOn s die
  let fits : Nat → Bool := fun a => decide (a + h.saveSize ≤ schedRegion die + 2 ^ 28)
    && taken.all (fun x => decide (x.saveAt + x.saveSize ≤ a ∨ a + h.saveSize ≤ x.saveAt))
  ((saveRegion die :: taken.map (fun x => x.saveAt + x.saveSize)).filter fits).min?

/-- Sectors of a save area for which the version store needs an entry (19 R404). -/
def saveNeeds (s : State) (pa n : Nat) : Nat :=
  ((upFrom (pa / 64) (n / 64)).filter (fun q => !s.vs.any (fun e => decide (e.sector = q) && e.undo && e.tag == rinOf s (homeDie pa)))).length

/-- Firmware's tagged stores to a save area (05 R106). -/
def saveWrite (s : State) (pa : Nat) (bs : List Byte) : State :=
  (pieces64 pa bs).foldl (fun t p => writeHome t p.1 p.2 (rinOf t (homeDie p.1)) none none) s

/-- Steps 3 and 4 of 05 R106: sections 2 to 11, then the header, its sector with VALID last. -/
def saveHart (s : State) (h : Hart) (pa : Nat) : State :=
  let node := ((nodeOf s h.node).map Node.addr).getD 0
  let hd := h.saveHeader node
  saveWrite (saveWrite (saveWrite s (pa + 256) h.saveBody) (pa + 64) (hd.drop 64)) pa (hd.take 64)

/-- A saved context has changed while it was out: its area is written anew, once the version store has room. -/
def resave (s : State) (h : Nat) : State :=
  match hartOf s h with
  | none => s
  | some x => if x.out && x.alive then saveHart s x x.saveAt else s

/-- VALID is cleared (05 R107 step 2). -/
def clearValid (s : State) (pa : Nat) : State := saveWrite s (pa + 2) [0]

end Sys2Proof.Machine
end

