-- ==== Sys2Proof/Machine/Det.lean ====
section
/-! DEFINITION. Sys2Proof/Machine/Det.lean: DBAR and the end of a phase of a deterministic node (17 R373, R380 to R382). -/
namespace Sys2Proof.Machine

/-- DBAR (17 R380): in a node with det = off ILLEGAL_INSTR; else the hart arrives and waits without its slot. It retires with the merge. -/
def execDbar (s : State) : Host.Outcome State Fault Refusal :=
  hartOnly s (fun s =>
    if s.hart.det = 0 then illegalWord s (wordF3 0x50 0 0 0 0)
    else runX (do
      xferPark (wordF3 0x50 0 0 0 0)
      xMod (fun t => dropSlot (pushWindow { t with hart := { t.hart with detm := { t.hart.detm with arrived := true } } } (wordF3 0x50 0 0 0 0) 0 0) .waiting .dbar)
      xMod (fun t => if phaseFull t s.hart.node then raiseEvents t [.detPhaseMerge s.hart.node] else t)) s)

/-- A conflict between two tasks and the value that names it (17 R382). `w` lists the writes of the phase as (task, sector, virtual address). -/
def pairConflict (w : List (Nat × Nat × Nat)) (a b : Hart) : Option Word :=
  let i := a.task.toNat
  let j := b.task.toNat
  let shared := w.filter (fun x => decide (x.1 = i) && w.any (fun y => decide (y.1 = j ∧ y.2.1 = x.2.1)))
  let vas := shared.map (fun x => x.2.2 / 64 * 64)
  let bits := (a.detm.sigR.filter (fun e => b.detm.sigW.contains e) ++ a.detm.sigW.filter (fun e => b.detm.sigR.contains e)).map Prod.fst
  match vas.min?, bits.min? with
  | some v, _ => some (BitVec.ofNat 64 v)
  | none, some k => some (BitVec.ofNat 64 (2 ^ 63 + k))
  | none, none => none

/-- The first conflicting pair in lexicographic order of a list of tasks in ascending order. -/
def firstConflict (w : List (Nat × Nat × Nat)) (l : List Hart) : Option (Hart × Word) :=
  match l with
  | [] => none
  | a :: r => match r.findSome? (pairConflict w a) with
    | some v => some (a, v)
    | none => firstConflict w r

/-- Insert a hart by its task index. -/
def insertTask (h : Hart) (l : List Hart) : List Hart :=
  match l with
  | [] => [h]
  | a :: r => if h.task.toNat ≤ a.task.toNat then h :: a :: r else a :: insertTask h r

/-- Tasks of a node, ended ones too, in ascending order. -/
def tasksOf (s : State) (num : Nat) : List Hart :=
  ((allHarts s).filter (fun h => decide (h.node = num) && h.status != .absent)).foldr insertTask []

/-- Check() of 17 R382. -/
def detCheck (s : State) (nd : Node) : Option (Hart × Word) := firstConflict nd.writes (tasksOf s nd.num)

/-- Die that runs group 0 of a node (17 Table 17.2). -/
def groupDie (nd : Node) : Nat := (nd.cores.headD 0).toNat / 64

/-- The phase is rolled back and counted (17 R382 step 1). -/
def conflictRoll (s : State) (nd : Node) : State := mgmtAdd (rollPhase s nd.num) (0x60018 + 0x40 * groupDie nd) 1

/-- The hart's DBAR retires: signatures cleared (17 R381), the next phase begins. -/
def Hart.passDbar (h : Hart) : Hart := { h with detm := ⟨[], [], false⟩ }

/-- The merge completes for a task that is switched out: its reissued DBAR retires when it is restored (05 R107). -/
def Hart.mergedOut (h : Hart) : Hart := { (h.passDbar) with status := .parked, wait := .none }

/-- The merge without a conflict (17 R380). -/
def phaseMerge (s : State) (nd : Node) : State :=
  let s1 := updNode (dropDet s nd.num) nd.num (fun x => { x with tags := [], writes := [], phase := x.phase + 1 })
  let waiting := (allHarts s1).filter (fun h => decide (h.node = nd.num) && h.alive && h.detm.arrived)
  let s2 := updHarts s1 (fun h => decide (h.node = nd.num)) (fun h => { h with detm := { h.detm with sigR := [], sigW := [] } })
  waiting.foldl (fun t h => if h.out then updHart t h.hid Hart.mergedOut else endWaitRetire t h.hid Hart.passDbar) s2

/-- A conflict (17 R382): every task but task i stops, and task i takes DET_CONFLICT at its DBAR. A task i that has ended can take none: the node fails
as at the final DBAR of R380 (log 19). -/
def conflictTrap (s : State) (nd : Node) (a : Hart) (v : Word) : State :=
  let s1 := conflictRoll s nd
  if a.alive then
    let s2 := updHarts s1 (fun h => decide (h.node = nd.num ∧ h.hid ≠ a.hid) && h.alive) (fun h => h.finish .ended)
    let s3 := updHart s2 a.hid (fun h => { h with detm := ⟨[], [], false⟩ })
    let s4 := focus (endWait s3 a.hid) a.hid
    resave (takeTrapAt s4 .detConflict v s4.hart.front.pc false) a.hid
  else failNode s1 nd.num 0x08

/-- An event that must wait: for a line it comes again; for space it comes again when a seal has freed some (19 R406). -/
def again (s : State) (q : Stall) (i : Instr) : State :=
  match q with
  | .space _ _ => applyStall s q
  | .seal _ => applyStall s q
  | _ => raiseEvents (applyStall s q) [i]

/-- Entries of a die's version store that the new save of a context that is switched out needs. -/
def resaveNeeds (s : State) (h : Hart) (die : Nat) : Nat := if h.out && decide (homeDie h.saveAt = die) then saveNeeds s h.saveAt h.saveSize else 0

/-- DET_PHASE_MERGE (17 R380, R382). A roll back whose writes find no space or a line that is not stable waits (19 R402, 11 R236). -/
def execDetPhaseMerge (n : Nat) (s : State) : Host.Outcome State Fault Refusal :=
  match nodeOf s n with
  | none => .next s
  | some nd =>
    if hdrDet nd.hdr = 0 ∨ phaseFull s n = false then .next s
    else if hdrDet nd.hdr = 2 then
      match detCheck s nd with
      | some (a, v) => (match rollWait s n (resaveNeeds s a) with
        | some q => .next (again s q (.detPhaseMerge n))
        | none => .next (conflictTrap s nd a v))
      | none => .next (phaseMerge s nd)
    else .next (phaseMerge s nd)

end Sys2Proof.Machine
end

