-- ==== Sys2Proof/Machine/Graph.lean ====
section
/-! DEFINITION. Sys2Proof/Machine/Graph.lean: the scheduler's reads of memory, the checks of Table 3.6, posting, the watch unit and control nodes
(03 R42 to R57, R64). -/
namespace Sys2Proof.Machine

/-- Pages that hold bytes `va` to `va + n - 1`. -/
def pagesOf (va n : Nat) : List Nat := if n = 0 then [] else upFrom (va / 65536) ((va + n - 1) / 65536 + 1 - va / 65536)

/-- What stops a scheduler's read of a graph's memory (03 R45). -/
inductive ReadStop where
  | wait (vpn : Nat)
  | noRight
  | poison (sector : Nat)
deriving DecidableEq, Repr

/-- Physical bytes as home holds them. -/
def physBytes (s : State) (pa n : Nat) : List Byte := if isMgmt pa then mgmtBytes s pa n else memBytes s pa n

/-- The first poisoned sector among the bytes of a read. -/
def poisonIn (s : State) (pa n : Nat) : Option Nat :=
  if s.poison.isEmpty then none else (upFrom (pa / 64) ((pa + n - 1) / 64 + 1 - pa / 64)).find? (fun q => poisonAt s (q * 64))

/-- A coherent read at scope s of `n` bytes through an address space, page by page (03 R45). -/
def schedRead (s : State) (asid fuel va n : Nat) : Except ReadStop (List Byte) :=
  match fuel with
  | 0 => .ok []
  | f + 1 =>
    if n = 0 then .ok []
    else
      let k := min n (65536 - va % 65536)
      match walk s asid (va / 65536) with
      | .absent => .error (.wait (va / 65536))
      | .poisoned pa => .error (.poison (pa / 64))
      | .leaf e =>
        if leafRD e then
          let pa := leafPA e + va % 65536
          match poisonIn s pa k with
          | some q => .error (.poison q)
          | none => match schedRead s asid f (va + k) (n - k) with
            | .ok r => .ok (physBytes s pa k ++ r)
            | .error x => .error x
        else .error .noRight

def schedBytes (s : State) (asid va n : Nat) : Except ReadStop (List Byte) := schedRead s asid (n / 65536 + 2) va n

/-- The scheduler's die, 0, receives the bytes of a read through an address space (19 R403). -/
def schedReceives (s : State) (asid va n : Nat) : State :=
  (pagesOf va n).foldl (fun t p => match walk s asid p with
    | .leaf e =>
      let a := max va (p * 65536)
      receivesBytes t 0 (leafPA e + a % 65536) (min (va + n) (p * 65536 + 65536) - a)
    | _ => t) s

/-- Poison consumed by the scheduler, for a node or for an armed word, by slot and address (18 R396, 19 R417). -/
def schedPoison (s : State) (sector : Nat) (node : Option Nat) (word : Option (BitVec 6 × Word)) : State :=
  escalate { s with unrec := s.unrec ++ [⟨sector, node, word⟩] } 0 7 0 (sectorAddr sector)

/-- Ask for a page that a graph needs, on the die that R82 gives for `any`. -/
def askPage (s : State) (g : BitVec 6) (vpn : Nat) : State := requestPage s (asidOf s g.toNat) vpn (anyDie vpn) g.toNat

/-- Fields of a node's copy (03 Tables 3.1, 3.2). -/
def Node.kind (nd : Node) : Nat := fieldAt nd.raw 2 1
def Node.word (nd : Node) (off : Nat) : Nat := fieldAt nd.raw off 8

/-- Bytes `a` to `b - 1` are zero. -/
def zeroFrom (l : List Byte) (a b : Nat) : Bool := ((l.drop a).take (b - a)).all (fun x => decide (x = 0))

/-- The bytes that no table assigns are zero, and the fields of the type are in range (03 Table 3.6, first row). -/
def bodyOk (r : List Byte) : Bool :=
  let f := fieldAt r
  let noFork := decide (f 0x10 8 = 0)
  let wide := decide (f 0x31 1 = 4 ∨ f 0x31 1 = 8)
  match f 2 1 with
  | 1 => decide (f 0x28 8 % 64 = 0 ∧ f 0x48 8 % 65536 = 0) && zeroFrom r 0x33 0x38 && zeroFrom r 0x58 0x100
  | 2 => noFork && wide && decide (f 0x30 1 ≤ 7) && zeroFrom r 0x32 0x38 && zeroFrom r 0x40 0x100
  | 3 => noFork && wide && decide (f 0x30 1 ≤ 7 ∧ 1 ≤ f 0x34 4 ∧ f 0x38 8 ≠ 0) && zeroFrom r 0x32 0x34 && zeroFrom r 0x40 0x100
  | 4 => noFork && wide && decide (1 ≤ f 0x32 2 ∧ f 0x32 2 ≤ 24) && zeroFrom r 0x28 0x31 && zeroFrom r 0x34 0x40 && zeroFrom r (0x40 + 8 * f 0x32 2) 0x100
  | 5 => decide (1 ≤ f 0x20 2) && zeroFrom r 0x22 0x100
  | 6 => decide (f 0x30 1 ≤ 1) && zeroFrom r 0x31 0x100
  | 7 => zeroFrom r 0x20 0x100
  | _ => false

def nodeFormatOk (r : List Byte) : Bool :=
  decide (fieldAt r 0 2 = 0x0100 ∧ fieldAt r 0x18 8 % 8 = 0) && zeroFrom r 3 8 && bodyOk r

/-- The launch header (03 Table 3.8, Table 3.6; 17 R374). -/
def headerOk (h : List Byte) : Bool :=
  let f := fieldAt h
  let nf := f 2 1
  let hart := f 3 1 % 16
  let core := f 3 1 / 16
  let w := fun i => hdrWidth h i
  let total := hdrSum h 6
  let mode := f 0x0F 1
  decide (f 0 2 = 0x0100 ∧ 1 ≤ nf ∧ nf ≤ 6 ∧ hart ≤ core ∧ core ≤ nf)
    && (List.range 6).all (fun i => if i < nf then decide (1 ≤ w i ∧ w i ≤ 64) else decide (w i = 0))
    && decide (total ≤ 64 ∧ 1 ≤ hdrTasks h ∧ hdrTasks h ≤ 2 ^ 24 ∧ hdrTasks h ≤ 2 ^ (total - hdrBh h))
    && decide (1 ≤ hdrHarts h ∧ hdrHarts h ≤ 8 ∧ (hdrSplit h = 1 ∨ hdrSplit h = 2 ∨ hdrSplit h = 4 ∨ hdrSplit h = 8))
    && decide (1 ≤ hdrParts h ∧ hdrParts h ≤ 8 ∧ (hdrVregs h = 8 ∨ hdrVregs h = 16 ∨ hdrVregs h = 32 ∨ hdrVregs h = 64))
    && decide (hdrPrio h < 8 ∧ mode < 8 ∧ hdrDet h ≠ 3 ∧ hdrHarts h * hdrParts h ≤ (if hdrPreempt h then 7 else 8))
    && zeroFrom h 0x14 0x40
    && (decide (hdrDet h = 0) || decide (min (hdrTasks h) (hdrGroupSize h) ≤ hdrHarts h ∧ hdrGroups h ≤ 256))

/-- One declared-range entry (03 Table 3.9). -/
def rangeOk (l : List Byte) (i : Nat) : Bool :=
  let r := fieldAt l (16 * i + 0x0D) 1
  decide (1 ≤ fieldAt l (16 * i + 8) 5 ∧ 1 ≤ r ∧ r ≤ 3 ∧ fieldAt l (16 * i + 0x0E) 1 ≤ 5 ∧ fieldAt l (16 * i + 0x0F) 1 = 0)

def Node.nranges (nd : Node) : Nat := fieldAt nd.raw 0x32 1
def Node.argsize (nd : Node) : Nat := fieldAt nd.raw 0x30 2

def rangesOk (nd : Node) : Bool :=
  decide (nd.argsize ≤ 4096 ∧ nd.nranges ≤ 32) && (List.range nd.nranges).all (rangeOk nd.ranges)

/-- The binary's magic, version and flags (02 Table 2.4). -/
def imageOk (b : List Byte) : Bool := decide (fieldAt b 0 4 = 0x4D455343 ∧ fieldAt b 4 2 = 0x0100 ∧ fieldAt b 6 2 = 0)

/-- The checks of Table 3.6 in table order: 0, or the cause of the first that fails (03 R64). -/
def nodeCause (nd : Node) : Nat :=
  if nd.readFail = 0x20 ∨ nodeFormatOk nd.raw = false then 0x20
  else if nd.kind ≠ 1 then 0
  else if nd.readFail = 0x21 ∨ headerOk nd.hdr = false then 0x21
  else if nd.readFail = 0x22 ∨ rangesOk nd = false then 0x22
  else if nd.readFail = 0x23 ∨ imageOk nd.sem = false then 0x23
  else 0

/-- Bytes of a semantic binary, from offset 0 to the end of its mark table (02 R39). -/
def imageSize (b : List Byte) : Nat :=
  let marks := 72 * fieldAt b 0x1C 4
  if fieldAt b 0x10 4 = 0 then roundUp (64 + fieldAt b 0x0C 4) 64 + marks
  else roundUp (fieldAt b 0x10 4 + fieldAt b 0x14 4) 8 + marks

/-- One read of R45: unaligned or not readable, the failure is recorded; else the bytes go to `k`. -/
def readOr (s : State) (asid va n align code : Nat) (nd : Node) (k : List Byte → Except ReadStop Node) : Except ReadStop Node :=
  if va % align ≠ 0 then .ok { nd with readFail := BitVec.ofNat 8 code }
  else match schedBytes s asid va n with
    | .ok l => k l
    | .error .noRight => .ok { nd with readFail := BitVec.ofNat 8 code }
    | .error x => .error x

/-- The reads of a KERNEL node's header, range list and binary (03 R45). -/
def copyKernel (s : State) (asid : Nat) (n0 : Node) : Except ReadStop Node :=
  readOr s asid (n0.word 0x20) 64 64 0x21 n0 (fun h =>
    let n1 := { n0 with hdr := h }
    readOr s asid (n1.word 0x38) (if n1.nranges ≤ 32 then 16 * n1.nranges else 0) 16 0x22 n1 (fun l =>
      let n2 := { n1 with ranges := l }
      readOr s asid (n2.word 0x40) 64 64 0x23 n2 (fun b =>
        let n3 := { n2 with sem := b }
        if imageOk b then
          readOr s asid (n3.word 0x40) (imageSize b) 64 0x23 n3 (fun bs => .ok { n3 with digest := digestOf bs })
        else .ok n3)))

/-- The reads made at POSTED (03 R44, R45). The header, the ranges and the binary of a KERNEL node that fails its own format check are not read, so that they ask for
no page and consume no poison: the node fails by R64 whatever they hold (DESIGN CHOICE, log 40). -/
def copyNode (s : State) (nd : Node) : Except ReadStop Node :=
  let asid := asidOf s nd.slot.toNat
  readOr s asid nd.addr.toNat 256 256 0x20 nd (fun r =>
    let n1 := { nd with raw := r }
    if n1.kind = 1 ∧ nodeFormatOk r = true then copyKernel s asid n1 else .ok n1)

/-- What the reads of R45 have read, as (address, bytes): the node, its header, its ranges, its binary's header and its binary. -/
def Node.readRanges (nd : Node) : List (Nat × Nat) :=
  [(nd.addr.toNat, nd.raw.length), (nd.word 0x20, nd.hdr.length), (nd.word 0x38, nd.ranges.length), (nd.word 0x40, nd.sem.length),
    (nd.word 0x40, if nd.readFail = 0 ∧ imageOk nd.sem = true then imageSize nd.sem else 0)]

/-- The reads of R45 have been made. -/
def Node.copied (nd : Node) : Bool := !nd.raw.isEmpty || decide (nd.readFail ≠ 0)

/-- Control register of a slot (03 Table 3.7). -/
def graphCtl (s : State) (g : BitVec 6) : Word := mgmtGet s (0x10000 + 0x20 * g.toNat)
def graphOn (s : State) (g : BitVec 6) : Bool := (graphCtl s g).getLsbD 0
def graphHalted (s : State) (g : BitVec 6) : Bool := (graphCtl s g).getLsbD 3

def slotOf (s : State) (g : BitVec 6) : Graph := s.graphs.getD g.toNat ⟨none, 0, []⟩
def armedOf (s : State) (g : BitVec 6) : Option Word := (slotOf s g).armed
def setSlot (s : State) (g : BitVec 6) (x : Graph) : State := { s with graphs := s.graphs.set g.toNat x }

/-- A slot's word is disarmed. -/
def disarm (s : State) (g : BitVec 6) : State := setSlot s g { slotOf s g with armed := none }

/-- Arm a word of an enabled graph, the tail of a strand: it is monitored, then read (03 R54). -/
def armWord (s : State) (g : BitVec 6) (va : Word) (strand : Nat) (loops : List Word) : State :=
  if graphOn s g then raiseOnce (setSlot s g ⟨some va, strand, loops⟩) (.followArmedWord g) else s

/-- Arm the root word, where a main strand begins (03 R43). -/
def armRoot (s : State) (g : BitVec 6) : State :=
  armWord { s with nextNode := s.nextNode + 1 } g (mgmtGet s (0x10008 + 0x20 * g.toNat)) s.nextNode []

/-- A node is POSTED, READY, LEASED or RUNNING. -/
def NodeState.live (x : NodeState) : Bool := x == .posted || x == .ready || x == .leased || x == .running

/-- A new occurrence of a node (03 R46): its number follows that of the last one the scheduler holds; a LOOP keeps its counter and
the capped bit of its last exit (R50). -/
def freshNode (s : State) (g : BitVec 6) (addr : Word) (main : Bool) (strand : Nat) (loops : List Word) : Node :=
  let old := (s.nodes.filter (fun n => decide (n.slot = g ∧ n.addr = addr) && (n.state == .done || n.state == .sealed))).getLast?
  { num := s.nextNode, addr := addr, slot := g, state := .posted, raw := [], hdr := [], ranges := [], sem := [], digest := 0, readFail := 0,
    main := main, strand := strand, pos := s.nextNode, loops := loops, sel := 8, nextWait := .none, cwWait := [], cwPage := false, arrivals := 1, readyNo := 0, readyAt := 0,
    occ := (match old with
      | some o => o.occ + 1
      | none => 1),
    iter := (match old with
      | some o => o.iter
      | none => 0),
    capped := (match old with
      | some o => o.capped
      | none => false),
    cause := 0, resWait := false, asked := [], lease := [], asid := 0, pages := [], cores := [], nextTask := [], left := 0,
    endedTasks := 0, failedTasks := [], phase := 0, tags := [], writes := [], doneRin := 0, pinned := false, advText := 0, advSize := 0, advPages := [] }

/-- Control reaches a node (03 R43, R46): a new occurrence, an arrival at a POSTED JOIN, or a second reaching, which fails it. Which strand leaves a JOIN that only branch
strands reach the spec does not say: the model keeps that of the first arrival, with its place on it (DESIGN CHOICE, log 69). -/
def postNode (s : State) (g : BitVec 6) (addr : Word) (main : Bool) (strand : Nat) (loops : List Word) : State :=
  match s.nodes.find? (fun n => decide (n.slot = g ∧ n.addr = addr) && n.state.live) with
  | some nd =>
    if nd.state = .posted ∧ (nd.copied = false ∨ nd.kind = 5) then
      let merge : Node → Node := fun x =>
        { x with arrivals := x.arrivals + 1, main := x.main || main, strand := if main then strand else x.strand,
                 pos := if main then s.nextNode else x.pos, loops := x.loops ++ loops.filter (fun l => !x.loops.contains l) }
      let t := { (updNode s nd.num merge) with nextNode := s.nextNode + 1 }
      if nd.copied then raiseOnce t (.nodeReady nd.num) else t
    else failNode s nd.num 0x20
  | none =>
    raiseEvents { s with nodes := s.nodes ++ [freshNode s g addr main strand loops], nextNode := s.nextNode + 1 } [.nodeReady s.nextNode]

/-- FOLLOW_ARMED_WORD (03 R54): a zero word stays armed, any other is followed and disarmed; the node belongs to the strand whose tail the word is (R43,
R55). A poisoned word halts its graph until it is rewritten and HALT cleared (19 R417). During a firmware update a post is followed when admission resumes
(22 R450). An armed word whose page lacks RD is treated as a next word that cannot be read (R44; DEDUCED, log 45). -/
def execFollowArmedWord (g : BitVec 6) (s : State) : Host.Outcome State Fault Refusal :=
  match armedOf s g with
  | none => .next s
  | some va =>
    if s.boot ≠ .running ∨ s.fw ≠ .idle ∨ graphOn s g = false ∨ (graphHalted s g = true ∧ mgmtGet s (0x10010 + 0x20 * g.toNat) = va) then .next s
    else match schedBytes s (asidOf s g.toNat) va.toNat 8 with
      | .error (.wait v) => .next (askPage s g v)
      | .error .noRight => .next (haltGraph s g.toNat va)
      | .error (.poison q) => .next (schedPoison s q none (some (g, va)))
      | .ok l =>
        let v := BitVec.ofNat 64 (bytesNat l)
        let t := schedReceives s (asidOf s g.toNat) va.toNat 8
        if v = 0 then .next t else .next (postNode (disarm t g) g v true (slotOf t g).strand (slotOf t g).loops)

/-- The scheduler leases nothing while firmware is updated (22 R449) or a rebuild holds leasing (20 Table 20.1). -/
def admissionOpen (s : State) : Bool := s.fw == .idle && !s.leaseHeld

/-- A node in READY goes on (03 R58, R64): a KERNEL node that passes its checks waits for admission, and while it waits for RES_DONE for that (04 R72); any
other is LEASED at once with an empty lease, unless its graph is disabled or HALTED (R47, R54) or nothing is leased (22 R449, 20 Table 20.1). -/
def leaseReady (s : State) (nd : Node) : State :=
  if graphOn s nd.slot = false ∨ graphHalted s nd.slot = true ∨ admissionOpen s = false then s
  else
    let c := nodeCause nd
    if c ≠ 0 then failNode (updNode s nd.num (fun x => { x with state := .leased })) nd.num c
    else if nd.kind = 1 then (if nd.resWait then s else raiseOnce s (.admitNode nd.num))
    else
      let ev : Instr := match nd.kind with
        | 2 => .evalCond nd.num
        | 3 => .evalLoop nd.num
        | 4 => .evalSwitch nd.num
        | 6 => .signalWrite nd.num
        | _ => .nodeDone nd.num
      raiseEvents (updNode s nd.num (fun x => { x with state := .running })) [ev]

/-- A node enters READY. -/
def enterReady (s : State) (nd : Node) : State :=
  let n1 := { nd with state := .ready, arrivals := 0, readyNo := s.nextNode, readyAt := s.clock }
  leaseReady { (updNode s nd.num (fun _ => n1)) with nextNode := s.nextNode + 1 } n1

/-- After the reads of R45: a JOIN waits for its count, whether or not its copy passes its checks; a node of another type reached more than once fails
(03 R46). -/
def becomeReady (s : State) (nd : Node) : State :=
  let s1 := updNode s nd.num (fun _ => nd)
  if nd.kind = 5 ∧ nd.readFail = 0 then (if nd.arrivals < fieldAt nd.raw 0x20 2 then s1 else enterReady s1 nd)
  else if 1 < nd.arrivals then failNode s1 nd.num 0x20
  else enterReady s1 nd

/-- NODE_READY (03 R45, R46): the reads of a POSTED node, or a READY node whose graph may lease again. -/
def execNodeReady (n : Nat) (s : State) : Host.Outcome State Fault Refusal :=
  match nodeOf s n with
  | none => .next s
  | some nd =>
    if nd.state = .posted then
      if nd.copied then .next (becomeReady s nd)
      else match copyNode s nd with
        | .ok nd' => .next (becomeReady (nd'.readRanges.foldl (fun t r => schedReceives t (asidOf s nd.slot.toNat) r.1 r.2) s) nd')
        | .error (.wait v) => .next (askPage s nd.slot v)
        | .error (.poison q) => .next (schedPoison s q (some n) none)
        | .error .noRight => .next s
    else if nd.state = .ready then .next (leaseReady s nd)
    else .next s

/-- A control node selects the successor in the word at an offset, and its evaluation is complete (03 R49 to R51): it is DONE next. -/
def selectSucc (s : State) (n : Nat) (f : Node → Node) : State := raiseFirst (updNode s n f) [.nodeDone n]

/-- The evaluation of a RUNNING control node over its tested word (03 R49, R52). -/
def evalNode (n kind : Nat) (s : State) (k : State → Node → Nat → State) : Host.Outcome State Fault Refusal :=
  match nodeOf s n with
  | none => .next s
  | some nd =>
    if nd.state ≠ .running ∨ nd.kind ≠ kind then .next s
    else
      let w := fieldAt nd.raw 0x31 1
      let va := nd.word 0x20
      if va % w ≠ 0 then .next (failNode s n 0x03)
      else match schedBytes s (asidOf s nd.slot.toNat) va w with
        | .error (.wait v) => .next (askPage s nd.slot v)
        | .error .noRight => .next (failNode s n 0x05)
        | .error (.poison q) => .next (schedPoison s q (some n) none)
        | .ok l => .next (k (schedReceives s (asidOf s nd.slot.toNat) va w) nd (bytesNat l))

/-- The comparison of R49, in `b` bits. -/
def condTest (op b w x : Nat) : Bool :=
  match op with
  | 0 => decide (w = x)
  | 1 => decide (w ≠ x)
  | 2 => decide (sval b w < sval b x)
  | 3 => !decide (sval b w < sval b x)
  | 4 => decide (w < x)
  | 5 => !decide (w < x)
  | 6 => decide (w &&& x ≠ 0)
  | _ => decide (w &&& x = 0)

def Node.test (nd : Node) (w : Nat) : Bool :=
  let b := 8 * fieldAt nd.raw 0x31 1
  condTest (fieldAt nd.raw 0x30 1) b w (nd.word 0x28 % 2 ^ b)

/-- EVAL_COND (03 R49). -/
def execEvalCond (n : Nat) (s : State) : Host.Outcome State Fault Refusal :=
  evalNode n 2 s (fun t nd w => selectSucc t n (fun x => { x with sel := if nd.test w then 8 else 0x38 }))

/-- EVAL_LOOP (03 R50). -/
def execEvalLoop (n : Nat) (s : State) : Host.Outcome State Fault Refusal :=
  evalNode n 3 s (fun t nd w =>
    if nd.test w && decide (nd.iter < fieldAt nd.raw 0x34 4) then selectSucc t n (fun x => { x with sel := 0x38 })
    else selectSucc t n (fun x => { x with sel := 8, capped := nd.test w }))

/-- EVAL_SWITCH (03 R51): the index is clamped; a zero entry selects next. -/
def execEvalSwitch (n : Nat) (s : State) : Host.Outcome State Fault Refusal :=
  evalNode n 4 s (fun t nd w =>
    let i := min w (fieldAt nd.raw 0x32 2 - 1)
    selectSucc t n (fun x => { x with sel := if nd.word (0x40 + 8 * i) = 0 then 8 else 0x40 + 8 * i }))

/-- The write of a SIGNAL node to a device sector (03 R53); where it adds, the scheduler's die receives the old value (19 R403). -/
def signalStore (s0 : State) (nd : Node) (pa : Nat) : State :=
  let add := decide (fieldAt nd.raw 0x30 1 = 1)
  let s := if add then receives s0 0 (pa / 64) else s0
  let old := if add then memNat s pa 8 else 0
  writeHome s pa (natBytes (old + nd.word 0x28) 8) (rinOf s 0) none none

/-- SIGNAL_WRITE (03 R53): an irrevocable write enters the egress buffer of die 0 (19 R412). While space is short, the seal that frees it is requested
and the node stays RUNNING, as it does while the line is not stable. -/
def execSignalWrite (n : Nat) (s : State) : Host.Outcome State Fault Refusal :=
  match nodeOf s n with
  | none => .next s
  | some nd =>
    let va := nd.word 0x20
    let add := decide (fieldAt nd.raw 0x30 1 = 1)
    if nd.state ≠ .running ∨ nd.kind ≠ 6 then .next s
    else if va % 8 ≠ 0 then .next (failNode s n 0x03)
    else match walk s (asidOf s nd.slot.toNat) (va / 65536) with
      | .absent => .next (askPage s nd.slot (va / 65536))
      | .poisoned pa => .next (schedPoison s (pa / 64) (some n) none)
      | .leaf e =>
        let pa := leafPA e + va % 65536
        if leafW e = false ∨ (add = true ∧ leafRD e = false) then .next (failNode s n 0x05)
        else if leafMT e = 1 ∨ isHost pa = true then
          if egFull s 0 1 then .next (again s (.seal (rinOf s 0)) (.signalWrite n))
          else .next (raiseFirst (egressPush s 0 (BitVec.ofNat 16 (asidOf s nd.slot.toNat), va / 65536) pa (natBytes (nd.word 0x28) 8) add none none) [.nodeDone n])
        else if add && poisonAt s pa then .next (schedPoison s (pa / 64) (some n) none)
        else if vsFull s (homeDie pa) then .next (again s (.space (homeDie pa) (rinOf s (homeDie pa))) (.signalWrite n))
        else match cohWrite s (homeDie pa) (pa / 256) (pa / 64) with
          | none => .next (again s (.line (homeDie pa) (pa / 64) true) (.signalWrite n))
          | some t => .next (raiseFirst (signalStore t nd pa) [.nodeDone n])

/-- Write a node's completion words that waited for their page or for space (03 R48). -/
def flushCwords (s : State) (n : Nat) : State :=
  match nodeOf s n with
  | none => s
  | some nd => nd.cwWait.foldl (fun t w => queueCword t n w.1.toNat w.2.toNat) (updNode s n (fun x => { x with cwWait := [], cwPage := false }))

/-- Numbers in ascending order. -/
def insertNat (n : Nat) (l : List Nat) : List Nat :=
  match l with
  | [] => [n]
  | a :: r => if n ≤ a then n :: a :: r else a :: insertNat n r

def ascending (l : List Nat) : List Nat := l.foldr insertNat []

/-- Write the completion words that waited, those of the older occurrences first; a RETIRED node whose last word is written is let go. When space has become
free (`pages` false), those that wait for their page wait on (04 R72). -/
def flushAll (pages : Bool) (s : State) : State :=
  let ws := (s.nodes.filter (fun n => !n.cwWait.isEmpty && (pages || !n.cwPage))).map Node.num
  let t := (ascending ws).foldl flushCwords s
  (t.nodes.filter (fun n => ws.contains n.num && n.state == .retired && n.cwWait.isEmpty)).foldl (fun u n => raiseOnce u (.nodeRetire n.num)) t

/-- Successors of a node with the LOOP nodes whose body they lie in (03 R46, R50). -/
def Node.succLoops (nd : Node) : List Word :=
  let rest := nd.loops.filter (fun l => decide (l ≠ nd.addr))
  if nd.kind = 3 then (if nd.sel = 0x38 then nd.addr :: rest else rest) else nd.loops

/-- Control goes on to the selected word's value, and to fork, which starts a strand (03 R43). -/
def releaseSucc (s : State) (nd : Node) (v : Word) : State :=
  let s1 := updNode s nd.num (fun x => { x with nextWait := .none })
  let s2 :=
    if v ≠ 0 then postNode s1 nd.slot v nd.main nd.strand nd.succLoops
    else if nd.main then armWord s1 nd.slot (nd.addr + BitVec.ofNat 64 nd.sel) nd.strand nd.succLoops else s1
  let fork := BitVec.ofNat 64 (nd.word 0x10)
  if fork ≠ 0 ∧ nd.kind ≠ 2 ∧ nd.kind ≠ 3 ∧ nd.kind ≠ 4 then postNode s2 nd.slot fork false s2.nextNode nd.loops else s2

/-- The one read of next (03 R44), or the selected word of the copy. That fork, which stands in the copy already, is followed only with next, also while the
page of next is absent, is the model's choice: R43 and R44 do not say (log 69). -/
def readNext (s : State) (nd : Node) : State :=
  if nd.sel ≠ 8 then releaseSucc s nd (BitVec.ofNat 64 (nd.word nd.sel))
  else
    let waits : NextWait → State := fun w => updNode s nd.num (fun x => { x with nextWait := w })
    match schedBytes s (asidOf s nd.slot.toNat) ((nd.addr + 8).toNat) 8 with
    | .ok l => releaseSucc (schedReceives s (asidOf s nd.slot.toNat) ((nd.addr + 8).toNat) 8) nd (BitVec.ofNat 64 (bytesNat l))
    | .error (.wait v) => askPage (waits .page) nd.slot v
    | .error .noRight => haltGraph (waits .halted) nd.slot.toNat nd.addr
    | .error (.poison q) => schedPoison (waits .page) q (some nd.num) none

/-- Ended harts of a node leave the list of harts, and no event names them any more. -/
def isHartEvent (h : Nat) (i : Instr) : Bool :=
  match i with
  | .monitorWake x => decide (x = h)
  | .monwaitTimeout x => decide (x = h)
  | .bwaitWake x => decide (x = h)
  | .bwaitDeadline x => decide (x = h)
  | .awaitReturn x => decide (x = h)
  | .adviceWatchdog x => decide (x = h)
  | .parkExpiry x => decide (x = h)
  | .hartResident x => decide (x = h)
  | .contextSwitch x => decide (x = h)
  | .contextRestore x => decide (x = h)
  | _ => false

def dropHarts (s : State) (num : Nat) : State :=
  let gone := (allHarts s).filter (fun h => decide (h.node = num) && !h.alive)
  { s with others := s.others.filter (fun h => !(decide (h.node = num) && !h.alive)),
           hart := if s.hart.node = num ∧ s.hart.alive = false ∧ s.hart.status ≠ .absent then Hart.absent else s.hart,
           pending := s.pending.filter (fun i => !gone.any (fun h => isHartEvent h.hid i)) }

/-- The counter of a LOOP after an evaluation (03 R50). -/
def Node.nextIter (nd : Node) : Nat := if nd.kind = 3 ∧ nd.sel = 0x38 then nd.iter + 1 else 0

/-- A node becomes DONE (03 R46): its lease ends (04 R71), state 6 is queued (19 R412), next is read (R44). -/
def becomeDone (s0 : State) (nd : Node) : State :=
  let s := hearDies s0 nd.num
  let s1 := updNode s nd.num (fun x => { x with state := .done, doneRin := rinOf s 0, lease := [], cores := [], iter := x.nextIter })
  let s2 := queueCword (dropHarts s1 nd.num) nd.num 6 0
  readNext (applyDeferred (leaseEnded s2)) nd

/-- A KERNEL node's end: every task ended, every transfer retired; the end of a deterministic node is its final DBAR (17 R380). -/
def kernelDone (s : State) (nd : Node) : State :=
  if nd.endedTasks < hdrTasks nd.hdr ∨ s.transfers.any (fun t => decide (t.node = nd.num)) = true then s
  else if hdrDet nd.hdr = 2 ∧ (detCheck s nd).isSome = true then
    match rollWait s nd.num (fun _ => 0) with
    | some q => again s q (.nodeDone nd.num)
    | none => failNode (conflictRoll s nd) nd.num 0x08
  else becomeDone (if hdrDet nd.hdr = 0 then s else dropDet s nd.num) nd

/-- A LOOP node's final exit is SEALED: the last occurrence that the scheduler holds has selected next and is SEALED, or none is left (03 R46). -/
def loopExited (s : State) (g : BitVec 6) (a : Word) : Bool :=
  match (s.nodes.filter (fun n => decide (n.slot = g ∧ n.addr = a))).getLast? with
  | none => true
  | some n => decide (n.sel = 8) && (n.state == .sealed || n.state == .retired)

/-- May a SEALED node retire (03 Table 3.3)? -/
def canRetire (s : State) (nd : Node) : Bool :=
  nd.state == .sealed && nd.nextWait == .none
    && !s.nodes.any (fun n => decide (n.slot = nd.slot ∧ n.strand = nd.strand ∧ n.pos < nd.pos) && n.state != .retired && n.state != .failed)
    && (!graphOn s nd.slot || ((if nd.kind = 3 then nd.addr :: nd.loops else nd.loops).all (loopExited s nd.slot)))

/-- SEALED nodes that may retire now. -/
def wakeRetire (s : State) : State := (s.nodes.filter (canRetire s)).foldl (fun t n => raiseOnce t (.nodeRetire n.num)) s

/-- NODE_DONE (03 R46): a RUNNING node becomes DONE, or next is read again: once RES_DONE is written where
its page was absent, once HALT is cleared where it lacked RD (R44); a node that is SEALED by then may retire. -/
def execNodeDone (n : Nat) (s : State) : Host.Outcome State Fault Refusal :=
  match nodeOf s n with
  | none => .next s
  | some nd =>
    if nd.nextWait = .page ∨ (nd.nextWait = .halted ∧ graphHalted s nd.slot = false) then .next (wakeRetire (readNext s nd))
    else if nd.state ≠ .running then .next s
    else if nd.kind = 1 then .next (kernelDone s nd)
    else .next (becomeDone s nd)

/-- A later occurrence of the same node stands behind this one. -/
def superseded (s : State) (nd : Node) : Bool := s.nodes.any (fun n => decide (n.slot = nd.slot ∧ n.addr = nd.addr ∧ nd.num < n.num))

/-- The scheduler lets go of a record. -/
def isNodeEvent (n : Nat) (i : Instr) : Bool :=
  match i with
  | .nodeReady x => decide (x = n)
  | .admitNode x => decide (x = n)
  | .nodeDone x => decide (x = n)
  | .nodeRetire x => decide (x = n)
  | .evalCond x => decide (x = n)
  | .evalLoop x => decide (x = n)
  | .evalSwitch x => decide (x = n)
  | .signalWrite x => decide (x = n)
  | .detPhaseMerge x => decide (x = n)
  | _ => false

def dropNode (s : State) (n : Nat) : State :=
  { s with nodes := s.nodes.filter (fun x => decide (x.num ≠ n)), pending := s.pending.filter (fun i => !isNodeEvent n i) }

/-- With an occurrence that retires go the older ones of the same node that have FAILED and whose interval is sealed: the scheduler asks for them no more, so that a LOOP
that has exited since is found to have done so (03 R46). -/
def dropFailed (s : State) (nd : Node) : State :=
  let gone := s.nodes.filter (fun x => decide (x.slot = nd.slot ∧ x.addr = nd.addr ∧ x.num < nd.num) && x.state == .failed && x.cwWait.isEmpty && rinUpTo x.doneRin s.sealedRin)
  (gone.map Node.num).foldl dropNode s

/-- NODE_RETIRE (03 R46, R48): state 7 is queued and the record dropped, once no completion word of it waits. An occurrence behind which a later one of
the same node stands goes without a state 7: the node itself is not RETIRED. -/
def execNodeRetire (n : Nat) (s : State) : Host.Outcome State Fault Refusal :=
  match nodeOf s n with
  | none => .next s
  | some nd =>
    if nd.state = .retired then .next (if nd.cwWait = [] then dropNode s n else s)
    else if canRetire s nd then
      let s1 := dropFailed (updNode s n (fun x => { x with state := .retired })) nd
      let s2 := if superseded s nd then s1 else queueCword s1 n 7 0
      match nodeOf s2 n with
      | some x => if x.cwWait = [] then .next (wakeRetire (dropNode s2 n)) else .next (wakeRetire s2)
      | none => .next s2
    else .next s

/-- What a slot's scheduler can go on with: READY nodes, next words that a HALT held up, the armed word. That the POSTED and READY nodes of a graph whose EN was cleared are
kept, and leased once EN is set again, is the model's choice: R54 says only that leasing stops (DESIGN CHOICE, log 69). -/
def wakeSlot (s : State) (g : BitVec 6) : State :=
  let mine := s.nodes.filter (fun n => decide (n.slot = g))
  let ev : List Instr := (mine.filter (fun n => n.state == .ready)).map (fun n => .nodeReady n.num)
    ++ (mine.filter (fun n => n.nextWait == .halted)).map (fun n => .nodeDone n.num)
    ++ (if (armedOf s g).isSome then [.followArmedWord g] else [])
  ev.foldl raiseOnce s

/-- Leasing resumes: every slot goes on, posts made meanwhile are followed, and KERNEL nodes are admitted (22 R450, 20 Table 20.1). -/
def resumeLeasing (s : State) : State := wakeAdmission ((List.range 64).foldl (fun t g => wakeSlot t (BitVec.ofNat 6 g)) s)

/-- Bits of GRAPH_CTL that a write sets: ASID and SRC only while EN = 0 (03 Table 3.7). -/
def ctlMask (en : Bool) : Word := if en then 0x0000000000F00001 else 0xFFFF000000F10001

/-- GRAPH_CTL_WRITE (03 R54, Table 3.7): EN arms the root word or disarms; a one in HALT clears it and leasing resumes. Nodes that are POSTED or READY while EN = 0 wait
for EN (DESIGN CHOICE, log 69). -/
def execGraphCtlWrite (g : BitVec 6) (v : Word) (s : State) : Host.Outcome State Fault Refusal :=
  let off := 0x10000 + 0x20 * g.toNat
  let old := mgmtGet s off
  let m := ctlMask (old.getLsbD 0)
  let new := ((old &&& ~~~m) ||| (v &&& m)) &&& ~~~(v &&& 8)
  let s1 := mgmtPut s off new
  let s2 :=
    if v.getLsbD 0 && !old.getLsbD 0 then wakeSlot (armRoot s1 g) g
    else if !v.getLsbD 0 then disarm s1 g else s1
  let s3 := if old.getLsbD 3 && v.getLsbD 3 then wakeSlot s2 g else s2
  .next (wakeRetire s3)

/-- The next request is posted (04 R82). One whose page has become valid meanwhile is dropped and not posted: whether it is posted all the same the spec does not say
(DESIGN CHOICE, log 75). -/
def postNextRes (s : State) : State :=
  match s.resQ.find? (fun r => walk s r.asid.toNat r.vpn.toNat == .absent) with
  | none => { s with resQ := [] }
  | some r => postMailbox { s with resQ := (s.resQ.dropWhile (fun q => q != r)).drop 1 } r

/-- Events of a node that may wait for a page. -/
def nodeWaits (nd : Node) : List Instr :=
  (if nd.nextWait = .page then [.nodeDone nd.num] else [])
    ++ (match nd.state with
      | .posted => if nd.copied then [] else [.nodeReady nd.num]
      | .ready => [.nodeReady nd.num]
      | .running => (match nd.kind with
        | 2 => [.evalCond nd.num]
        | 3 => [.evalLoop nd.num]
        | 4 => [.evalSwitch nd.num]
        | 6 => [.signalWrite nd.num]
        | _ => [])
      | .retired => [.nodeRetire nd.num]
      | _ => [])

/-- RES_DONE (04 R72): PEND clears, the next request is posted, and everything that waits for a page walks again. -/
def execResDone (s : State) : Host.Outcome State Fault Refusal :=
  let s1 := postNextRes (mgmtPut s 0x30010 (mgmtGet s 0x30010 &&& ~~~(2 : Word)))
  let s2 := flushAll true { s1 with nodes := s1.nodes.map (fun n => { n with resWait := false }) }
  let s3 := (s2.nodes.flatMap nodeWaits).foldl raiseOnce s2
  let gs := (List.range 64).filter (fun i => (armedOf s3 (BitVec.ofNat 6 i)).isSome)
  .next ((gs.map (fun i => Instr.followArmedWord (BitVec.ofNat 6 i))).foldl raiseOnce s3)

end Sys2Proof.Machine
end

