-- ==== Sys2Proof/Machine/Interval.lean ====
section
/-! DEFINITION. Sys2Proof/Machine/Interval.lean: SEAL, RINQ and EXTW (19 R419 to R421). -/
namespace Sys2Proof.Machine

/-- SEAL (19 R420): the hart's transfers have performed, the seal of the current interval is requested; with w = 1 the hart waits
without its slot, and the instruction retires when the interval is sealed. -/
def xSeal (d : BitVec 7) (w : Bool) : X Unit := do
  xOperands (isS d)
  xferPark (wordF3 0x51 d.toNat 0 (if w then 1 else 0) 0)
  let m ← xRead (fun s => rinOf s s.die)
  xMod (fun s => requestSeal s m)
  if w then xMod (fun s =>
    let rd := s.front.dest d.toNat
    dropSlot (pushWindow s (wordF3 0x51 d.toNat 0 1 0) 0 0) .waiting (.sealWait rd m false))
  else do
    xSetS d.toNat (m.setWidth 64)
    xRetire

def execSeal (d : BitVec 7) (w : Bool) (s : State) : Host.Outcome State Fault Refusal := hartOnly s (runX (xSeal d w))

/-- The newest tag among entries. -/
def newestTag (l : List Egress) : Option W32 :=
  l.foldl (fun acc e => match acc with
    | none => some e.tag
    | some m => some (if rinBefore m e.tag then e.tag else m)) none

/-- Unreleased egress entries of a hart. -/
def ownEgress (s : State) (h : Nat) : List Egress := s.egress.filter (fun e => e.hid == some h)

/-- EXTW (19 R420): with unreleased entries of its own the hart waits until their newest interval is sealed and they are released;
then the instruction retires. -/
def xExtw (d : BitVec 7) : X Unit := do
  xOperands (isS d)
  let h ← xRead (fun s => s.hart.hid)
  xferPark (wordF3 0x51 d.toNat 0 0 2)
  let m ← xRead (fun s => newestTag (ownEgress s h))
  match m with
  | some m => do
    xMod (fun s => requestSeal s m)
    xMod (fun s =>
      let rd := s.front.dest d.toNat
      dropSlot (pushWindow s (wordF3 0x51 d.toNat 0 0 2) 0 0) .waiting (.sealWait rd m true))
  | none => do
    xMod (fun s => s.setSreg d.toNat (s.sealedRin.setWidth 64))
    xRetire

def execExtw (d : BitVec 7) (s : State) : Host.Outcome State Fault Refusal := hartOnly s (runX (xExtw d))

/-- What RINQ answers (19 R421). -/
def rinqValue (s : State) (k : BitVec 2) : Word :=
  if k = 0 then (rinOf s s.die).setWidth 64
  else if k = 1 then s.sealedRin.setWidth 64
  else if k = 2 then BitVec.ofNat 64 (1024 * vsUsed s s.die / (mgmtGet s (0x90108 + 0x40 * s.die)).toNat)
  else BitVec.ofNat 64 (egUsed s s.die / 32)

/-- RINQ (19 R421). -/
def execRinq (d : BitVec 7) (k : BitVec 2) (s : State) : Host.Outcome State Fault Refusal :=
  hartOnly s (fun s =>
    if isS d then .next (s.setSreg d.toNat (rinqValue s k)).retire else .next (takeTrap s .illegalOperand 0))

end Sys2Proof.Machine
end

