-- ==== Sys2Proof/Machine/Egress.lean ====
section
/-! DEFINITION. Sys2Proof/Machine/Egress.lean: writes that come to the module or leave its egress buffers: management accesses (06 R127), untagged writes to
device memory (19 R405), host memory (11 R239), and the release of sealed egress entries (19 R412, 21 R436). -/
namespace Sys2Proof.Machine

/-- A Causeway port is trained (21 Table 21.4). -/
def portUp (s : State) (i : Nat) : Bool := (mgmtGet s (0xB0008 + 8 * i)).getLsbD 0
def anyPortUp (s : State) : Bool := portUp s 0 || portUp s 1

/-- The port that carries a die's host traffic (01 R16, 21 R436), and the die on which a port sits. -/
def portOf (s : State) (die : Nat) : Nat :=
  let p := die / 2
  if portUp s p || !portUp s (1 - p) then p else 1 - p
def portDie (p : Nat) : Nat := 2 * p

/-- An address decode error (04 R66, 18 R397), reported by a die. -/
def decodeError (s : State) (die unit pa : Nat) : State :=
  bumpFree (logEvent s die 10 unit (BitVec.ofNat 64 pa) (Config.freeWord s.free))

/-- A write of bytes to the device management space: whole registers only, in ascending address, before anything that is due
(21 R436); any other size writes nothing and is logged (06 R127). -/
def mgmtWriteBytes (s : State) (die unit pa : Nat) (bs : List Byte) : State :=
  if pa % 8 = 0 ∧ bs.length % 8 = 0 then
    raiseFirst s ((List.range (bs.length / 8)).flatMap (fun i => mgmtEvents s (pa % 2 ^ 32 + 8 * i) (BitVec.ofNat 64 (fieldAt bs (8 * i) 8))))
  else decodeError s die unit pa

/-- A write to host memory updates or invalidates the device's copies of the line (11 R239, 19 R412): they are dropped. A line that waits for the host's data
takes the new bytes with it. `by_` is the hart that a released entry comes from. -/
def writeHost (s : State) (pa : Nat) (bs : List Byte) (by_ : Option Nat) : State :=
  putBytes { s with rdc := s.rdc.filter (fun r => !(decide (r.line = pa / 256)) || r.st.transient) } pa bs by_

/-- The line of an untagged write to any address is ready: every copy of a line of device memory is recalled or invalidated first, as for a write at the home
(11 R235, R240); none while it is not stable (R236). -/
def readyLine (s : State) (pa : Nat) : Option State := if deviceMem s pa then cohWrite s (homeDie pa) (pa / 256) (pa / 64) else some s

/-- An untagged write to any address, of bytes within one 64-byte piece, whose line is ready (04 R66). -/
def writeAnywhere (s : State) (die unit pa : Nat) (bs : List Byte) (by_ : Option Nat) : State :=
  if deviceMem s pa then writeUntagged s pa bs by_
  else if isMgmt pa then mgmtWriteBytes s die unit pa bs
  else if isHost pa then writeHost s pa bs by_
  else decodeError s die unit pa

/-- Lengths of runs of set bits of a byte mask as (offset, bytes). -/
def runsOf (fuel i : Nat) (mask : BitVec 64) (data : List Byte) : List (Nat × List Byte) :=
  match fuel with
  | 0 => []
  | f + 1 =>
    if i ≥ 64 then []
    else if mask.getLsbD i then
      let n := ((upFrom i (64 - i)).takeWhile (fun k => mask.getLsbD k)).length
      (i, (data.drop i).take n) :: runsOf f (i + n) mask data
    else runsOf f (i + 1) mask data

/-- A completion word is an entry of the scheduler for a node (19 R412). -/
def Egress.cword (e : Egress) : Bool := e.hid.isNone && e.node.isSome

/-- The bytes that an entry writes: its data from the entry's address on; a completion word takes the interval whose seal releases it (03 Table 3.5). -/
def Egress.bytes (e : Egress) : List Byte :=
  let l := natBytes e.data.toNat 64
  if e.cword then l.take 4 ++ natBytes e.tag.toNat 4 else l

/-- The 8 bytes at an address, as a read at the target returns them. -/
def targetNat (s : State) (pa : Nat) : Nat := if isMgmt pa then (mgmtRead s (pa % 2 ^ 32)).toNat else memNat s pa 8

/-- The release of one entry performs its write at the target (19 R412); none while the line is not stable. A write to a data slice counts with
its own tag, and stays (20 R431). The release of a hart's own write does not wake its monitor (16 R367). ERR_SRC.UNIT of a decode error is 0 there: the spec names no unit (DESIGN CHOICE, log 62). -/
def releaseEntry (s : State) (e : Egress) : Option State :=
  let pa := e.pa.toNat
  let die := e.die.toNat
  (readyLine s pa).map (fun t =>
    let u :=
      if e.add then writeAnywhere t die 0 pa (natBytes (targetNat t pa + e.data.toNat % 2 ^ 64) 8) e.hid
      else match e.half with
        | some odd => writeAnywhere t die 0 pa [putNibble odd (BitVec.ofNat 8 e.data.toNat) (Store.get memDefault t.mem pa)] e.hid
        | none => (runsOf 65 0 e.mask e.bytes).foldl (fun v r => writeAnywhere v die 0 (pa + r.1) r.2 e.hid) t
    if deviceMem t pa then parityMark u ⟨pa / 64, e.tag, true⟩ else u)

/-- May an entry be released: its interval is sealed, and while no port is up no host write of its die stands before or in it (21 R436). -/
def releasable (s : State) (before : List Egress) (e : Egress) : Bool :=
  rinUpTo e.tag s.sealedRin && (anyPortUp s || !(before ++ [e]).any (fun x => x.die == e.die && isHost x.pa.toNat))

/-- Release entries in the order they entered, `kept` those before that stay. An entry whose write raises events is followed by the others once those have
been taken, and so is one whose line is not stable, which is asked for. -/
def releaseRun (kept l : List Egress) (s : State) : State :=
  match l with
  | [] => { s with egress := kept }
  | e :: r =>
    if releasable s kept e then
      match releaseEntry s e with
      | none => { (askLine s (homeDie e.pa.toNat) (e.pa.toNat / 64) true) with egress := kept ++ e :: r }
      | some t => if t.pending.isEmpty then releaseRun kept r t else { t with egress := kept ++ r }
    else releaseRun (kept ++ [e]) r s

/-- Some entry may be released. -/
def mayRelease (s : State) : Bool := s.egress.any (releasable s [])

/-- Release what may be released. What the releases cause is due first, in their order; completion words that waited for room take it (03 R48), and
an invalidation that waited for the writes goes on (04 R87). -/
def releaseEgress (s : State) : State :=
  let s1 := releaseRun [] s.egress { s with pending := [] }
  let s2 := { s1 with pending := s1.pending ++ s.pending }
  if s2.egress.length < s.egress.length then flushAll false (invalGoesOn s2) else s2

/-- What a hart waits for in SEAL, or in EXTW, has come true (19 R420): with EXTW its entries have been released. -/
def sealMet (s : State) (h : Hart) : Bool :=
  match h.wait with
  | .sealWait _ m x => !h.out && rinUpTo m s.sealedRin && (!x || !s.egress.any (fun e => e.hid == some h.hid && rinUpTo e.tag m))
  | _ => false

/-- The waits of SEAL and EXTW that have come true end, with the interval as result. -/
def wakeSeals (s : State) : State :=
  ((allHarts s).filter (sealMet s)).foldl (fun t h => match h.wait with
    | .sealWait rd m _ => endWaitRetire t h.hid (fun x => x.setPhys rd (m.setWidth 64))
    | _ => t) s

/-- What goes on by itself once no event is due: entries that may be released (19 R412), then, once what their writes raise has been taken, the waits of SEAL
and EXTW (R420), and those for transfers. -/
def settle (s : State) : State :=
  let t := if mayRelease s then releaseEgress s else s
  if t.pending.isEmpty then releaseXfers (wakeSeals t) else t

end Sys2Proof.Machine
end

