-- ==== Sys2Proof/Machine/Launch.lean ====
section
/-! DEFINITION. Sys2Proof/Machine/Launch.lean: admission and placement (03 R58, 04 R75 to R82), leases (04 R71, R72), binding of advice images (12 R256), and
harts that become resident (05 R105). -/
namespace Sys2Proof.Machine

/-- A context taken on a logical core: its number, first partition, partitions. -/
structure Place where
  lcore : Nat
  ctx : Nat
  pfirst : Nat
  parts : Nat
deriving DecidableEq, Repr

def Hart.place (h : Hart) : Place := ⟨h.lcore.toNat, h.ctx.toNat, h.pfirst.toNat, h.parts.toNat⟩

/-- Contexts taken on a logical core: of resident harts, of harts on their way, and of harts that another logical core's time slice keeps out. -/
def occupants (s : State) (L : Nat) : List Place :=
  let shared := sharedCore s L
  (((allHarts s).filter (fun h => decide (h.lcore.toNat = L) && (h.resident || (h.alive && h.out && shared))))
    ++ s.arrivals.filter (fun h => decide (h.lcore.toNat = L))).map Hart.place

def partFree (occ : List Place) (i : Nat) : Bool := !occ.any (fun p => decide (p.pfirst ≤ i ∧ i < p.pfirst + p.parts))

/-- The lowest-numbered free context, and run of contiguous free partitions (05 R105). -/
def freeCtx (occ : List Place) : Option Nat := (List.range 8).find? (fun c => !occ.any (fun p => decide (p.ctx = c)))
def freeRun (occ : List Place) (parts : Nat) : Option Nat := (List.range (9 - parts)).find? (fun f => (upFrom f parts).all (partFree occ))

/-- Places for `n` harts on a core, one after the other. -/
def fitHarts (occ : List Place) (L n parts : Nat) : Option (List Place) :=
  match n with
  | 0 => some []
  | m + 1 => match freeCtx occ, freeRun occ parts with
    | some c, some f => (fitHarts (⟨L, c, f, parts⟩ :: occ) L m parts).map (fun r => ⟨L, c, f, parts⟩ :: r)
    | _, _ => none

/-- With preempt = 1 one further partition stays free (04 R80). -/
def fitCore (occ : List Place) (L n parts : Nat) (pre : Bool) : Option (List Place) :=
  match fitHarts occ L n parts with
  | some ps => if pre && !(List.range 8).any (partFree (ps ++ occ)) then none else some ps
  | none => none

/-- Tasks of group g, and the harts it takes (03 R61, 04 R80). -/
def groupTasks (h : List Byte) (g : Nat) : Nat := min (hdrTasks h) ((g + 1) * hdrGroupSize h) - g * hdrGroupSize h
def groupHarts (h : List Byte) (g : Nat) : Nat := min (hdrHarts h) (groupTasks h g)

/-- No group of a node whose graph has another ASID is on the logical cluster (04 R76, R80). -/
def clusterOk (s : State) (asid L : Nat) : Bool :=
  !s.nodes.any (fun n => (n.state == .leased || n.state == .running) && decide (asidOf s n.slot.toNat ≠ asid)
    && n.cores.any (fun c => decide (c.toNat / 4 = L / 4)))

/-- Free logical cores of a die: placed, and nothing on them. -/
def freeCores (s : State) (die : Nat) : Nat :=
  ((upFrom (64 * die) 64).filter (fun L => decide (remapOf s L ≠ 0x7F) && (occupants s L).isEmpty)).length

/-- A die of four with the largest count, the lowest-numbered on a tie. -/
def mostOf (f : Nat → Nat) : Nat := (List.range 4).foldl (fun b d => if f b < f d then d else b) 0

/-- Place of declared range i (03 Table 3.9). -/
def Node.rangePlace (nd : Node) (i : Nat) : Nat := fieldAt nd.ranges (16 * i + 0x0E) 1

/-- d0 of 04 R80. When it is reckoned for groups that wait the spec does not say: the model reckons it once for every pass over the groups not placed
(DESIGN CHOICE, log 70). -/
def startDie (s : State) (nd : Node) : Nat :=
  match ((List.range nd.nranges).map nd.rangePlace).find? (fun p => decide (2 ≤ p)) with
  | some p => p - 2
  | none => mostOf (freeCores s)

/-- A core that a group of a node may take, but for its contexts (04 R80 conditions 1 and 4). -/
def coreAllowed (s : State) (nd : Node) (L : Nat) : Bool := decide (remapOf s L ≠ 0x7F) && clusterOk s (asidOf s nd.slot.toNat) L

/-- The order of 04 R80. -/
def coreOrder (d0 : Nat) : List Nat := (List.range 256).map (fun i => (64 * d0 + i) % 256)

/-- The first core that takes a group, with `taken` in the same pass. -/
def placeGroup (s : State) (nd : Node) (d0 : Nat) (taken : List Place) (g : Nat) : Option (List Place) :=
  (coreOrder d0).findSome? (fun L =>
    if coreAllowed s nd L then
      fitCore (occupants s L ++ taken.filter (fun p => decide (p.lcore = L))) L (groupHarts nd.hdr g) (hdrParts nd.hdr) (hdrPreempt nd.hdr)
    else none)

/-- Groups in ascending number, until one finds no core. -/
def placeGroups (s : State) (nd : Node) (d0 : Nat) (taken : List Place) (gs : List Nat) : List (List Place) :=
  match gs with
  | [] => []
  | g :: r => match placeGroup s nd d0 taken g with
    | some ps => ps :: placeGroups s nd d0 (taken ++ ps) r
    | none => []

/-- Groups not placed yet, and their places now. -/
def unplaced (nd : Node) : List Nat := upFrom nd.cores.length (hdrGroups nd.hdr - nd.cores.length)
def planOf (s : State) (nd : Node) : List (List Place) := placeGroups s nd (startDie s nd) [] (unplaced nd)

/-- The placement of a READY node succeeds: a deterministic node needs every group, another its first (03 R58, 17 R374). -/
def planOk (nd : Node) (plan : List (List Place)) : Bool :=
  if hdrDet nd.hdr = 0 then !plan.isEmpty else decide (plan.length = hdrGroups nd.hdr)

/-- A declared range as the lease holds it (03 Table 3.9, 04 R71). -/
def Node.rangeAt (nd : Node) (i : Nat) : LeaseRange :=
  let r := fieldAt nd.ranges (16 * i + 0x0D) 1
  ⟨BitVec.ofNat 64 (fieldAt nd.ranges (16 * i) 8), fieldAt nd.ranges (16 * i + 8) 5, nbit r 0, nbit r 1, false, BitVec.ofNat 8 (nd.rangePlace i)⟩

/-- A node's lease (04 R71): declared ranges, argument block, text. -/
def Node.newLease (nd : Node) : List LeaseRange :=
  (List.range nd.nranges).map nd.rangeAt
    ++ [⟨BitVec.ofNat 64 (nd.word 0x28), nd.argsize, true, false, false, 0⟩,
        ⟨BitVec.ofNat 64 (nd.word 0x40 + 64), fieldAt nd.sem 0x0C 4, false, false, true, 1⟩]

/-- Home die of a page made resident for a range (04 R82). -/
def placeDie (p : BitVec 8) (local_ vpn : Nat) : Nat := if p = 0 then local_ else if p = 1 then anyDie vpn else p.toNat - 2

/-- Every page that meets the lease, with the die of its lowest-indexed range and the walk of its translation (04 R72, R82). -/
def leasePages (s : State) (asid local_ : Nat) (l : List LeaseRange) : List (Nat × Nat × Walk) :=
  l.foldl (fun acc r => (pagesOf r.base.toNat r.len).foldl (fun a v =>
    if a.any (fun q => decide (q.1 = v)) then a else a ++ [(v, placeDie r.place local_ v, walk s asid v)]) acc) []

/-- Physical addresses of the spill region and of the scheduler's 256 MiB below it (04 R67). -/
def systemArea (pa : Nat) : Bool := isHbm pa && decide (0x2000000000 - 0x400000000 - 0x10000000 ≤ pa % 0x2000000000)

/-- The pages are all valid; absent ones; the first poisoned entry. -/
def absentPages (ps : List (Nat × Nat × Walk)) : List (Nat × Nat) := (ps.filter (fun p => p.2.2 == .absent)).map (fun p => (p.1, p.2.1))
def poisonedWalk (ps : List (Nat × Nat × Walk)) : Option Nat :=
  ps.findSome? (fun p => match p.2.2 with
    | .poisoned pa => some pa
    | _ => none)
def leavesOf (ps : List (Nat × Nat × Walk)) : Store 64 :=
  ps.foldl (fun acc p => match p.2.2 with
    | .leaf e => Store.set zeroOf acc p.1 e
    | _ => acc) []

/-- A KERNEL node that may be admitted (03 R47, R54, R58): while it waits for RES_DONE it may not (04 R72). -/
def admittable (s : State) (nd : Node) : Bool :=
  nd.state == .ready && !nd.resWait && decide (nd.kind = 1 ∧ nodeCause nd = 0) && graphOn s nd.slot && !graphHalted s nd.slot

/-- Die of group 0 of a plan. -/
def planDie (plan : List (List Place)) : Nat :=
  match plan with
  | (p :: _) :: _ => p.lcore / 64
  | _ => 0

/-- Effective priority (03 R58): it rises with the control cycles that the node has been READY (rounds of the model, log 7). -/
def effPrio (s : State) (nd : Node) : Nat := min 7 (hdrPrio nd.hdr + (s.clock - nd.readyAt) / 2 ^ 22)

/-- Admissions a slot takes in a turn of the rotation (03 R58, Table 3.7). -/
def weightOf (s : State) (g : BitVec 6) : Nat := max 1 (nbits (graphCtl s g).toNat 20 4)

/-- Rank of a node for admission, the lowest first (03 R58): effective priority, graphs in rotation, order of becoming READY. -/
def admitKey (s : State) (nd : Node) : Nat :=
  let w := weightOf s nd.slot
  let pos := if nd.slot = s.rot then (if s.rotUsed < w then 0 else 64) else (nd.slot.toNat + 63 - s.rot.toNat) % 64 + 1
  ((7 - effPrio s nd) * 128 + pos) * 2 ^ 64 + nd.readyNo

/-- The node with the least key. -/
def leastBy (f : Node → Nat) (l : List Node) : Option Node :=
  match l with
  | [] => none
  | a :: r => match leastBy f r with
    | none => some a
    | some b => if f b < f a then some b else some a

/-- PROF_HASH as the registers hold it (12 Table 12.2). -/
def profHash (s : State) : Nat := (List.range 4).foldl (fun acc i => acc + (mgmtGet s (0x50020 + 8 * i)).toNat * 2 ^ (64 * i)) 0

/-- Bytes of an advice image for its binding: every page with RD or X, no byte poisoned (12 R256). -/
def adviceBytes (s : State) (asid fuel va n : Nat) : Option (List Byte) :=
  match fuel with
  | 0 => some []
  | f + 1 =>
    if n = 0 then some []
    else
      let k := min n (65536 - va % 65536)
      match walk s asid (va / 65536) with
      | .leaf e =>
        let pa := leafPA e + va % 65536
        if (leafRD e || leafX e) && (poisonIn s pa k).isNone then (adviceBytes s asid f (va + k) (n - k)).map (fun r => physBytes s pa k ++ r) else none
      | _ => none

/-- Text of the advice image that a node binds: its address and size, none when it is not loaded (12 R256). -/
def bindAdvice (s : State) (nd : Node) : Option (Word × Nat) :=
  let asid := asidOf s nd.slot.toNat
  let adv := nd.word 0x50
  if (mgmtGet s 0x50000).getLsbD 0 = false ∨ adv = 0 ∨ adv % 64 ≠ 0 then none
  else match adviceBytes s asid 2 adv 128 with
    | none => none
    | some h =>
      let size := fieldAt h 0x4C 4
      if fieldAt h 0 4 = 0x56444143 ∧ fieldAt h 4 2 = 0x0100 ∧ fieldAt h 6 2 = 0 ∧ fieldAt h 8 32 = nd.digest.toNat
          ∧ fieldAt h 0x28 32 = profHash s ∧ fieldAt h 0x48 4 = 128 ∧ 0 < size ∧ size % 4 = 0 ∧ size ≤ 65536 ∧ zeroFrom h 0x50 0x80 = true then
        (adviceBytes s asid 3 (adv + 128) size).map (fun _ => (BitVec.ofNat 64 (adv + 128), size))
      else none

/-- The walks that the binding of an image makes at reserved addresses are logged (04 R66): those of its header's pages, then of its text's. -/
def logBinding (s : State) (nd : Node) : State :=
  let asid := asidOf s nd.slot.toNat
  let adv := nd.word 0x50
  let hp := pagesOf adv 128
  let tp := match adviceBytes s asid 2 adv 128 with
    | none => []
    | some h => (pagesOf (adv + 128) (min (fieldAt h 0x4C 4) 65536)).filter (fun v => !hp.contains v)
  (hp ++ tp).foldl (fun t v => logWalk 0 t asid v) s

/-- The node with its advice bound, its text's translations kept, and ADV_UNBOUND counted for an image that is not loaded (12 R256). -/
def withAdvice (s : State) (nd : Node) (die : Nat) : State × Node :=
  if nd.word 0x50 = 0 then (s, nd)
  else match bindAdvice s nd with
    | none => (mgmtAdd (if (mgmtGet s 0x50000).getLsbD 0 then logBinding s nd else s) (0x50100 + 0x40 * die) 1, nd)
    | some (t, n) =>
      let ps := (pagesOf t.toNat n).map (fun v => (v, 0, walk s (asidOf s nd.slot.toNat) v))
      (schedReceives s (asidOf s nd.slot.toNat) (nd.word 0x50) (128 + n), { nd with advText := t, advSize := n, advPages := leavesOf ps })

/-- The scratchpads of the idle logical clusters that a plan makes busy are to be zeroed for the first hart that becomes resident there (04 R76). -/
def zeroClusters (s : State) (plan : List (List Place)) : State :=
  let busy : Nat → Bool := fun c => s.nodes.any (fun n => (n.state == .leased || n.state == .running) && n.cores.any (fun k => decide (k.toNat / 4 = c)))
  let fresh : Nat → Bool := fun c => plan.any (fun ps => ps.any (fun p => decide (p.lcore / 4 = c))) && !busy c
  { s with spadZero := s.spadZero ++ (List.range 64).filter (fun c => fresh c && !s.spadZero.contains c) }

/-- The scratchpad of a logical core's cluster is zeroed, if that is due; poison stays (18 R395). -/
def zeroSpad (s : State) (L : Nat) : State :=
  if s.spadZero.contains (L / 4) then
    { s with spad := s.spad.filter (fun e => decide (e.1 / 2 ^ 22 ≠ L / 4)), spadZero := s.spadZero.filter (fun c => decide (c ≠ L / 4)) }
  else s

/-- The hart of a place, at the start of a task (04 R81). -/
def arrivingHart (s : State) (nd : Node) (hid : Nat) (p : Place) (task : Nat) : Hart :=
  let h : Hart := { Hart.absent with hid := hid, lcore := BitVec.ofNat 8 p.lcore, pcore := BitVec.ofNat 7 (remapOf s p.lcore),
                                     ctx := BitVec.ofNat 3 p.ctx, pfirst := BitVec.ofNat 3 p.pfirst }
  h.startTask nd task (advBudget s) s.clock

/-- Harts of a group: its tasks in ascending index, one on each context (04 R81). -/
def launchGroup (s : State) (nd : Node) (g : Nat) (ps : List Place) : State :=
  let first := g * hdrGroupSize nd.hdr
  let hs := ((List.range ps.length).zip ps).map (fun q => arrivingHart s nd (s.nextHid + q.1) q.2 (first + q.1))
  let s1 := { s with arrivals := s.arrivals ++ hs, nextHid := s.nextHid + ps.length }
  raiseEvents s1 (hs.map (fun h => .hartResident h.hid))

/-- Launch groups from number `g` on. -/
def launchGroups (s : State) (nd : Node) (g : Nat) (plan : List (List Place)) : State :=
  match plan with
  | [] => s
  | ps :: r => launchGroups (launchGroup s nd g ps) nd (g + 1) r

/-- What the node records of the groups of a plan. -/
def Node.addGroups (nd : Node) (plan : List (List Place)) : Node :=
  let g0 := nd.cores.length
  let cores := nd.cores ++ plan.map (fun ps => BitVec.ofNat 8 ((ps.map Place.lcore).headD 0))
  { nd with cores := cores, left := hdrGroups nd.hdr - cores.length,
            nextTask := nd.nextTask ++ ((List.range plan.length).zip plan).map (fun q => (g0 + q.1) * hdrGroupSize nd.hdr + q.2.length) }

/-- Placement requests for pages to which a lease gives a die are discarded (12 R266). -/
def dropPlaced (s : State) (nd : Node) (l : List LeaseRange) : State :=
  let named := l.filter (fun r => decide (2 ≤ r.place.toNat))
  { s with placeQ := s.placeQ.filter (fun q => !(decide (q.asid.toNat = asidOf s nd.slot.toNat)
      && named.any (fun r => (pagesOf r.base.toNat r.len).any (fun v => decide (v % 2 ^ 40 = q.vpn.toNat))))) }

/-- Entries of a table that differ from zero. -/
def entriesIn (s : State) (table n : Nat) : List Word :=
  (((s.mem.filter (fun c => decide (table ≤ c.1 ∧ c.1 < table + 8 * n))).map (fun c => (c.1 - table) / 8)).eraseDups).map (fun i => entryAt s (table + 8 * i))

/-- Frames that the tables from one on take up: their own, and those that their leaves name (04 R68). -/
def tableFrames (s : State) (table level : Nat) : List Nat :=
  match level with
  | 0 => []
  | l + 1 => (table / 65536) :: (entriesIn s table 1024).flatMap (fun e =>
    match l with
    | 0 => if leafOk e then [leafPA e / 65536] else []
    | l' + 1 => if nonLeafOk e then tableFrames s (nbits e.toNat 13 39 * 8192) (l' + 1) else [])

/-- Frames that hold translation tables, or pages that they map. -/
def usedFrames (s : State) : List Nat :=
  let base := spaceEntry s 0
  upFrom (base / 65536) 9 ++ (entriesIn s base 65536).flatMap (fun e => if nonLeafOk e then tableFrames s (nbits e.toNat 13 39 * 8192) 4 else [])

/-- Something of the module refers to a frame: a copy of one of its sectors or lines (11), or a write that is not released (19 R412). -/
def frameRefs (s : State) (f : Nat) : Bool :=
  s.nc.any (fun c => decide (c.sector / 1024 = f)) || s.rdc.any (fun r => decide (r.line / 256 = f)) || s.dir.any (fun d => decide (d.line / 256 = f))
    || s.counted.any (fun c => decide (c.line / 256 = f)) || s.egress.any (fun e => decide (e.pa.toNat / 65536 = f))

/-- A frame that no page may move to: it is in use, the interval of the migration that freed it is not sealed (04 R84), something refers to it yet, or it lies in
the checkpoint or parity areas. -/
def frameTaken (s : State) (used : List Nat) (f : Nat) : Bool :=
  let size := (mgmtGet s 0xA0410).toNat
  let pbase := (mgmtGet s 0xA0408).toNat
  used.contains f || s.freed.any (fun x => decide (x.1 = f)) || frameRefs s f || s.vs.any (fun e => decide (e.sector / 1024 = f)) || (parSlice s (f * 1024)).isSome
    || decide (pbase < (f + 1) * 65536 ∧ f * 65536 < pbase + 2 * size)

/-- The first of `n` frames from frame `base` on that is free, searched from the `k`-th on. -/
def findFrame (taken : Nat → Bool) (base n k fuel : Nat) : Option Nat :=
  match fuel with
  | 0 => none
  | m + 1 => if taken (base + k % n) then findFrame taken base n (k + 1) m else some ((base + k % n) * 65536)

/-- A free frame on a die for a page, in the same kind of memory, below the areas of 04 R67: where among them the search begins is a free value (log 23). -/
def frameFor (s : State) (pa die : Nat) : Option Nat :=
  let k := (Config.freeWord s.free).toNat
  let taken := frameTaken s (usedFrames s)
  if tierGone s (0x10000000000 + die * 2 ^ 37) && isCtier pa then none
  else if isCtier pa then findFrame taken (0x1000000 + die * 2 ^ 21) 2097152 k 2097152 else findFrame taken (die * 2 ^ 21) 1830912 k 1830912

/-- The version stores have room for what a migration writes. -/
def moveFits (s : State) (die d : Nat) : Bool := vsRoom s d (if d = die then 2052 else 1028)
def moveRoom (s : State) (die : Nat) : Bool := (List.range 4).all (moveFits s die)

/-- The first die without that room. -/
def moveShort (s : State) (die : Nat) : Nat := ((List.range 4).find? (fun d => !moveFits s die d)).getD die

/-- Where the leaf entry of a page lies: the walk of 04 R68 without its checks. -/
def leafSlot (s : State) (vpn table level : Nat) : Nat :=
  match level with
  | 0 => table
  | l + 1 =>
    let pa := table + 8 * (vpn / 2 ^ (10 * l) % 1024)
    if l = 0 then pa else leafSlot s vpn (nbits (entryAt s pa).toNat 13 39 * 8192) l

def leafAddress (s : State) (asid vpn : Nat) : Nat := leafSlot s (vpn % 2 ^ 40) (nbits (entryAt s (spaceEntry s asid)).toNat 13 39 * 8192) 4

/-- A live lease covers a page, or a transfer that goes on after its lease uses its translation (04 R84, R88). -/
def pageHeld (s : State) (asid vpn : Nat) : Bool :=
  s.nodes.any (fun n => decide (n.asid.toNat = asid) && (leaseMeets n vpn
    || (n.pages.any (fun p => decide (p.1 % 2 ^ 40 = vpn % 2 ^ 40)) && s.transfers.any (fun t => decide (t.node = n.num)))))

/-- A write that is not released yet goes to a page: the page does not move before it has performed (04 R84 step 4, R87). -/
def pageUnreleased (s : State) (pa : Nat) : Bool := s.egress.any (fun e => decide (e.pa.toNat / 65536 = pa / 65536))

/-- A page can migrate to a die: it is device memory outside the system areas (R67), its leaf entry lies in device memory (DESIGN CHOICE, log 23), nothing holds it,
no write to it waits for its release, and a frame is free. -/
def canMove (s : State) (asid vpn : Nat) (e : Word) (die : Nat) : Bool :=
  isDeviceMem (leafPA e) && !systemArea (leafPA e) && decide (homeDie (leafPA e) ≠ die) && isDeviceMem (leafAddress s asid vpn)
    && !pageHeld s asid vpn && !pageUnreleased s (leafPA e) && (frameFor s (leafPA e) die).isSome

/-- A page of the lease maps into a system area (04 R67). -/
def mapsSystem (ps : List (Nat × Nat × Walk)) : Bool := (leavesOf ps).any (fun e => systemArea (leafPA e.2))

/-- Pages of declared ranges with a place from die 0 to die 3 that lie on another die, and the die: they can migrate, and system software has not
placed them there for this very lease (04 R82, R84). A node that fails for a system area moves none (R67). Pages of places local and any are taken where they lie (DESIGN CHOICE, log 23). -/
def misplaced (s : State) (nd : Node) (ps : List (Nat × Nat × Walk)) : List (Nat × Nat) :=
  let asid := asidOf s nd.slot.toNat
  let named : Nat → Bool := fun v => ((List.range nd.nranges).map nd.rangeAt).find? (fun r => (pagesOf r.base.toNat r.len).contains v)
    |>.elim false (fun r => decide (2 ≤ r.place.toNat))
  if mapsSystem ps then []
  else (ps.filter (fun p => named p.1 && !nd.asked.contains p.1
    && (match p.2.2 with
      | .leaf e => canMove s asid p.1 e p.2.1
      | _ => false))).map (fun p => (p.1, p.2.1))

/-- Placement and translations of a node succeed now, and there is room for the pages that migrate first (04 R84). -/
def admissible (s : State) (nd : Node) : Bool :=
  let plan := planOf s nd
  let ps := leasePages s (asidOf s nd.slot.toNat) (planDie plan) nd.newLease
  admittable s nd && planOk nd plan && (absentPages ps).isEmpty && (poisonedWalk ps).isNone && (misplaced s nd ps).all (fun p => moveRoom s p.2)

/-- Admission (03 R58, 04 R72): the lease is installed and the harts are launched. A range that maps into a system area fails the node (04 R67). A slot
that has taken its WEIGHT begins a new turn when the rotation comes back to it. -/
def admitNow (s : State) (nd : Node) (plan : List (List Place)) (ps : List (Nat × Nat × Walk)) : State :=
  let used := if nd.slot = s.rot ∧ s.rotUsed < weightOf s nd.slot then s.rotUsed + 1 else 1
  let s0 := { s with rot := nd.slot, rotUsed := used }
  if mapsSystem ps then failNode (updNode s0 nd.num (fun x => { x with state := .leased })) nd.num 0x22
  else
    let lease := nd.newLease
    let n1 := { nd with state := .leased, lease := lease, asid := BitVec.ofNat 16 (asidOf s nd.slot.toNat), pages := leavesOf ps }
    let r := withAdvice (dropPlaced (zeroClusters s0 plan) nd lease) n1 (planDie plan)
    let n2 := r.2.addGroups plan
    launchGroups (updNode r.1 nd.num (fun _ => n2)) n2 0 plan

/-- Further groups of a LEASED or RUNNING node find cores (04 R80). -/
def placeMore (s : State) (nd : Node) : State :=
  let plan := planOf s nd
  let n1 := nd.addGroups plan
  launchGroups (updNode (zeroClusters s plan) nd.num (fun _ => n1)) n1 nd.cores.length plan

/-- Harts on a logical core that firmware may switch out for a hart of a higher node priority (05 R106): those that hold no lane slot. -/
def switchable (s : State) (L prio : Nat) : List Hart :=
  (allHarts s).filter (fun h => decide (h.lcore.toNat = L) && h.resident && !h.holdsSlot && decide (h.prio.toNat < prio))

/-- The interlock table of a hart cannot empty yet (05 R106 step 2): a collective of its waits for its match. -/
def drainWaits (s : State) (h : Hart) : Bool := s.transfers.any (fun t => decide (t.hid = h.hid) && t.kind == .coll && !t.matched)

/-- The one with the lowest priority, the longest parked on a tie (05 R106). -/
def lowestPrio (l : List Hart) : Option Hart :=
  match l with
  | [] => none
  | a :: r => match lowestPrio r with
    | none => some a
    | some b => if b.prio.toNat < a.prio.toNat ∨ (b.prio = a.prio ∧ b.parkedAt < a.parkedAt) then some b else some a

/-- The victim that makes room for a node's first group without a core (05 R106). -/
def victimFor (s : State) (nd : Node) : Option Hart :=
  let d0 := startDie s nd
  let plan := planOf s nd
  let taken := plan.flatten
  let g := nd.cores.length + plan.length
  if hdrGroups nd.hdr ≤ g then none
  else (coreOrder d0).findSome? (fun L =>
    if coreAllowed s nd L then
      let cs := switchable s L (hdrPrio nd.hdr)
      let occ := (occupants s L).filter (fun p => !cs.any (fun h => h.place == p)) ++ taken.filter (fun p => decide (p.lcore = L))
      if (fitCore occ L (groupHarts nd.hdr g) (hdrParts nd.hdr) (hdrPreempt nd.hdr)).isSome then lowestPrio cs else none
    else none)

/-- A save area, and what its bytes need of the version store, for a hart that is switched out: where they are, or what is waited for (05 R106, 19 R402). -/
def savePlace (s : State) (h : Hart) : Except Stall Nat :=
  let die := h.lcore.toNat / 64
  match saveSlot s h with
  | none => .error .wait
  | some pa => if vsRoom s die (saveNeeds s pa h.saveSize) then .ok pa else .error (.space die (rinOf s die))

/-- A switch of a victim and another try at placement are due (05 R106), once its interlock table can empty. Where its save area finds no room the seal that
frees some is requested first. -/
def makeWay (s : State) (n : Nat) : State :=
  match (nodeOf s n).bind (victimFor s) with
  | some h => if drainWaits s h then s else (match savePlace s h with
    | .ok _ => raiseEvents s [.contextSwitch h.hid, .admitNode n]
    | .error q => applyStall s q)
  | none => s

/-- A node's absent pages are asked for; until RES_DONE it is not walked again (04 R72). -/
def askPages (s : State) (nd : Node) (l : List (Nat × Nat)) : State :=
  l.foldl (fun t p => requestPage t (asidOf s nd.slot.toNat) p.1 p.2 nd.slot.toNat)
    (updNode s nd.num (fun x => { x with resWait := true, asked := x.asked ++ l.map Prod.fst }))

/-- Pages migrate before a node is admitted, which is tried again after them (04 R84). -/
def moveFirst (s : State) (nd : Node) (l : List (Nat × Nat)) : State :=
  let asid := BitVec.ofNat 16 (asidOf s nd.slot.toNat)
  raiseOnce (l.foldl (fun t p => raiseOnce t (.migratePage asid (BitVec.ofNat 40 p.1) (BitVec.ofNat 2 p.2))) s) (.admitNode nd.num)

/-- The node that goes first is admitted under the remap table of `t`, once the pages that a declared place wants elsewhere have migrated (04 R77, R84). -/
def admitFirst (s t : State) (nd : Node) (plan : List (List Place)) (ps : List (Nat × Nat × Walk)) : State :=
  match misplaced t nd ps with
  | [] => admitNow t nd plan ps
  | l => moveFirst s nd l

/-- Another node goes first: it is tried before node `n`, at once where no page of its migrates (03 R58). -/
def admitOther (s t : State) (m : Node) (n : Nat) : State :=
  match misplaced t m (leasePages t (asidOf t m.slot.toNat) (planDie (planOf t m)) m.newLease) with
  | [] => raiseFirst s [.admitNode m.num, .admitNode n]
  | l => raiseOnce (moveFirst s m l) (.admitNode n)

/-- No node can be admitted: where a page that must migrate first finds no room in a version store, it waits for space there (19 R406). -/
def moveWaits (s t : State) (p : Option (Nat × Nat)) : State :=
  let d := (p.map (fun q => moveShort t q.2)).getD 0
  applyStall s (if p.isSome then .space d (rinOf s d) else .seal (rinOf s 0))

/-- ADMIT_NODE (03 R58): the node is admitted unless another that can be admitted ranks before it, which then goes first. Absent pages are asked for (04
R72). Where contexts are short, firmware switches out a parked hart of lower priority first (05 R106). An admission is made under the remap table that takes
effect with it (04 R77). -/
def execAdmitNode (n : Nat) (s : State) : Host.Outcome State Fault Refusal :=
  match nodeOf s n with
  | none => .next s
  | some nd =>
    if (nd.state = .running ∨ nd.state = .leased) ∧ 0 < nd.left then .next (makeWay (placeMore s nd) n)
    else if admittable s nd = false ∨ admissionOpen s = false then .next s
    else
      let t := applyRemap s
      let plan := planOf t nd
      if planOk nd plan then
        let ps := leasePages t (asidOf t nd.slot.toNat) (planDie plan) nd.newLease
        match poisonedWalk ps, absentPages ps with
        | some pa, _ => .next (schedPoison s (pa / 64) (some n) none)
        | none, [] =>
          (match leastBy (admitKey t) (t.nodes.filter (admissible t)) with
          | some m => if m.num = n then .next (admitFirst s t nd plan ps) else .next (admitOther s t m n)
          | none => .next (moveWaits s t ((misplaced t nd ps).find? (fun p => !moveRoom t p.2))))
        | none, l => .next (askPages s nd l)
      else .next (makeWay s n)

/-- A node keeps one further partition free on a core that holds a hart of it (05 R105, 04 R80). -/
def keepsSpare (s : State) (num : Nat) : Bool := ((nodeOf s num).map (fun nd => hdrPreempt nd.hdr)).getD false

/-- A hart may become resident on the physical core of its logical core: no other logical core holds it (04 R79). It takes the lowest-numbered free context and
run of partitions (05 R105), an arriving and a restored hart alike. -/
def residentPlace (s : State) (h : Hart) : Option Place :=
  let here := coreHarts s (h.lcore.toNat / 64) (remapOf s h.lcore.toNat)
  if here.any (fun x => decide (x.lcore ≠ h.lcore)) then none
  else (fitCore (here.map Hart.place) h.lcore.toNat 1 h.parts.toNat (keepsSpare s h.node)).bind List.head?

/-- The slot holder of the lowest node priority below one, the higher hartid on a tie (05 R105). -/
def slotVictim (l : List Hart) (prio : Nat) : Option Hart :=
  (l.filter (fun h => h.holdsSlot && decide (h.prio.toNat < prio))).foldl (fun b h => match b with
    | none => some h
    | some x => if h.prio.toNat < x.prio.toNat ∨ (h.prio = x.prio ∧ x.ctx.toNat < h.ctx.toNat) then some h else some x) none

/-- A hart gets the slot of another, which is parked and ready and loses its monitor (05 R103, R105; 16 R367). -/
def takeSlot (s : State) (h victim : Nat) : State :=
  updHart (updHart s victim (fun x => { x with status := .parked, wait := .none, monitor := none, since := s.clock, parkedAt := s.clock })) h
    (fun x => { x with status := .running, passed := 0, aged := false, since := s.clock })

/-- Key of a physical core in State.lastCore, and the logical core of the die that it has served last; 63 before the first (04 R79). -/
def coreKey (die phys : Nat) : Nat := die * 128 + phys
def noCore (_ : Nat) : BitVec 6 := 63
def lastServed (s : State) (die phys : Nat) : Nat := (Store.get noCore s.lastCore (coreKey die phys)).toNat

/-- A hart becomes resident: S of its core, a slot if it gets one (05 R91, R105); on an idle cluster the scratchpad is zeroed first (04 R76). A hart that waits for
nothing is ready from now on. -/
def becomeResident (s0 : State) (h : Hart) (p : Place) : State :=
  let s := zeroSpad s0 h.lcore.toNat
  let die := h.lcore.toNat / 64
  let phys := remapOf s h.lcore.toNat
  let here := coreHarts s die phys
  let sl := match here with
    | [] => h.hsplit
    | x :: _ => x.slots
  let h1 := { h with out := false, pcore := BitVec.ofNat 7 phys, ctx := BitVec.ofNat 3 p.ctx, pfirst := BitVec.ofNat 3 p.pfirst, slots := sl,
                     retiredAt := s.clock, parkedAt := s.clock, since := if h.wait = .none then s.clock else h.since }
  let s1 := { s with others := s.others.filter (fun x => decide (x.hid ≠ h.hid)) ++ [h1], hart := if s.hart.hid = h.hid then Hart.absent else s.hart,
                     lastCore := Store.set noCore s.lastCore (coreKey die phys) (BitVec.ofNat 6 (h.lcore.toNat % 64)) }
  let s2 := fillSlots s1 h1 8
  match hartOf s2 h.hid with
  | none => s2
  | some x =>
    if x.readyParked then
      match slotVictim (coreHarts s2 die phys) x.prio.toNat with
      | some v => takeSlot s2 x.hid v.hid
      | none => s2
    else s2

/-- The hart's advice context starts anew, with the watchdog budget that stands now (12 R251, R262). -/
def restartAdvice (s : State) (h : Hart) : Hart :=
  { h with adv := match nodeOf s h.node with
      | some nd => adviceStart nd (advBudget s) s.clock
      | none => Advice.reset }

/-- HART_RESIDENT (05 R105): an arriving hart takes its context; the node whose first hart it is becomes RUNNING (03 Table 3.3). Where a time slice keeps
it out it waits (04 R79). -/
def execHartResident (h : Nat) (s : State) : Host.Outcome State Fault Refusal :=
  match s.arrivals.find? (fun x => decide (x.hid = h)) with
  | none => .next s
  | some x => match residentPlace s x with
    | none => .next s
    | some p =>
      let r := injectArm { s with arrivals := s.arrivals.filter (fun y => decide (y.hid ≠ h)) } x
      let s1 := becomeResident r.1 (restartAdvice s r.2) p
      .next (updNode s1 x.node (fun n => { n with state := if n.state == .leased then .running else n.state }))

end Sys2Proof.Machine
end

