-- ==== Sys2Proof/Machine/Context.lean ====
section
/-! DEFINITION. Sys2Proof/Machine/Context.lean: context switch and restore (05 R106, R107), time slices (04 R79), aging (05 R102), the end of PARK (06 R143),
the hart watchdog (18 R386), soft errors of the vector unit (18 R391, R392) and poison (18 R395). -/
namespace Sys2Proof.Machine

/-- A hart's context lies in its save area: it holds no partition, tile or hart context (05 R106). Its advice context ends and its monitor is lost. -/
def Hart.switchOut (pa : Nat) (h : Hart) : Hart :=
  { h with out := true, saveAt := pa, status := if h.holdsSlot then .parked else h.status, wait := if h.holdsSlot then .none else h.wait,
           monitor := none, adv := h.adv.end_ }

/-- Save a hart (05 R106): its advice context ends, its sections are written and then its header, and it releases what it holds. A tile cell of wrong parity that
the save reads escalates (13 R296). -/
def xSave (hid : Nat) : X Unit := fun s =>
  match hartOf s hid with
  | none => .ok ((), s)
  | some x =>
    if !x.mat.bad.isEmpty then .error (.halt (escalate s (x.lcore.toNat / 64) 5 x.lcore.toNat 0))
    else match savePlace s x with
      | .error q => .error (.stall q)
      | .ok pa => .ok ((), fillSlots (updHart (saveHart s x pa) hid (Hart.switchOut pa)) x 8)

/-- Switch harts out one after the other, each once its engine transfers have retired (05 R106 step 2). -/
def xSwitchOut (l : List Hart) : X Unit :=
  match l with
  | [] => pure ()
  | x :: rest => do
    xferWaitAll x.hid
    xSave x.hid
    xSwitchOut rest

/-- CONTEXT_SWITCH (05 R106): a resident hart that does not run is switched out, and what waits for its partitions is tried again. -/
def execContextSwitch (h : Nat) (s : State) : Host.Outcome State Fault Refusal :=
  match hartOf s h with
  | none => .next s
  | some x =>
    if x.resident = false ∨ x.holdsSlot = true then .next s
    else runEvent (do
      xSwitchOut [x]
      xMod wakeAdmission) s

/-- What a restored hart's wait looks at again (05 R107): its BWAIT compares, and the loss of its monitor ends its MONWAIT (16 R367). -/
def Hart.wakeRestored (h : Hart) : List Instr :=
  match h.wait with
  | .bwait _ _ _ _ _ => [.bwaitWake h.hid]
  | .monwait _ _ => [.monitorWake h.hid]
  | _ => []

/-- The hart that a save area gives back: with its counters at zero (18 R400); an instruction of its replay queue for which nothing is awaited any more is a
DBAR whose phase has merged, which retires (17 R380). Its advice context starts afresh also where it had ended before the switch, of which 12 R253 says nothing
(DESIGN CHOICE, log 76). -/
def restoredHart (s : State) (x : Hart) (l : List Byte) : Hart :=
  let h := restartAdvice s { (x.ofSave l) with ctr := ⟨0, 0, 0, 0⟩ }
  if h.wait = .none ∧ h.window ≠ [] then { (h.passDbar.retireHere s.free s.clock) with window := [] } else h

/-- CONTEXT_RESTORE (05 R107): firmware reads the header, and fails the node with IMAGE_INVALID unless VALID = 1 and the version is 0x0100; the sections are
loaded and VALID is cleared; the hart takes a context and partitions, resident and parked. Poison in the area is consumed (18 R396). -/
def execContextRestore (h : Nat) (s : State) : Host.Outcome State Fault Refusal :=
  match hartOf s h with
  | none => .next s
  | some x =>
    let die := homeDie x.saveAt
    if x.out = false ∨ x.alive = false then .next s
    else match poisonIn s x.saveAt x.saveSize with
      | some q => .next (schedPoison s q (some x.node) none)
      | none =>
        let l := memBytes s x.saveAt x.saveSize
        if headerValid l = false then .next (failNode s x.node 0x23)
        else
          let y := restoredHart s x l
          match residentPlace s y with
          | none => .next s
          | some p =>
            if vsFull s die then .next (applyStall s (.space die (rinOf s die)))
            else .next (raiseEvents (becomeResident (bumpFree (clearValid s x.saveAt)) y p) y.wakeRestored)

/-- A logical core of a physical core has work that is not resident: harts switched out, or on their way (04 R79). -/
def coreWork (s : State) (L : Nat) : List Instr :=
  (((allHarts s).filter (fun h => decide (h.lcore.toNat = L) && h.alive && h.out)).map (fun h => Instr.contextRestore h.hid))
    ++ ((s.arrivals.filter (fun h => decide (h.lcore.toNat = L))).map (fun h => Instr.hartResident h.hid))

/-- The next logical core in ascending order after `l` of the die that has work on the physical core. -/
def nextCore (s : State) (die phys l : Nat) : Option Nat :=
  ((upFrom 1 64).map (fun i => 64 * die + (l + i) % 64)).find? (fun L => decide (remapOf s L = phys) && !(coreWork s L).isEmpty)

/-- TIME_SLICE (04 R79): the resident harts are saved, and those of the next logical core after the one served last that has work follow. -/
def execTimeSlice (die : BitVec 2) (phys : BitVec 7) (s : State) : Host.Outcome State Fault Refusal :=
  let here := coreHarts s die.toNat phys.toNat
  let cur := ((here.head?).map (fun h => h.lcore.toNat % 64)).getD (lastServed s die.toNat phys.toNat)
  match nextCore s die.toNat phys.toNat cur with
  | none => .next s
  | some L =>
    if L % 64 = cur ∧ here.isEmpty = false then .next s
    else runEvent (do
      xSwitchOut here
      xMod (fun t => (coreWork t L).foldl raiseOnce t)) s

/-- PARK_EXPIRY (06 R143): the hart is ready again. -/
def execParkExpiry (h : Nat) (s : State) : Host.Outcome State Fault Refusal :=
  match hartOf s h with
  | none => .next s
  | some x => match x.wait with
    | .park _ => .next (endWait s h)
    | _ => .next s

/-- The slot holder of a core that a hart ranks above, the lowest ranked (05 R101 to R103). -/
def agedVictim (s : State) (x : Hart) : Option Hart :=
  ((allHarts s).filter (fun h => sameCore x h && h.resident && h.holdsSlot && ranksAbove (rankKey s.clock x) (rankKey s.clock h))).foldl
    (fun b h => match b with
      | none => some h
      | some g => if ranksAbove (rankKey s.clock g) (rankKey s.clock h) then some h else some g) none

/-- HART_AGED (05 R102, R103): a hart passed over for 256 control cycles in a row; it takes the slot of one that it now ranks above. -/
def execHartAged (h : Nat) (s : State) : Host.Outcome State Fault Refusal :=
  match hartOf s h with
  | none => .next s
  | some x =>
    if x.resident = false then .next s
    else
      let x1 := { x with passed := max 256 x.passed, aged := true }
      let s1 := updHart s h (fun y => { y with passed := max 256 y.passed, aged := true })
      if x1.readyParked then
        match agedVictim s1 x1 with
        | some v => .next (takeSlot s1 h v.hid)
        | none => .next s1
      else .next s1

/-- HART_WATCHDOG (18 R386, R389): nothing retired for HART_WDOG control cycles, the task ends failed. 0 disables it. -/
def execHartWatchdog (h : Nat) (s : State) : Host.Outcome State Fault Refusal :=
  match hartOf s h with
  | none => .next s
  | some x =>
    if x.resident = false ∨ mgmtGet s 0x70010 = 0 then .next s
    else .next (takeTrap (focus s h) .watchdog 0)

/-- VECTOR_SOFT_ERROR (18 R391, R392): logged as class 2 by the hart's core. The squash discards instructions that have not retired; here each retires
within its step (log 1), so the reissued window is that of a hart that still waits, and it stands. -/
def execVectorSoftError (h : Nat) (s : State) : Host.Outcome State Fault Refusal :=
  match hartOf s h with
  | none => .next s
  | some x =>
    if x.resident = false then .next s
    else .next (bumpFree (logEvent s (x.lcore.toNat / 64) 2 x.pcore.toNat 0 (Config.freeWord s.free)))

/-- A sector of memory has become poisoned: event of class 8 (18 R397). -/
def sectorPoisoned (s : State) (die sector : Nat) (unit : BitVec 16) : State :=
  bumpFree (logEvent s die 8 unit.toNat (sectorAddr sector) (Config.freeWord s.free))

/-- SECTOR_POISON (18 R395): an uncorrectable error in a sector of device memory, or of a scratchpad (cluster number times 2^22 plus address); its
event is class 8 of its die. Where no such sector is, nothing changes. -/
def execSectorPoison (spad : Bool) (addr : BitVec 52) (unit : BitVec 16) (s : State) : Host.Outcome State Fault Refusal :=
  let a := addr.toNat
  if spad then
    if a < 64 * 2 ^ 22 then
      let s1 := { s with spadPoison := Store.set zeroOf s.spadPoison (a / 64) 1 }
      .next (bumpFree (logEvent s1 (a / 2 ^ 26) 8 unit.toNat 0 (Config.freeWord s.free)))
    else .next s
  else if isDeviceMem a then
    .next (sectorPoisoned (setPoison s (a / 64) true) (homeDie a) (a / 64) unit)
  else .next s

end Sys2Proof.Machine
end

