-- ==== Sys2Proof/Machine/Control.lean ====
section
/-! DEFINITION. Sys2Proof/Machine/Control.lean: branches, jumps, hardware loops, the window, marks, trap, return, yield and park (06 R128 to R143). -/
namespace Sys2Proof.Machine

/-- A conditional branch (06 R128): taken to PC + 4 SExt(off, 11). -/
def branch (a b : BitVec 6) (j : BitVec 11) (c : Word → Word → Bool) (s : State) : Host.Outcome State Fault Refusal :=
  if c (s.sreg a.toNat) (s.sreg b.toNat) then .next (s.jumpTo (s.front.pc + 4 * imm11 j)) else .next s.retire

/-- BEQ (06 R128). -/
def execBeq (a b : BitVec 6) (j : BitVec 11) (s : State) : Host.Outcome State Fault Refusal := branch a b j (fun x y => x == y) s
/-- BNE (06 R128). -/
def execBne (a b : BitVec 6) (j : BitVec 11) (s : State) : Host.Outcome State Fault Refusal := branch a b j (fun x y => x != y) s
/-- BLT (06 R128): signed less than. -/
def execBlt (a b : BitVec 6) (j : BitVec 11) (s : State) : Host.Outcome State Fault Refusal := branch a b j (fun x y => x.slt y) s
/-- BGE (06 R128): signed greater or equal. -/
def execBge (a b : BitVec 6) (j : BitVec 11) (s : State) : Host.Outcome State Fault Refusal := branch a b j (fun x y => !x.slt y) s
/-- BLTU (06 R128): unsigned less than. -/
def execBltu (a b : BitVec 6) (j : BitVec 11) (s : State) : Host.Outcome State Fault Refusal := branch a b j (fun x y => x.ult y) s
/-- BGEU (06 R128): unsigned greater or equal. -/
def execBgeu (a b : BitVec 6) (j : BitVec 11) (s : State) : Host.Outcome State Fault Refusal := branch a b j (fun x y => !x.ult y) s

/-- J (06 R129). -/
def execJ (j : BitVec 25) (s : State) : Host.Outcome State Fault Refusal := .next (s.jumpTo (s.front.pc + 4 * imm25 j))

/-- JAL (06 R129): the link is PC + 4. -/
def execJal (d : BitVec 6) (i : BitVec 18) (s : State) : Host.Outcome State Fault Refusal :=
  .next ((s.setSreg d.toNat (s.front.pc + 4)).jumpTo (s.front.pc + 4 * imm18 i))

/-- JALR (06 R129): S[ra] is read before the link is written; an unaligned target raises MISALIGNED and writes no link, on the sequencer the word is
dropped (R144). -/
def execJalr (d a : BitVec 6) (i : BitVec 11) (s : State) : Host.Outcome State Fault Refusal :=
  let t := s.sreg a.toNat + imm11 i
  if t.toNat % 4 = 0 then .next ((s.setSreg d.toNat (s.front.pc + 4)).jumpTo t) else scalarFail s .misaligned t

/-- A front end whose innermost level is new (06 R131). -/
def Front.enterLoop (f : Front) (c start stop : Word) : Front :=
  { f with lc := Store.set zeroOf f.lc f.levels.length c, levels := ⟨start, stop⟩ :: f.levels, pc := start }

/-- A skipped body (06 R131): it reaches the End of an enclosing level that ends at the same instruction, else control goes on after it. -/
def Front.skipLoop (f : Front) (stop : Word) : Front :=
  let r := loopRule f.lc f.levels stop
  { f with lc := r.1, levels := r.2.1, pc := r.2.2 }

/-- Does a body end after the End of the innermost level (06 R131)? -/
def Front.outside (f : Front) (stop : Word) : Bool :=
  match f.levels with
  | [] => false
  | l :: _ => decide (stop.toNat > l.stop.toNat)

/-- LOOP and LOOPI with count c (06 R131). -/
def loopWith (c : Word) (j : BitVec 11) (s : State) : Host.Outcome State Fault Refusal :=
  let f := s.front
  let stop := f.pc + 4 * imm11 j
  if j.toInt < 1 then scalarFail s .illegalOperand 0
  else if f.outside stop then scalarFail s .illegalOperand 0
  else if s.inHandler then scalarFail s .loopNest 0
  else if 3 ≤ f.levels.length then scalarFail s .loopNest 3
  else if c = 0 then .next (s.setFront (f.skipLoop stop)).counted1
  else .next (s.setFront (f.enterLoop c (f.pc + 4) stop)).counted1

/-- LOOP (06 R131). The sequencer drops it (05 R111). -/
def execLoop (a : BitVec 6) (j : BitVec 11) (s : State) : Host.Outcome State Fault Refusal := notAdvice s (fun s => loopWith (s.sreg a.toNat) j s)

/-- LOOPI (06 R131): count 0 to 4,095. -/
def execLoopi (n : BitVec 12) (j : BitVec 11) (s : State) : Host.Outcome State Fault Refusal := notAdvice s (fun s => loopWith (n.setWidth 64) j s)

/-- A value that wbase accepts: a multiple of 8 from 0 to 192 (06 R136). -/
def wbaseOk (n : Nat) : Bool := decide (n % 8 = 0 ∧ n ≤ 192)

/-- WBASE (06 R136). -/
def execWbase (i : BitVec 11) (s : State) : Host.Outcome State Fault Refusal :=
  hartOnly s (fun s =>
    if wbaseOk i.toNat then .next (s.setFront { s.front with wbase := BitVec.ofNat 8 i.toNat }).retire
    else .next (takeTrap s .illegalOperand 0))

/-- pm after a MARK (06 R139); the advice context of the hart learns of it (12 R260). -/
def Hart.mark (h : Hart) (i : BitVec 16) : Hart :=
  let o := h.pmOcc + 1
  let a := if h.adv.status = .waiting ∧ h.adv.markId = none ∧ o = h.adv.awaitN then { h.adv with markId := some i } else h.adv
  { h with pmId := i, pmOcc := o, adv := a }

/-- MARK (06 R139). -/
def execMark (i : BitVec 16) (s : State) : Host.Outcome State Fault Refusal :=
  hartOnly s (fun s =>
    let h := s.hart.mark i
    let s1 := { s with hart := h }.retire
    .next (if h.adv.markId ≠ s.hart.adv.markId then raiseEvents s1 [.awaitReturn h.hid] else s1))

/-- TRAP (06 R140, R141): retires, then BREAK with tval the code; tepc is the address that would have followed. -/
def execTrap (c : BitVec 12) (s : State) : Host.Outcome State Fault Refusal :=
  hartOnly s (fun s => .next (takeTrapAt s.retire .break_ (c.setWidth 64) s.retire.hart.front.pc false))

/-- ERET (06 R141, 18 R390). -/
def execEret (s : State) : Host.Outcome State Fault Refusal :=
  hartOnly s (fun s =>
    if s.hart.trap.tstatus.getLsbD 0 = false then illegalWord s (wordFS 0x17 0 0 1)
    else if s.hart.trap.tstatus.getLsbD 1 then .next (failTask s s.hart.trap.tcause.toNat)
    else .next { s with hart := s.hart.leaveTrap }.counted1)

/-- YIELD (06 R142): gives the slot up when another resident hart of the core is parked, ready and of at least this node priority. The slot goes to the best
ranked of those harts: the one that yields does not compete for it (DESIGN CHOICE, log 75). -/
def execYield (s : State) : Host.Outcome State Fault Refusal :=
  hartOnly s (fun s =>
    let t := s.retire
    let others := t.others.filter (fun h => sameCore h s.hart && h.readyParked && decide (s.hart.prio.toNat ≤ h.prio.toNat))
    match bestOf s.clock others with
    | none => .next t
    | some h =>
      let t1 := { t with hart := { t.hart with status := .parked, since := s.clock, parkedAt := s.clock } }
      .next (updHart t1 h.hid (fun x => { x with status := .running, passed := 0, aged := false, since := s.clock })))

/-- PARK (06 R143): n = 0 ends the task; else the hart is parked and not ready for n times 64 control cycles. -/
def execPark (n : BitVec 12) (s : State) : Host.Outcome State Fault Refusal :=
  hartOnly s (fun s =>
    let t := s.retire
    if n = 0 then
      let u := endTask t
      .next (if u.hart.resident then u else fillSlots u s.hart 8)
    else .next (dropSlot t .parked (.park (64 * n.toNat))))

end Sys2Proof.Machine
end

