-- ==== Sys2Proof/Machine/Matrix.lean ====
section
/-! DEFINITION. Sys2Proof/Machine/Matrix.lean: the matrix engine (13): configuration, outer products from registers and the scratchpad, checksums and
reruns, tile moves, the epilogue, TZERO and TSTAT. -/
namespace Sys2Proof.Machine

/-- Values that tshape, tfmt and tgrp accept (13 R274 to R276). -/
def tshapeOk (x : Nat) : Bool :=
  let hh := nbits x 0 8
  let ww := nbits x 16 9
  decide (x = hh + ww * 2 ^ 16) && (decide (1 ≤ hh ∧ hh ≤ 128 ∧ 1 ≤ ww ∧ ww ≤ 256) || decide (hh = 0 ∧ ww = 0))

def tfmtCode (c : Nat) : Bool := [0, 1, 2, 3, 4, 9, 17, 24, 25].contains c

def tfmtOk (x : Nat) : Bool :=
  decide (x = nbits x 0 5 + nbits x 8 5 * 2 ^ 8 + nbits x 16 1 * 2 ^ 16) && tfmtCode (nbits x 0 5) && tfmtCode (nbits x 8 5)

def tgrpOk (x : Nat) : Bool := decide (x = nbits x 0 3 + nbits x 8 1 * 2 ^ 8) && [0, 5, 6, 7].contains (nbits x 0 3)

/-- Fields of the matrix registers (13 Tables 13.1 to 13.4). -/
def Mat.rows (m : Mat) : Nat := nbits m.tshape.toNat 0 8
def Mat.cols (m : Mat) : Nat := nbits m.tshape.toNat 16 9
def Mat.afmt (m : Mat) : Nat := nbits m.tfmt.toNat 0 5
def Mat.bfmt (m : Mat) : Nat := nbits m.tfmt.toNat 8 5
def Mat.iacc (m : Mat) : Bool := m.tfmt.getLsbD 16
def Mat.gb (m : Mat) : Nat := nbits m.tgrp.toNat 0 3
def Mat.bank (m : Mat) : Nat := nbits m.tgrp.toNat 8 1
def Mat.rerun (m : Mat) : Nat := nbits m.tstat.toNat 16 16

/-- Cell (i, j) of tile tn (13 R272). -/
def tileKey (t i j : Nat) : Nat := (t * 128 + i) * 256 + j

/-- Set and clear VER[n]; count a rerun, which stops at 0xFFFF (13 R277). -/
def Mat.setVer (m : Mat) (t : Nat) : Mat := { m with tstat := m.tstat ||| BitVec.ofNat 64 (2 ^ t) }
def Mat.clearVer (m : Mat) (t : Nat) : Mat := { m with tstat := m.tstat &&& ~~~(BitVec.ofNat 64 (2 ^ t)) }
def Mat.countRerun (m : Mat) : Mat := { m with tstat := BitVec.ofNat 64 (nbits m.tstat.toNat 0 16 + min 0xFFFF (m.rerun + 1) * 2 ^ 16) }

/-- Outer-product forms (13 Table 13.5). -/
inductive TForm where
  | top
  | topi
  | topq
  | toph
deriving DecidableEq, Repr

/-- The form that a format pair selects, if any. -/
def Mat.form (m : Mat) : Option TForm :=
  let a := m.afmt
  let b := m.bfmt
  let f8 : Nat → Bool := fun c => c == 3 || c == 4
  let i8 : Nat → Bool := fun c => c == 9 || c == 17
  let f16 : Nat → Bool := fun c => c == 1 || c == 2
  if m.iacc then (if i8 a && i8 b then some .topi else none)
  else if f8 a && f8 b then some .top
  else if (f8 a || a == 9) && (b == 24 || b == 25) && m.gb != 0 then some .topq
  else if f16 a && f16 b then some .toph
  else none

/-- K steps (13 Table 13.5). -/
def TForm.steps (f : TForm) (m : Mat) : Nat :=
  match f with
  | .topq => 2 ^ m.gb
  | _ => 1

/-- A scratchpad operand: base, row pitch, chunk pitch, rotation (13 Table 13.6). -/
structure SpadOp where
  base : Nat
  rp : Nat
  cp : Nat
  rot : Nat
deriving DecidableEq, Repr

/-- Address of chunk c of step k of an operand of nc chunks (13 R284). -/
def SpadOp.chunk (q : SpadOp) (nc k c : Nat) : Nat := q.base + k * q.rp + ((c + q.rot * k) % nc) * q.cp

/-- Descriptor fields that R285 refuses. -/
def descBad (d : Nat) : Bool :=
  decide (nbits d 35 29 ≠ 0) || decide (nbits d 16 16 = 0) || decide (nbits d 0 16 % 64 ≠ 0) || decide (nbits d 16 16 % 64 ≠ 0)

/-- The chunks that count (13 R285): those with an element below `lim`, of n elements of width w, for steps below k. -/
def countedChunks (n w lim k : Nat) : List (Nat × Nat) :=
  (List.range k).flatMap (fun i => ((List.range (n * w / 512)).filter (fun c => decide (c * (512 / w) < lim))).map (fun c => (i, c)))

/-- Where an operand of an outer product comes from. -/
inductive TSrc where
  | vreg (n : Nat)
  | spad (q : SpadOp)
deriving DecidableEq, Repr

/-- A checked outer product: tile, form, steps, operands, masks. -/
structure TOp where
  t : Nat
  form : TForm
  steps : Nat
  a : TSrc
  b : TSrc
  rmk : Nat
  cmk : Nat
deriving DecidableEq, Repr

/-- Extent of a register operand (13 R283): the last element below `lim` of the last of k steps of n elements lies below VLMAX. -/
def vExtentOk (h : Hart) (n w lim k : Nat) : Bool := decide ((n * (k - 1) + lim) * w ≤ h.vlmax * 8)

/-- Scratchpad operand of an even pair (13 R284, R285): n elements of width w, of which those below `lim` count. -/
def xSpadOp (f : BitVec 7) (n w lim k : Nat) : X SpadOp := do
  let bs ← xS f.toNat
  let d ← xS (f.toNat + 1)
  let q : SpadOp := ⟨bs.toNat, nbits d.toNat 0 16, nbits d.toNat 16 16, nbits d.toNat 32 3⟩
  xNeed (decide (bs.toNat % 64 = 0)) .misaligned bs
  xOperands (!descBad d.toNat)
  match ((countedChunks n w lim k).map (fun p => q.chunk (n * w / 512) p.1 p.2)).find? (fun a => decide (a + 64 > 0x400000)) with
  | some a => xTrap .illegalOperand (BitVec.ofNat 64 a)
  | none => pure q

/-- The even scalar pair of a field. -/
def isPair (f : BitVec 7) : Bool := isS f && decide (f.toNat % 2 = 0)

/-- Checks at issue of an outer product (13 R287). `want` is the form a major fixes; `side` is SIDE for TOPS, none for the others. -/
def xOuterCheck (want : Option TForm) (side : Option Bool) (t : BitVec 4) (a b : BitVec 7) (c r : BitVec 3) : X TOp := do
  let h ← xRead (fun s => s.hart)
  let va := side != some true
  let vb := side != some false
  xOperands (isT h t.toNat && (if va then isV h a && !h.vec.isBound (vnum a) else isPair a) && (if vb then isV h b && !h.vec.isBound (vnum b) else isPair b))
  xOperands (decide (h.mat.rows ≠ 0 ∧ h.mat.cols ≠ 0))
  match h.mat.form with
  | none => xTrap .illegalOperand 0
  | some f => do
    xOperands (want == none || want == some f)
    let k := f.steps h.mat
    let wa := fmtEW h.mat.afmt
    let wb := fmtEW h.mat.bfmt
    xOperands ((!va || vExtentOk h 128 wa h.mat.rows k) && (!vb || vExtentOk h 256 wb h.mat.cols k))
    if va && vb then pure ⟨t.toNat, f, k, .vreg (vnum a), .vreg (vnum b), r.toNat, c.toNat⟩
    else if vb then do
      let q ← xSpadOp a 128 wa h.mat.rows k
      pure ⟨t.toNat, f, k, .spad q, .vreg (vnum b), r.toNat, c.toNat⟩
    else do
      let q ← xSpadOp b 256 wb h.mat.cols k
      pure ⟨t.toNat, f, k, .vreg (vnum a), .spad q, r.toNat, c.toNat⟩

/-- Active rows and columns (13 R286). -/
def activeBelow (v : Vec) (n mk : Nat) : List Nat := (List.range n).filter (fun i => decide (mk = 0) || v.mask mk i)

/-- Scratchpad chunks that hold an active element, by step and chunk (13 R285). -/
def TSrc.chunks (src : TSrc) (n w k : Nat) (act : List Nat) : List Nat :=
  match src with
  | .vreg _ => []
  | .spad q => (List.range k).flatMap (fun i => ((List.range (n * w / 512)).filter (fun c => act.any (fun e => decide (e / (512 / w) = c)))).map
      (fun c => q.chunk (n * w / 512) i c))

/-- Element e of step k of an operand of n elements of width w per step (13 R283, R284). `vrf` holds at least the register read. -/
def TSrc.elem (s : State) (vrf : Store 8) (src : TSrc) (n w k e : Nat) : Nat :=
  match src with
  | .vreg r => getEl vrf r w (n * k + e)
  | .spad q =>
    let bit := e * w
    let key := spadKey s.hart.lcore (q.chunk (n * w / 512) k (bit / 512) + bit / 8 % 64)
    if w = 4 then
      let b := (Store.get zeroOf s.spad key).toNat
      if e % 2 = 0 then b % 16 else b / 16
    else bytesNat (Store.read zeroOf s.spad key (w / 8))

/-- The part of a vector register file that holds one register. -/
def regPart (vrf : Store 8) (src : TSrc) : Store 8 :=
  match src with
  | .vreg r => vrf.filter (fun e => decide (r * 98304 ≤ e.1 ∧ e.1 < (r + 1) * 98304))
  | .spad _ => []

/-- The elements of the active rows or columns, each with its index, over the steps. -/
def TSrc.lines (s : State) (src : TSrc) (n w steps : Nat) (act : List Nat) : List (Nat × List Nat) :=
  let part := regPart s.hart.vec.vrf src
  act.map (fun i => (i, (List.range steps).map (fun k => src.elem s part n w k i)))

/-- An operand element as a value: an i8 is read as an integer (13 R289, R290). -/
def opVal (c x : Nat) : FVal :=
  if fmtClass c == .sint || fmtClass c == .uint then
    let i := readI (fmtEW c) (fmtClass c == .sint) x
    .fin (decide (i < 0)) (fracOfInt i)
  else (fmtFloat c).val x

/-- One float step into a cell (13 R288, R290): C + x, one rounding to nearest even, overflow to an infinity. -/
def cellAdd (c : Nat) (x : Exact) : Res :=
  let r := fAdd f32F 0 false (f32F.val c) x.v
  if x.nv then { r with fl := r.fl ||| flNV } else r

/-- TOP and TOPH (13 R288). -/
def stepFloat (c : Nat) (a b : FVal) : Res := cellAdd c (exMul a b)

/-- TOPI (13 R289). -/
def stepInt (c : Nat) (a b : Int) : Res :=
  let x := sval 32 c + a * b
  let y := clampI 32 true x
  ⟨wrapI 32 y, if x = y then 0 else flSAT, false⟩

/-- One term a (q - z) of a group. -/
def groupTerm (z : Int) (p : FVal × Nat) : Exact :=
  let w : Int := (p.2 : Int) - z
  exMul p.1 (.fin (decide (w < 0)) (fracOfInt w))

/-- The terms include infinities of both signs, in whatever order they stand. -/
def bothInfs (z : Int) (terms : List (FVal × Nat)) : Bool :=
  terms.any (fun p => decide ((groupTerm z p).v = .inf false)) && terms.any (fun p => decide ((groupTerm z p).v = .inf true))

/-- TOPQ (13 R290): the exact D over the terms, then C + s D. An exact zero D counts as +0. -/
def stepGroup (c entry : Nat) (terms : List (FVal × Nat)) : Res :=
  let z : Int := nbits entry 16 8
  let D := terms.foldl (fun acc p => exAdd acc (groupTerm z p)) (⟨.fin false (0, 1), false⟩ : Exact)
  let p := exMul (f16F.val (entry % 65536)) D.v
  cellAdd c ⟨p.v, p.nv || D.nv || (decide (D.v = .nan) && bothInfs z terms)⟩

/-- The new value of an active cell of column j, and its flags, from its value and the elements of its row and column over the steps (13 R288 to
R291). -/
def cellStep (s : State) (f : TForm) (j c : Nat) (a b : List Nat) : Res :=
  let m := s.hart.mat
  match f with
  | .topi => stepInt c (readI 8 (decide (m.afmt = 9)) (a.headD 0)) (readI 8 (decide (m.bfmt = 9)) (b.headD 0))
  | .topq => stepGroup c (Store.get zeroOf s.hart.vec.scale (512 * m.bank + j)).toNat ((a.zip b).map (fun p => (opVal m.afmt p.1, p.2)))
  | _ => stepFloat c (opVal m.afmt (a.headD 0)) (opVal m.bfmt (b.headD 0))

/-- Row i of a tile, all 256 columns. -/
def Mat.row (m : Mat) (t i : Nat) : List (BitVec 32) :=
  Store.read zeroOf (m.tiles.filter (fun e => decide (tileKey t i 0 ≤ e.1 ∧ e.1 < tileKey t (i + 1) 0))) (tileKey t i 0) 256

/-- Row i after an outer product: the results of its columns, none where the column is not active. -/
def rowStep (s : State) (o : TOp) (a : List Nat) (cols : List (Nat × List Nat)) (i : Nat) : List (Nat × Res) :=
  let old := s.hart.mat.row o.t i
  cols.map (fun b => (b.1, cellStep s o.form b.1 (old.getD b.1 0).toNat a b.2))

/-- A row with new values at some columns, in rising order. -/
def setRow (old : List (BitVec 32)) (j : Nat) (new : List (Nat × Res)) : List (BitVec 32) :=
  match old with
  | [] => []
  | x :: r => match new with
    | [] => x :: r
    | p :: q => if p.1 = j then BitVec.ofNat 32 p.2.val :: setRow r (j + 1) q else x :: setRow r (j + 1) (p :: q)

/-- All active cells of an outer product: staged values first, then the tile, the flags, VER and the bank change together (13 R277, R290 to R293). -/
def outerCommit (s : State) (o : TOp) : State :=
  let m := s.hart.mat
  let rows := o.a.lines s 128 (fmtEW m.afmt) o.steps (activeBelow s.hart.vec m.rows o.rmk)
  let cols := o.b.lines s 256 (fmtEW m.bfmt) o.steps (activeBelow s.hart.vec m.cols o.cmk)
  let new := rows.map (fun r => (r.1, rowStep s o r.2 cols r.1))
  let tiles := new.foldl (fun acc r => Store.write zeroOf acc (tileKey o.t r.1 0) (setRow (m.row o.t r.1) 0 r.2)) m.tiles
  let fl := new.foldl (fun acc r => r.2.foldl (fun x p => x ||| p.2.fl) acc) 0
  let s1 := s.modMat (fun m => ({ m with tiles := tiles, tgrp := if o.form = .topq then m.tgrp ^^^ 0x100 else m.tgrp } : Mat).setVer o.t)
  s1.modVec (fun v => { v with fflags := v.fflags ||| BitVec.ofNat 6 fl })

/-- The checksum (13 R293, R294; 18 R393, R399 KIND 1): only an injected fault makes it mismatch. The first mismatch counts a rerun, a second escalates
with CHECK_MISMATCH. -/
def xChecksum (n : Nat) : X Unit := fun s =>
  let two := decide (injCount s.hart.inj.tinject = 2)
  let r := injectEvents s.hart 1 n
  let s1 := { s with hart := r.2 }
  if r.1 then
    let s2 := noteCheck (s1.modMat Mat.countRerun) 4
    if two then .error (.halt (escalate s2 s.die 6 s.hart.lcore.toNat 0)) else .ok ((), s2)
  else .ok ((), s1)

/-- Scratchpad reads of an outer product: interlock over the chunks (13 R301), poison consumed (18 R396). -/
def xChunks (l : List Nat) : X Unit :=
  match l with
  | [] => pure ()
  | a :: r => do
    let w ← xRead State.who
    interlock w true a 64 false
    let bad ← xRead (fun s => spadPoisonAt s (spadKey s.hart.lcore a))
    if bad then xHalt (fun s => consumePoison s (spadSector (spadKey s.hart.lcore a))) else xChunks r

/-- A cell among those read has a parity error (13 R296). -/
def Mat.parityError (m : Mat) (cells : List Nat) : Bool := !m.bad.isEmpty && cells.any (fun k => decide (Store.get zeroOf m.bad k = 1))

/-- Cells are read: a parity error is DATA_UNCORRECTABLE and escalates, the instruction does not commit (13 R296). -/
def xCells (cells : List Nat) : X Unit := fun s =>
  if s.hart.mat.parityError cells then .error (.halt (escalate s s.die 5 s.hart.lcore.toNat 0)) else .ok ((), s)

/-- Cells that are written have good parity. -/
def Mat.renew (m : Mat) (lo n : Nat) : Mat := { m with bad := m.bad.filter (fun e => !decide (lo ≤ e.1 ∧ e.1 < lo + n)) }

/-- An outer product (13 R281 to R294). -/
def xOuter (want : Option TForm) (side : Option Bool) (t : BitVec 4) (a b : BitVec 7) (c r : BitVec 3) : X Unit := do
  let o ← xOuterCheck want side t a b c r
  let h ← xRead (fun s => s.hart)
  let rows := activeBelow h.vec h.mat.rows o.rmk
  let cols := activeBelow h.vec h.mat.cols o.cmk
  xChunks (o.a.chunks 128 (fmtEW h.mat.afmt) o.steps rows)
  xChunks (o.b.chunks 256 (fmtEW h.mat.bfmt) o.steps cols)
  xChecksum o.steps
  xCells (rows.flatMap (fun i => cols.map (fun j => tileKey o.t i j)))
  xMod (fun s => (outerCommit s o).retire)

/-- TOP (13 R288). -/
def execTop (t : BitVec 4) (a b : BitVec 7) (c r : BitVec 3) (s : State) : Host.Outcome State Fault Refusal :=
  hartOnly s (runX (xOuter (some .top) none t a b c r))

/-- TOPI (13 R289). -/
def execTopi (t : BitVec 4) (a b : BitVec 7) (c r : BitVec 3) (s : State) : Host.Outcome State Fault Refusal :=
  hartOnly s (runX (xOuter (some .topi) none t a b c r))

/-- TOPQ (13 R290). -/
def execTopq (t : BitVec 4) (a b : BitVec 7) (c r : BitVec 3) (s : State) : Host.Outcome State Fault Refusal :=
  hartOnly s (runX (xOuter (some .topq) none t a b c r))

/-- TOPH (13 R288). -/
def execToph (t : BitVec 4) (a b : BitVec 7) (c r : BitVec 3) (s : State) : Host.Outcome State Fault Refusal :=
  hartOnly s (runX (xOuter (some .toph) none t a b c r))

/-- TOPS (13 R291). -/
def execTops (t : BitVec 4) (a b : BitVec 7) (side : Bool) (c r : BitVec 3) (s : State) : Host.Outcome State Fault Refusal :=
  hartOnly s (runX (xOuter none (some side) t a b c r))

/-- Rows of a tile move: first row and count (13 R297). -/
structure TRows where
  row0 : Nat
  n : Nat
deriving DecidableEq, Repr

/-- Checks of TMOVV, TMOVT and TEPI (13 R297): `mbz` says that the scalar operand's zero bits are clear, `ext` is the widest extent in bytes for n
rows of W columns. -/
def xRows (h : Hart) (x : Nat) (mbz : Bool) (ext : Nat → Nat) : X TRows := do
  let q : TRows := ⟨nbits x 0 8, nbits x 8 8⟩
  xOperands (mbz && decide (q.n ≠ 0) && decide (q.row0 + q.n ≤ h.mat.rows) && decide (h.mat.cols ≠ 0) && decide (ext (q.n * h.mat.cols) ≤ h.vlmax))
  pure q

/-- A tile read is an event of KIND 5 (18 R399): injected accumulator parity escalates with DATA_UNCORRECTABLE, and so does a parity error of a cell
(13 R296). -/
def xTileRead (cells : List Nat) : X Unit := do
  fun s =>
    let r := injectEvents s.hart 5 1
    let s1 := { s with hart := r.2 }
    if r.1 then .error (.halt (escalate s1 s.die 5 s.hart.lcore.toNat 0)) else .ok ((), s1)
  xCells cells

/-- Keys of the cells of tile rows (13 R298). -/
def rowKeys (m : Mat) (t : Nat) (q : TRows) : List Nat :=
  (List.range q.n).flatMap (fun r => (List.range m.cols).map (fun j => tileKey t (q.row0 + r) j))

/-- Elements of tile rows in the order of 13 R298: (element, column, cell). -/
def rowCells (m : Mat) (t : Nat) (q : TRows) : List (Nat × Nat × Nat) :=
  (List.range q.n).flatMap (fun r => ((m.row t (q.row0 + r)).take m.cols).mapIdx (fun j c => (r * m.cols + j, j, c.toNat)))

/-- TMOVV (13 R298). -/
def xTmovv (t : BitVec 4) (d b : BitVec 7) : X Unit := do
  let h ← xRead (fun s => s.hart)
  xOperands (isT h t.toNat && isV h d && !h.vec.isBound (vnum d) && isS b)
  let x ← xS b.toNat
  let q ← xRows h x.toNat (decide (nbits x.toNat 16 48 = 0)) (fun n => 4 * n)
  xTileRead (rowKeys h.mat t.toNat q)
  xMod (fun s => (s.putVrf (vnum d) 32 ((rowCells h.mat t.toNat q).map (fun p => (p.1, p.2.2)))).retire)

def execTmovv (t : BitVec 4) (d b : BitVec 7) (s : State) : Host.Outcome State Fault Refusal := hartOnly s (runX (xTmovv t d b))

/-- TMOVT (13 R298). -/
def xTmovt (t : BitVec 4) (a b : BitVec 7) : X Unit := do
  let h ← xRead (fun s => s.hart)
  xOperands (isT h t.toNat && isV h a && !h.vec.isBound (vnum a) && isS b)
  let x ← xS b.toNat
  let q ← xRows h x.toNat (decide (nbits x.toNat 16 48 = 0)) (fun n => 4 * n)
  let part := regPart h.vec.vrf (.vreg (vnum a))
  xMod (fun s => (s.modMat (fun m =>
    let m1 := (List.range q.n).foldl (fun acc r => acc.renew (tileKey t.toNat (q.row0 + r) 0) m.cols) m
    { m1 with tiles := (List.range q.n).foldl (fun acc r =>
        Store.write zeroOf acc (tileKey t.toNat (q.row0 + r) 0) ((List.range m.cols).map (fun j =>
          BitVec.ofNat 32 (getEl part (vnum a) 32 (r * m.cols + j))))) m.tiles })).retire)

def execTmovt (t : BitVec 4) (a b : BitVec 7) (s : State) : Host.Outcome State Fault Refusal := hartOnly s (runX (xTmovt t a b))

/-- Output formats of TEPI (13 R299). -/
def epiOut (o : Nat) : FFmt := if o = 0 then f32F else if o = 1 then bf16F else if o = 2 then f16F else f8aF

/-- One element of TEPI (13 R299): scale and bias with one rounding, activation in f32, conversion as VCVT, all to nearest even. -/
def epiEl (F : FFmt) (act : Nat) (iacc : Bool) (alpha c beta : Nat) : Res :=
  let i := sval 32 c
  let cv : FVal := if iacc then .fin (decide (i < 0)) (fracOfInt i) else f32F.val c
  let y := fFma f32F 0 false (f32F.val alpha) cv (f32F.val beta)
  let g : Res := if act = 1 then Res.pure (fPick f32F true y.val 0) else if act = 2 then specRes f32F false .tanh (f32F.val y.val) else Res.pure y.val
  let z := floatToFloat F 0 (f32F.val g.val)
  ⟨z.val, y.fl ||| g.fl ||| z.fl, false⟩

/-- TEPI (13 R299). -/
def xTepi (t : BitVec 4) (d b : BitVec 7) (cb : Bool) (o u : BitVec 2) : X Unit := do
  let h ← xRead (fun s => s.hart)
  xOperands (isT h t.toNat && isV h d && !h.vec.isBound (vnum d) && isPair b)
  let x ← xS b.toNat
  let y ← xS (b.toNat + 1)
  let F := epiOut o.toNat
  let q ← xRows h x.toNat (decide (nbits x.toNat 16 16 = 0 ∧ nbits y.toNat 32 32 = 0))
    (fun n => max (n * F.width / 8) (if cb then 4 * h.mat.cols else 0))
  xTileRead (rowKeys h.mat t.toNat q)
  xChecked [List.range (q.n * h.mat.cols)]
  let alpha := nbits x.toNat 32 32
  let beta := nbits y.toNat 0 32
  let part := regPart h.vec.vrf (.vreg (vnum d))
  let rs := (rowCells h.mat t.toNat q).map (fun p => (p.1, epiEl F u.toNat h.mat.iacc alpha p.2.2
    (if cb then getEl part (vnum d) 32 p.2.1 else beta)))
  let fl := rs.foldl (fun acc p => acc ||| p.2.fl) 0
  xMod (fun s => ((s.putVrf (vnum d) F.width (rs.map (fun p => (p.1, p.2.val)))).modVec
    (fun v => { v with fflags := v.fflags ||| BitVec.ofNat 6 fl })).retire)

def execTepi (t : BitVec 4) (d b : BitVec 7) (cb : Bool) (o u : BitVec 2) (s : State) : Host.Outcome State Fault Refusal :=
  if u.toNat = 3 then hartOnly s (fun s => illegalWord s (0x45 * 2 ^ 25 + t.toNat * 2 ^ 21 + d.toNat * 2 ^ 14 + b.toNat * 2 ^ 7
    + 64 + (if cb then 16 else 0) + o.toNat * 4 + 3))
  else hartOnly s (runX (xTepi t d b cb o u))

/-- TCFG (13 R278). -/
def xTcfg (d : BitVec 7) : X Unit := do
  xOperands (isS d)
  let c ← xS d.toNat
  let v := c.toNat
  let shape := nbits v 0 8 + nbits v 8 9 * 2 ^ 16
  let fmt := nbits v 17 5 + nbits v 22 5 * 2 ^ 8 + nbits v 27 1 * 2 ^ 16
  let grp := nbits v 28 3 + nbits v 31 1 * 2 ^ 8
  xOperands (tshapeOk shape && tfmtOk fmt && tgrpOk grp && decide (nbits v 32 32 = 0))
  xMod (fun s => (s.modMat (fun m => { m with tshape := BitVec.ofNat 64 shape, tfmt := BitVec.ofNat 64 fmt, tgrp := BitVec.ofNat 64 grp })).retire)

def execTcfg (d : BitVec 7) (s : State) : Host.Outcome State Fault Refusal := hartOnly s (runX (xTcfg d))

/-- TZERO (13 R279): every cell of the tile, whatever tshape holds. -/
def xTzero (d : BitVec 7) : X Unit := do
  let h ← xRead (fun s => s.hart)
  xOperands (isX d && isT h d.toNat)
  let lo := tileKey d.toNat 0 0
  xMod (fun s => (s.modMat (fun m => ({ m with tiles := m.tiles.filter (fun e => !(decide (lo ≤ e.1) && decide (e.1 < lo + 32768))) } : Mat).renew lo 32768 |>.clearVer d.toNat)).retire)

def execTzero (d : BitVec 7) (s : State) : Host.Outcome State Fault Refusal := hartOnly s (runX (xTzero d))

/-- TSTAT (13 R280). -/
def xTstat (d : BitVec 7) (c : Bool) : X Unit := do
  xOperands (isS d)
  let t ← xRead (fun s => s.hart.mat.tstat)
  xSetS d.toNat t
  xMod (fun s => (if c then s.modMat (fun m => { m with tstat := BitVec.ofNat 64 (nbits m.tstat.toNat 0 16) }) else s).retire)

def execTstat (d : BitVec 7) (c : Bool) (s : State) : Host.Outcome State Fault Refusal := hartOnly s (runX (xTstat d c))

end Sys2Proof.Machine
end

