-- ==== Sys2Proof/Machine/VConfig.lean ====
section
/-! DEFINITION. Sys2Proof/Machine/VConfig.lean: vtype, vl, vshape and the configuration instructions (08 R162 to R171). -/
namespace Sys2Proof.Machine

/-- A value that vtype accepts (08 R162). -/
def vtypeOk (x : Nat) : Bool :=
  decide (fmtEW (x % 32) ≠ 0) && decide (nbits x 5 3 = 0 ∨ nbits x 5 3 = 5 ∨ nbits x 5 3 = 6 ∨ nbits x 5 3 = 7) && decide (x < 2 ^ 13)

/-- An accepted write of vtype (08 R162, R165): vstart := 0, then vl and vshape are held to the new VLMAXE. -/
def Hart.withVtype (h : Hart) (x : Nat) : Hart :=
  let n := h.vlmaxeOf (x % 32)
  let v := h.vec
  let sh : BitVec 40 := if v.nrow * v.ncol > n then BitVec.ofNat 40 (2 ^ 20 + n) else v.vshape
  { h with vec := { v with vtype := BitVec.ofNat 13 x, vstart := 0, vl := BitVec.ofNat 18 (min v.vl.toNat n), vshape := sh } }

/-- A shape that is accepted (08 R165). -/
def Hart.shapeOk (h : Hart) (r c : Nat) : Bool := decide (1 ≤ r ∧ 1 ≤ c ∧ r * c ≤ h.vlmaxe)

/-- VSETTYPE (08 R169). -/
def execVsettype (d : BitVec 7) (v : BitVec 13) (s : State) : Host.Outcome State Fault Refusal :=
  hartOnly s (fun s =>
    if isS d && vtypeOk v.toNat then
      let h := s.hart.withVtype v.toNat
      .next (({ s with hart := h }).setSreg d.toNat (BitVec.ofNat 64 h.vlmaxe)).retire
    else .next (takeTrap s .illegalOperand 0))

/-- vl and vstart set by a configuration instruction, and its result. -/
def setVl (s : State) (d : BitVec 7) (shape : BitVec 40) (n : Nat) : State :=
  ((s.modVec (fun v => { v with vshape := shape, vl := BitVec.ofNat 18 n, vstart := 0 })).setSreg d.toNat (BitVec.ofNat 64 n)).retire

/-- VSETSHAPE (08 R170). -/
def execVsetshape (d a b : BitVec 7) (s : State) : Host.Outcome State Fault Refusal :=
  hartOnly s (fun s =>
    let r := (s.sreg a.toNat).toNat
    let c := (s.sreg b.toNat).toNat
    if isS d && isS a && isS b && s.hart.shapeOk r c then .next (setVl s d (BitVec.ofNat 40 (r * 2 ^ 20 + c)) (r * c))
    else .next (takeTrap s .illegalOperand 0))

/-- VSETL (08 R170): S[ra] read as unsigned, held to VLMAXE. -/
def execVsetl (d a : BitVec 7) (s : State) : Host.Outcome State Fault Refusal :=
  hartOnly s (fun s =>
    if isS d && isS a then .next (setVl s d s.hart.vec.vshape (min (s.sreg a.toNat).toNat s.hart.vlmaxe))
    else .next (takeTrap s .illegalOperand 0))

/-- Data bytes of a spill frame: ceil(vl EW / 8) (08 R171, 09 R210). -/
def spillBytes (vl w : Nat) : Nat := (vl * w + 7) / 8

/-- VLQ (08 R171). -/
def execVlq (d : BitVec 7) (s : State) : Host.Outcome State Fault Refusal :=
  hartOnly s (fun s =>
    if isS d then
      .next (s.setSreg d.toNat (BitVec.ofNat 64 (64 + roundUp (spillBytes s.hart.vec.vl.toNat s.hart.vec.ew) 64))).retire
    else .next (takeTrap s .illegalOperand 0))

end Sys2Proof.Machine
end

