-- ==== Sys2Proof/Machine/Csr.lean ====
section
/-! DEFINITION. Sys2Proof/Machine/Csr.lean: CSR access (05 R112, R113, Table 5.5; 06 R135 to R138). -/
namespace Sys2Proof.Machine

/-- A value that lstate accepts (06 R135): zero fields at and above DEPTH, BACK within LEN, each level inside the level below it. -/
def lstateOk (v : Nat) : Bool :=
  let depth := v / 2 ^ 62
  let back := fun i => nbits v (20 * i) 10
  let len := fun i => nbits v (20 * i + 10) 10
  decide (nbits v 60 2 = 0) && (List.range 3).all (fun i =>
    if depth ≤ i then decide (nbits v (20 * i) 20 = 0)
    else decide (back i ≤ len i) && (decide (i = 0) || decide (back i ≤ back (i - 1) ∧ len i + back (i - 1) ≤ len (i - 1) + back i)))

/-- A CSR read (05 Table 5.5, Table 5.6); none for an address that the table does not list, and for tinject at task level. -/
def csrRead (s : State) (c : Nat) : Option Word :=
  let h := s.hart
  match c with
  | 0x000 => some (h.vec.vtype.setWidth 64)
  | 0x001 => some (h.vec.vshape.setWidth 64)
  | 0x002 => some (h.vec.vl.setWidth 64)
  | 0x003 => some (h.vec.vstart.setWidth 64)
  | 0x004 => some (h.vregs.setWidth 64)
  | 0x005 => some (BitVec.ofNat 64 h.vlmax)
  | 0x006 => some (BitVec.ofNat 64 (h.slots.toNat * 256 + 32 / h.slots.toNat))
  | 0x007 => some (BitVec.ofNat 64 (h.pfirst.toNat * 256 + h.parts.toNat))
  | 0x010 => some (h.front.wbase.setWidth 64)
  | 0x011 => some (Store.get zeroOf h.front.lc 0)
  | 0x012 => some (Store.get zeroOf h.front.lc 1)
  | 0x013 => some (Store.get zeroOf h.front.lc 2)
  | 0x014 => some h.lstate
  | 0x020 => some (h.vec.fflags.setWidth 64)
  | 0x021 => some (h.vec.frm.setWidth 64)
  | 0x030 => some (BitVec.ofNat 64 (h.pmId.toNat * 2 ^ 48 + h.pmOcc.toNat))
  | 0x031 => some h.wid
  | 0x032 => some h.widf
  | 0x033 => some (h.lcore.setWidth 64)
  | 0x034 => some (h.ctx.setWidth 64)
  | 0x040 => some h.mat.tshape
  | 0x041 => some h.mat.tfmt
  | 0x042 => some h.mat.tstat
  | 0x043 => some h.mat.tgrp
  | 0x060 => some ((rinOf s s.die).setWidth 64)
  | 0x061 => some (match nodeOf s h.node with
      | some nd => nd.phase.setWidth 64
      | none => 0)
  | 0x062 => some (h.det.setWidth 64)
  | 0x070 => some (h.trap.tcause.setWidth 64)
  | 0x071 => some h.trap.tval
  | 0x072 => some h.trap.tepc
  | 0x073 => some (h.trap.tstatus.setWidth 64)
  | 0x074 => some h.trap.tvec
  | 0x080 => some h.ctr.cycle
  | 0x081 => some h.ctr.acycle
  | 0x082 => some h.ctr.retired
  | 0x083 => some h.ctr.vstall
  | _ => none

/-- Keep a write when its value is accepted. -/
def acceptIf (ok : Bool) (h : Hart) : Option Hart := if ok then some h else none

def Hart.setLc (h : Hart) (i : Nat) (v : Word) : Hart := { h with front := { h.front with lc := Store.set zeroOf h.front.lc i v } }
def Hart.setTrap (h : Hart) (f : TrapRegs → TrapRegs) : Hart := { h with trap := f h.trap }

/-- RZ fields of the read-only CSRs (05 Table 5.6, 13 Table 13.4, 17 Table 17.1). -/
def roZeros (c : Nat) : Word :=
  match c with
  | 0x004 => 0xFFFFFFFFFFFFFF80
  | 0x005 => 0xFFFFFFFFFFFE0000
  | 0x006 => 0xFFFFFFFFFFFF0000
  | 0x007 => 0xFFFFFFFFFFFFF0F0
  | 0x032 => 0xFFF8000000000000
  | 0x033 => 0xFFFFFFFFFFFFFF00
  | 0x034 => 0xFFFFFFFFFFFFFFF8
  | 0x042 => 0xFFFFFFFF00000000
  | 0x060 => 0xFFFFFFFF00000000
  | 0x061 => 0xFFFFFFFFFFFF0000
  | 0x062 => 0xFFFFFFFFFFFFFFFC
  | _ => 0

/-- A write of a listed CSR but lstate: none where the value is not accepted, which is ILLEGAL_OPERAND (05 R112; 00 R8). A read-only CSR keeps its
value; that a write which sets one of its RZ fields raises ILLEGAL_OPERAND as well is how the model reads the two rules together (log 68). -/
def csrWrite (h : Hart) (c : Nat) (v : Word) : Option Hart :=
  let x := v.toNat
  match c with
  | 0x000 => acceptIf (vtypeOk x) (h.withVtype x)
  | 0x001 => acceptIf (decide (x < 2 ^ 40) && h.shapeOk (nbits x 20 20) (nbits x 0 20)) { h with vec := { h.vec with vshape := BitVec.ofNat 40 x } }
  | 0x002 => acceptIf (decide (x ≤ h.vlmaxe)) { h with vec := { h.vec with vl := BitVec.ofNat 18 x } }
  | 0x003 => acceptIf (decide (x ≤ h.vlmaxe)) { h with vec := { h.vec with vstart := BitVec.ofNat 18 x } }
  | 0x010 => acceptIf (wbaseOk x) { h with front := { h.front with wbase := BitVec.ofNat 8 x } }
  | 0x011 => some (h.setLc 0 v)
  | 0x012 => some (h.setLc 1 v)
  | 0x013 => some (h.setLc 2 v)
  | 0x020 => acceptIf (decide (x < 2 ^ 6)) { h with vec := { h.vec with fflags := BitVec.ofNat 6 x } }
  | 0x021 => acceptIf (decide (x < 4)) { h with vec := { h.vec with frm := BitVec.ofNat 2 x } }
  | 0x040 => acceptIf (tshapeOk x) { h with mat := { h.mat with tshape := v } }
  | 0x041 => acceptIf (tfmtOk x) { h with mat := { h.mat with tfmt := v } }
  | 0x043 => acceptIf (tgrpOk x) { h with mat := { h.mat with tgrp := v } }
  | 0x070 => acceptIf (decide (x < 256)) (h.setTrap (fun t => { t with tcause := BitVec.ofNat 8 x }))
  | 0x071 => some (h.setTrap (fun t => { t with tval := v }))
  | 0x072 => acceptIf (decide (x % 4 = 0)) (h.setTrap (fun t => { t with tepc := v }))
  | 0x073 => acceptIf (decide (x < 2 ^ 16 ∧ nbits x 3 5 = 0) && wbaseOk (nbits x 8 8))
      (h.setTrap (fun t => { t with tstatus := BitVec.ofNat 16 (x / 256 * 256 + t.tstatus.toNat % 8) }))
  | 0x074 => acceptIf (decide (x % 4 = 0)) (h.setTrap (fun t => { t with tvec := v }))
  | _ => acceptIf (decide (v &&& roZeros c = 0)) h

/-- A CSR instruction on a hart: `val` gives the value to write from the old one, none for a plain read (06 R137). ILLEGAL_INSTR for an unlisted CSR comes
before the class of the operand (18 R388). -/
def csrOn (s : State) (d : BitVec 7) (c : BitVec 12) (fn : Nat) (val : Word → Option Word) : Host.Outcome State Fault Refusal :=
  match csrRead s c.toNat with
    | none => illegalWord s (wordFS 0x14 d.toNat c.toNat fn)
    | some old =>
      if !isS d then .next (takeTrap s .illegalOperand 0)
      else match val old with
      | none => .next (s.setSreg d.toNat old).retire
      | some v =>
        if c.toNat = 0x014 then
          if lstateOk v.toNat then
            let ls := (levelsOf s.hart.loopRef v.toNat).reverse
            let t := s.retire
            .next (t.setFront { t.front with levels := ls })
          else .next (takeTrap s .illegalOperand 0)
        else match csrWrite s.hart c.toNat v with
          | some h => .next ({ s with hart := h } : State).retire
          | none => .next (takeTrap s .illegalOperand 0)

/-- CSRR (06 R137). -/
def execCsrr (d : BitVec 7) (c : BitVec 12) (s : State) : Host.Outcome State Fault Refusal :=
  hartOnly s (fun s => csrOn s d c 0 (fun _ => none))

/-- CSRW (06 R137). -/
def execCsrw (d : BitVec 7) (c : BitVec 12) (s : State) : Host.Outcome State Fault Refusal :=
  hartOnly s (fun s => csrOn s d c 1 (fun _ => some (s.sreg d.toNat)))

/-- CSRS (06 R137). -/
def execCsrs (d : BitVec 7) (c : BitVec 12) (s : State) : Host.Outcome State Fault Refusal :=
  hartOnly s (fun s => csrOn s d c 2 (fun old => some (old ||| s.sreg d.toNat)))

/-- CSRC (06 R137). -/
def execCsrc (d : BitVec 7) (c : BitVec 12) (s : State) : Host.Outcome State Fault Refusal :=
  hartOnly s (fun s => csrOn s d c 3 (fun old => some (old &&& ~~~(s.sreg d.toNat))))

end Sys2Proof.Machine
end

