-- ==== Sys2Proof/Machine/VMem.lean ====
section
/-! DEFINITION. Sys2Proof/Machine/VMem.lean: stream settings, vector loads and stores, spill and fill, scale loads (09 R191 to R214). -/
namespace Sys2Proof.Machine

/-- QSET and QSETX (09 R191): a bound stream, or a stride on a packed one, raises ILLEGAL_OPERAND. -/
def xQset (d : BitVec 7) (ok : Bool) (a : BitVec 7) (stride count : BitVec 32) : X Unit := do
  xOperands (isX d && isS a && ok)
  let h ← xRead (fun s => s.hart)
  xOperands (!(h.vec.stream d.toNat).bound)
  xOperands (!(decide (h.vec.ew = 4) && decide (stride ≠ 0)))
  let base ← xS a.toNat
  xMod (fun s => (s.modVec (fun v => v.setStream d.toNat ⟨base, 0, stride, count, BitVec.ofNat 8 v.fmt, true, false, false, 0⟩)).retire)

/-- QSET (09 R191): the stride is a signed 7-bit field, the stream is unlimited. -/
def execQset (d a i : BitVec 7) (s : State) : Host.Outcome State Fault Refusal := hartOnly s (runX (xQset d true a (i.signExtend 32) 0))

/-- QSETX (09 R191): stride S[rb][63:32], count S[rb][31:0]. -/
def execQsetx (d a b : BitVec 7) (s : State) : Host.Outcome State Fault Refusal :=
  hartOnly s (fun s =>
    let x := (s.sreg b.toNat).toNat
    runX (xQset d (isS b) a (BitVec.ofNat 32 (x / 2 ^ 32)) (BitVec.ofNat 32 x)) s)

/-- QBIND (09 R208). -/
def execQbind (d a : BitVec 7) (k : Bool) (s : State) : Host.Outcome State Fault Refusal :=
  hartOnly s (runX (do
    let h ← xRead (fun s => s.hart)
    let q := h.vec.stream a.toNat
    xOperands (isV h d && streamOk h.vec a && !h.vec.isBound (vnum d))
    xMod (fun s => (s.modVec (fun v => v.setStream a.toNat { q with bound := true, breg := BitVec.ofNat 6 (vnum d), keep := k })).retire)))

/-- QUNBIND (09 R208): no effect on a register that is not bound. -/
def execQunbind (d : BitVec 7) (s : State) : Host.Outcome State Fault Refusal :=
  hartOnly s (runX (do
    let h ← xRead (fun s => s.hart)
    xOperands (isV h d)
    xMod (fun s => (s.modVec (fun v => match v.boundTo (vnum d) with
      | some i => v.setStream i { v.stream i with bound := false, keep := false, breg := 0 }
      | none => v)).retire)))

/-- How a stream instruction walks (09 R193): in unit steps, by rows with a pitch, by an index register. -/
inductive Walkway where
  | unit
  | rows (pitch : Word)
  | index (reg : Nat)
deriving DecidableEq, Repr

/-- Address of element e (09 R193). -/
def walkAddr (v : Vec) (q : Stream) (k : Walkway) (e : Nat) : Nat :=
  match k with
  | .unit => q.unitAddr v.ew e
  | .rows p => wrapI 64 (q.origin + (e / v.ncol : Nat) * (p.toNat : Int) + (e % v.ncol : Nat) * q.step)
  | .index r => wrapI 64 (q.base.toNat + sval 32 (getEl v.vrf r 32 e) * q.step)

/-- Operand checks of a stream access (09 R190, R193): packed streams walk in unit steps only, an index register covers VLMAX / 4 elements. -/
def walkOk (h : Hart) (k : Walkway) : Bool :=
  match k with
  | .unit => true
  | .rows _ => decide (h.vec.ew ≠ 4)
  | .index r => decide (h.vec.ew ≠ 4) && decide (h.vec.vl.toNat ≤ h.vlmax / 4) && !h.vec.isBound r

def Walkway.isUnit (k : Walkway) : Bool :=
  match k with
  | .unit => true
  | _ => false

/-- End of a stream access: the unit walk moves on, vstart := 0 (09 R195). -/
def endWalk (s : State) (qi : Nat) (k : Walkway) : State := (if k.isUnit then advanceStream s qi else s).setVstart 0

/-- A vector load (09 R199). A failing element traps; the elements below it are written. -/
def xVload (ok : Bool) (k : Walkway) (d a : BitVec 7) (m : Bool) : X Unit := do
  let no ← xLoadNo 1
  let h ← xRead (fun s => s.hart)
  let v := h.vec
  xOperands (isV h d && ok && streamOk v a && walkOk h k && !v.isBound (vnum d))
  let q := v.stream a.toNat
  let act := v.active m [q]
  let r ← xLoadVec no (walkAddr v q k) (elBytes v.ew) (q.pick v.ew) act
  match r.2 with
  | some (e, c, tv) => xTrapAt (fun s => s.putVrf (vnum d) v.ew r.1) e c tv
  | none => xMod (fun s => (endWalk (s.putVrf (vnum d) v.ew r.1) a.toNat k).loadDone.retire)

/-- VLD (09 R198). -/
def execVld (d a : BitVec 7) (m : Bool) (s : State) : Host.Outcome State Fault Refusal := hartOnly s (runX (xVload true .unit d a m))
/-- VLDS (09 R198): row pitch in a scalar register. -/
def execVlds (d a b : BitVec 7) (m : Bool) (s : State) : Host.Outcome State Fault Refusal :=
  hartOnly s (fun s => runX (xVload (isS b) (.rows (s.sreg b.toNat)) d a m) s)
/-- VLDX (09 R198): index register. -/
def execVldx (d a b : BitVec 7) (m : Bool) (s : State) : Host.Outcome State Fault Refusal :=
  hartOnly s (fun s => runX (xVload (isV s.hart b) (.index (vnum b)) d a m) s)

/-- The nibbles of a packed store by byte: address, and the values of its lower and its upper four bits, where stored; elements that share a byte are
written together (09 R192). -/
def packedWrites (l : List (Nat × Bool × Byte)) (acc : List (Nat × Option Byte × Option Byte)) : List (Nat × Option Byte × Option Byte) :=
  match l with
  | [] => acc.reverse
  | (a, odd, x) :: r =>
    let put : Option Byte × Option Byte → Option Byte × Option Byte := fun p => if odd then (p.1, some x) else (some x, p.2)
    match acc with
    | (a0, p) :: rest => if a0 = a then packedWrites r ((a, put p) :: rest) else packedWrites r ((a, put (none, none)) :: acc)
    | [] => packedWrites r [(a, put (none, none))]

/-- One instruction that has written all 64 bytes of a sector clears the poison of the version of it that the task has written (18 R395): a packed store has
written that at home (09 R192). -/
def clearFull (packed : Bool) (s : State) (runs : List (Nat × List Byte)) : State :=
  if s.poison.isEmpty && s.nc.isEmpty && s.vs.isEmpty then s
  else
    let secs := (runs.flatMap (fun p => (upFrom (p.1 / 64) ((p.1 + p.2.length - 1) / 64 + 1 - p.1 / 64)))).eraseDups
    let covered : Nat → Bool := fun a => runs.any (fun p => decide (p.1 ≤ a ∧ a < p.1 + p.2.length))
    secs.foldl (fun t q =>
      if (upFrom (q * 64) 64).all covered then
        match (nodeOf t t.hart.node).bind (fun nd => nodePA nd (BitVec.ofNat 64 (q * 64))) with
        | some (pa, e) =>
          if isDeviceMem pa && decide (leafMT e = 0) then
            let u := setOwnPoison t t.who e pa false
            if packed && decide (t.hart.det = 0) then setPoison u (pa / 64) false else u
          else t
        | none => t
      else t) s

/-- A die's NC copies of a line go home before the line becomes counted, and are given up: a counted line is read at home (11 R248). -/
def homeCopies (s : State) (die line : Nat) : State :=
  (upFrom (line * 4) 4).foldl (fun t q => setNc (ncClean t die q) die q none) s

/-- A VSTRC write of bytes of one sector of an EPH page (11 R248): the line becomes counted with count c, keeping what memory held before it first was. The
writer's own copies of an NC page go home first, which as a plain write ends an older count. -/
def countedWrite (w : Who) (c pa : Nat) (bytes : State → List Byte) : X Unit := fun s0 =>
  let s := receives s0 w.die (pa / 64)
  let line := pa / 256
  if vsFull s (homeDie pa) then .error (.stall (.space (homeDie pa) (rinOf s (homeDie pa))))
  else match cohWrite s (homeDie pa) line (pa / 64) with
    | none => .error (.stall (.line (homeDie pa) (pa / 64) true))
    | some t0 =>
      let t := homeCopies t0 w.die line
      let entry : Counted := match t.counted.find? (fun x => decide (x.line = line)) with
        | some x => { x with count := c }
        | none => ⟨line, c, BitVec.ofNat 2048 (memNat t (line * 256) 256),
            BitVec.ofNat 4 ((List.range 4).foldl (fun acc i => acc + if poisonAt t (line * 256 + 64 * i) then 2 ^ i else 0) 0)⟩
      let u := writeHome t pa (bytes t) (rinOf t w.die) (some w.node) (some w.hid)
      .ok ((), { u with counted := u.counted ++ [entry] })

/-- One write of a store within a sector: on an EPH page a VSTRC counts the line, elsewhere it is plain (09 R207). -/
def xWritePart (rc : Option Nat) (p : Nat × List Byte) : X Unit := do
  let w ← xRead State.who
  let e ← xLeaf p.1
  match (if leafEPH e then rc else none) with
  | none => xWriteBytes false p.1 p.2
  | some c => do
    let nd ← xRead (fun s => nodeOf s w.node)
    match nd.bind (fun y => nodePA y (BitVec.ofNat 64 p.1)) with
    | some (pa, _) => countedWrite w c pa (fun _ => p.2)
    | none => pure ()

/-- The writes of a store. With `rc` those to EPH pages are counted. -/
def xWriteRuns (rc : Option Nat) (l : List (Nat × List Byte)) : X Unit :=
  match l with
  | [] => pure ()
  | p :: r => do
    let w ← xRead State.who
    interlock w false p.1 p.2.length true
    (pieces64 p.1 p.2).forM (xWritePart rc)
    xWriteRuns rc r

/-- One byte of a packed store (09 R192): the bits that its elements write, in one update at home. -/
def xPackedByte (rc : Option Nat) (p : Nat × Option Byte × Option Byte) : X Unit := do
  let w ← xRead State.who
  interlock w false p.1 1 true
  let e ← xLeaf p.1
  let pa := leafPA e + p.1 % 65536
  match (if leafEPH e then rc else none) with
  | none => writeHalves w p.1 e pa p.2
  | some c => countedWrite w c pa (fun s => [putHalves p.2 (Store.get memDefault s.mem pa)])

def xPackedWrites (rc : Option Nat) (l : List (Nat × Option Byte × Option Byte)) : X Unit :=
  match l with
  | [] => pure ()
  | p :: r => do
    xPackedByte rc p
    xPackedWrites rc r

/-- The accesses of a store's elements, as (address, bytes): those that lie side by side reach memory as one, but in deterministic mode each is a store of
its own (17 R377). -/
def storeRuns (det : Bool) (l : List (Nat × List Byte)) : List (Nat × List Byte) := if det then l else joinRuns l

/-- The elements of a vector store (09 R202). `before` holds further checks; `prog` is the progress word of VSTN, `rc` the count of VSTRC. At the first element that fails
its own checks the elements below it have been stored, and with KEEP their bound reads written (log 65); a bound read that fails at that element or below
traps instead (09 R208). No data are read for that element (18 R388). -/
def xVstoreRun (ok : Bool) (k : Walkway) (before : X Unit) (prog : Option Word) (rc : Option Nat) (d a : BitVec 7) (m : Bool) : X Unit := do
  let h ← xRead (fun s => s.hart)
  let v := h.vec
  let q := v.stream a.toNat
  let bs := boundSources v [vnum d]
  xOperands (isV h d && ok && streamOk v a && walkOk h k && boundWidths v bs)
  before
  let addr := walkAddr v q k
  let act := v.active m (q :: bs.map (fun p => v.stream p.1))
  let sp ← xRead (fun s => firstFail (fun e => elemCheck s (addr e) (elBytes v.ew) true) act)
  let view ← xBoundReads sp.1 (sp.2.map Prod.fst).toList bs v.vrf
  let val : Nat → Nat := fun e => getEl view.1 (vnum d) v.ew e
  if v.ew = 4 then do
    let ws := packedWrites (sp.1.map (fun e => (addr e, decide ((q.pos.toNat + e) % 2 = 1), BitVec.ofNat 8 (val e)))) []
    xPackedWrites rc ws
    xMod (fun s => clearFull true s (joinRuns ((ws.filter (fun p => p.2.1.isSome && p.2.2.isSome)).map (fun p => (p.1, [0])))))
  else do
    let runs := storeRuns (decide (h.det ≠ 0)) (sp.1.map (fun e => (addr e, natBytes (val e) (v.ew / 8))))
    xWriteRuns rc runs
    xMod (fun s => clearFull false s runs)
  match sp.2 with
  | some (e, c, tv) => do
    xProgress prog (q.pos.toNat + e)
    xTrapAt (keepBound (fun i => decide (i < e)) view.2) e c tv
  | none => do
    xMod (fun s => endWalk (retireBound s view.2) a.toNat k)
    let pos ← xRead (fun s => (s.hart.vec.stream a.toNat).pos.toNat)
    xProgress prog pos
    xMod State.retire
where
  /-- The last progress value (09 R206); that none of those before it is written is the model's choice (log 75). -/
  xProgress (prog : Option Word) (pos : Nat) : X Unit :=
    match prog with
    | none => pure ()
    | some p => do
      let w ← xRead State.who
      interlock w false p.toNat 8 true
      xWriteBytes false p.toNat (natBytes pos 8)

/-- A vector store (09 R202), all of whose writes carry one tag (19 R402). -/
def xVstore (ok : Bool) (k : Walkway) (before : X Unit) (prog : Option Word) (rc : Option Nat) (d a : BitVec 7) (m : Bool) : X Unit :=
  fun s => oneTag s.die (xVstoreRun ok k before prog rc d a m) s

/-- VST (09 R201). -/
def execVst (d a : BitVec 7) (m : Bool) (s : State) : Host.Outcome State Fault Refusal := hartOnly s (runX (xVstore true .unit (pure ()) none none d a m))
/-- VSTU (09 R204): its elements are unordered, which one step does not show. -/
def execVstu (d a : BitVec 7) (m : Bool) (s : State) : Host.Outcome State Fault Refusal := hartOnly s (runX (xVstore true .unit (pure ()) none none d a m))
/-- VSTS (09 R201): row pitch. -/
def execVsts (d a b : BitVec 7) (m : Bool) (s : State) : Host.Outcome State Fault Refusal :=
  hartOnly s (fun s => runX (xVstore (isS b) (.rows (s.sreg b.toNat)) (pure ()) none none d a m) s)
/-- VSTX (09 R201): index register. -/
def execVstx (d a b : BitVec 7) (m : Bool) (s : State) : Host.Outcome State Fault Refusal :=
  hartOnly s (fun s => runX (xVstore (isV s.hart b) (.index (vnum b)) (pure ()) none none d a m) s)

/-- The check of a progress word (09 R206): as an 8-byte store, every failure with tval P. -/
def progressCheck (p : Word) : X Unit := do
  let bad ← xRead (fun s => elemCheck s p.toNat 8 true)
  match bad with
  | some (c, _) => xTrap c p
  | none => pure ()

/-- VSTN (09 R206). -/
def execVstn (d a b : BitVec 7) (m : Bool) (s : State) : Host.Outcome State Fault Refusal :=
  hartOnly s (fun s => runX (xVstore (isS b) .unit (progressCheck (s.sreg b.toNat)) (some (s.sreg b.toNat)) none d a m) s)

/-- VSTRC (09 R207): a reader count from 1 to 255. -/
def execVstrc (d a b : BitVec 7) (m : Bool) (s : State) : Host.Outcome State Fault Refusal :=
  hartOnly s (fun s =>
    let c := (s.sreg b.toNat).toNat
    runX (xVstore (isS b && decide (1 ≤ c ∧ c ≤ 255)) .unit (pure ()) none (some c) d a m) s)

/-- A check of a whole frame (09 R210): lowest failing byte, and no MT = 1 page (R197). -/
def xFrameCheck (f n : Nat) (wr : Bool) : X Unit := do
  xCheck f n (!wr) wr false
  let bad ← xRead (fun s => match nodeOf s s.hart.node with
    | none => none
    | some nd => (upFrom (f / 65536) ((f + n - 1) / 65536 + 1 - f / 65536)).find? (fun p => decide (leafMT (leafAt nd (p * 65536)) = 1)))
  match bad with
  | some p => xTrap .permission (BitVec.ofNat 64 (max f (p * 65536)))
  | none => pure ()

/-- The bytes of a spill frame (09 Table 9.3). -/
def spillFrame (v : Vec) (reg : Nat) : List Byte :=
  let n := spillBytes v.vl.toNat v.ew
  natBytes 0x4C495053 4 ++ natBytes 0x0100 2 ++ natBytes v.fmt 1 ++ natBytes reg 1 ++ natBytes v.vl.toNat 4 ++ natBytes n 4 ++ natBytes v.vshape.toNat 8
    ++ natBytes 0 40 ++ Store.read zeroOf v.vrf (reg * 98304) n ++ natBytes 0 (roundUp n 64 - n)

/-- VSPILL (09 R210, R211). -/
def execVspill (d a : BitVec 7) (s : State) : Host.Outcome State Fault Refusal :=
  hartOnly s (runX (do
    let h ← xRead (fun s => s.hart)
    xOperands (isV h d && isS a && !h.vec.isBound (vnum d))
    let f ← xS a.toNat
    xNeed (decide (f.toNat % 64 = 0)) .misaligned f
    let bs := spillFrame h.vec (vnum d)
    xFrameCheck f.toNat bs.length true
    fun s => oneTag s.die (xWriteRuns none [(f.toNat, bs)]) s
    xMod (fun s => (s.setVstart 0).retire)))

/-- What VFILL leaves in the elements of the saved format at and above the saved vl: their previous value or zero (09 R212); each is a free choice
(log 12). Only elements that the register still holds are concerned. -/
def fillTail (v : Vec) (reg w vl n free : Nat) : Store 8 :=
  (upFrom vl (n - vl)).foldl (fun m e => if Config.freeBit (free + e) then setEl m reg w e 0 else m) v.vrf

/-- VFILL (09 R212). The frame that is checked first is its header; its data follow once the header is good. -/
def execVfill (d a : BitVec 7) (s : State) : Host.Outcome State Fault Refusal :=
  hartOnly s (runX (do
    let no ← xLoadNo 1
    let h ← xRead (fun s => s.hart)
    xOperands (isV h d && isS a && !h.vec.isBound (vnum d))
    let f ← xS a.toNat
    xNeed (decide (f.toNat % 64 = 0)) .misaligned f
    xFrameCheck f.toNat 64 false
    let w ← xRead State.who
    interlock w false f.toNat 64 false
    xLoadEvent no f.toNat
    let r ← xOnce w (xFillRead h f)
    let hd := r.1
    let bs := r.2
    let fmt := fieldAt hd 6 1
    let vl := fieldAt hd 8 4
    let n := fieldAt hd 12 4
    xMod (fun s =>
      let reg := vnum d
      let tail := fillTail s.hart.vec reg (fmtEW fmt) vl (h.vlmax * 8 / fmtEW fmt) s.free
      let vrf := Store.write zeroOf tail (reg * 98304) (if fmtEW fmt = 4 ∧ vl % 2 = 1 then
        bs.take (n - 1) ++ [mixNibble (Store.get zeroOf tail (reg * 98304 + n - 1)) ((bs.drop (n - 1)).headD 0)] else bs)
      (((bumpFree { s with free := s.free + h.vlmax * 2 }).modVec (fun v => { v with vrf := vrf })).setVstart 0).loadDone.retire)))
where
  /-- The header and the data of a frame, one load (11 R248). -/
  xFillRead (h : Hart) (f : Word) : X (List Byte × List Byte) := do
    let hd ← xReadBytes f.toNat 64
    let n := fieldAt hd 12 4
    let w4 := fmtEW (fieldAt hd 6 1)
    xNeed (decide (fieldAt hd 0 4 = 0x4C495053 ∧ fieldAt hd 4 2 = 0x0100 ∧ w4 ≠ 0 ∧ n = spillBytes (fieldAt hd 8 4) w4 ∧ n ≤ h.vlmax)) .illegalOperand f
    if n = 0 then pure () else xFrameCheck (f.toNat + 64) (roundUp n 64) false
    let w ← xRead State.who
    interlock w false (f.toNat + 64) n false
    let bs ← xReadBytes (f.toNat + 64) n
    pure (hd, bs)
  /-- The last byte of an odd number of packed elements: its upper element keeps what the tail rule left. -/
  mixNibble (old new : Byte) : Byte := BitVec.ofNat 8 (old.toNat / 16 * 16 + new.toNat % 16)

/-- KLD (09 R213). -/
def execKld (n : BitVec 10) (a : BitVec 6) (c j : BitVec 4) (s : State) : Host.Outcome State Fault Refusal :=
  hartOnly s (runX (do
    let no ← xLoadNo 1
    let cnt := c.toNat + 1
    xOperands (decide (n.toNat + cnt ≤ 1024))
    let base ← xS a.toNat
    let addr := base + BitVec.ofNat 64 (4 * j.toNat)
    xNeed (decide (addr.toNat % 4 = 0)) .misaligned addr
    xFrameCheck addr.toNat (4 * cnt) false
    let w ← xRead State.who
    interlock w false addr.toNat (4 * cnt) false
    xLoadEvent no addr.toNat
    let bs ← xReadBytes addr.toNat (4 * cnt)
    let vals : List (BitVec 32) := (List.range cnt).map (fun i => BitVec.ofNat 32 (fieldAt bs (4 * i) 4 % 2 ^ 24))
    xMod (fun s => (s.modVec (fun v => { v with scale := Store.write zeroOf v.scale n.toNat vals })).loadDone.retire)))

end Sys2Proof.Machine
end

