-- ==== Sys2Proof/Machine/Dist.lean ====
section
/-! DEFINITION. Sys2Proof/Machine/Dist.lean: distribution registers (14): pairing, condensation, arithmetic, moments and quantiles, loads and stores. -/
namespace Sys2Proof.Machine

/-- The eight points of an element: (value, weight). -/
abbrev Points := List (Nat × Nat)

def Dist.points (x : Dist) (d e : Nat) : Points :=
  (List.range 8).map (fun p => ((Store.get zeroOf x.values (distKey d e + p)).toNat, (Store.get distW0 x.weights (distKey d e + p)).toNat))

def Dist.put (x : Dist) (d e : Nat) (ps : Points) : Dist :=
  { x with values := Store.write zeroOf x.values (distKey d e) (ps.map (fun p => BitVec.ofNat 32 p.1)),
           weights := Store.write distW0 x.weights (distKey d e) (ps.map (fun p => BitVec.ofNat 32 p.2)) }

def Dist.tag (x : Dist) (d : Nat) : BitVec 16 := Store.get zeroOf x.tags d
def Dist.setTag (x : Dist) (d : Nat) (t : BitVec 16) : Dist := { x with tags := Store.set zeroOf x.tags d t }

/-- Total mass. -/
def massOf (ps : Points) : Nat := (ps.map Prod.snd).foldl (· + ·) 0

/-- The NaN distribution (14 R326). -/
def nanPoints : Points := List.replicate 8 (0x7FC00000, 2 ^ 21)

/-- An element whose weights do not total 2^24 becomes the NaN distribution with NV (14 R326, R328). -/
def validPoints (ps : Points) : Points × Nat := if massOf ps = 2 ^ 24 then (ps, 0) else (nanPoints, flNV)

/-- Key order of 14 R314. -/
def keyLt (a b : FVal) : Bool :=
  match a, b with
  | .nan, _ => false
  | _, .nan => true
  | x, y => fLt x y

/-- Insert behind the entries whose key is not above, and a stable sort by key. -/
def keyInsert {α : Type} (f : α → FVal) (x : α) (l : List α) : List α :=
  match l with
  | [] => [x]
  | y :: r => if keyLt (f x) (f y) then x :: y :: r else y :: keyInsert f x r

def keySort {α : Type} (f : α → FVal) (l : List α) : List α := l.foldl (fun acc x => keyInsert f x acc) []

/-- Op of 14 R315: an exact value; NV where its NaN is invalid. -/
def pairOp (fn : Nat) (x y : FVal) : Exact :=
  match x, y with
  | .nan, _ => ⟨.nan, false⟩
  | _, .nan => ⟨.nan, false⟩
  | a, b =>
    if fn = 0 then exAdd ⟨a, false⟩ ⟨b, false⟩
    else if fn = 1 then exAdd ⟨a, false⟩ ⟨b.neg, false⟩
    else if fn = 2 then exMul a b
    else if fn = 3 then ⟨if fBelow a b then b else a, false⟩
    else ⟨if fBelow a b then a else b, false⟩

/-- Pairs before condensation: value, whether its NaN is invalid, mass. -/
abbrev Pairs := List (Exact × Nat)

/-- Give one unit more to the `left` pairs with the largest remainder, lower index first (14 R313). -/
def spread (l : List (Exact × Nat × Nat)) : Pairs :=
  let left := 2 ^ 24 - (l.map (fun p => p.2.1)).foldl (· + ·) 0
  let idx := (List.range l.length).zip l
  let rank : Nat × Exact × Nat × Nat → Nat := fun p => (idx.filter (fun q => decide (p.2.2.2 < q.2.2.2) || (q.2.2.2 == p.2.2.2 && decide (q.1 < p.1)))).length
  idx.map (fun p => (p.2.1, p.2.2.1 + if rank p < left then 1 else 0))

/-- Independent pairing (14 R313). -/
def pairIndep (fn : Nat) (a b : Points) : Pairs :=
  spread (a.flatMap (fun x => b.map (fun y =>
    let P := x.2 * y.2
    (pairOp fn (f32F.val x.1) (f32F.val y.1), P / 2 ^ 24, P % 2 ^ 24))))

/-- Points in key order with the mass up to and including each. -/
def rankedPoints (a : Points) : List (FVal × Nat) :=
  ((keySort (fun p => p.1) (a.map (fun p => (f32F.val p.1, p.2)))).foldl
    (fun (acc : List (FVal × Nat) × Nat) p => (acc.1 ++ [(p.1, acc.2 + p.2)], acc.2 + p.2)) ([], 0)).1

/-- Insert into a strictly rising list. -/
def natInsert (x : Nat) (l : List Nat) : List Nat :=
  match l with
  | [] => [x]
  | y :: r => if x < y then x :: y :: r else if x = y then y :: r else y :: natInsert x r

/-- Rank pairing (14 R314). -/
def pairRank (fn : Nat) (a b : Points) : Pairs :=
  let ra := rankedPoints a
  let rb := rankedPoints b
  let bk := ((ra.map Prod.snd ++ rb.map Prod.snd).filter (fun c => c != 0)).foldl (fun acc c => natInsert c acc) []
  let at_ : List (FVal × Nat) → Nat → FVal := fun l lo => ((l.find? (fun p => decide (lo < p.2))).map Prod.fst).getD .nan
  (bk.foldl (fun (acc : Pairs × Nat) hi => (acc.1 ++ [(pairOp fn (at_ ra acc.2) (at_ rb acc.2), hi - acc.2)], hi)) ([], 0)).1

/-- The value is -0.0. -/
def isNegZero (v : FVal) : Bool :=
  match v with
  | .fin s x => s && decide (x.1 = 0)
  | _ => false

/-- Exact weighted sum of the finite values. -/
def weighted (l : List (FVal × Nat)) : Frac :=
  l.foldl (fun acc p => match p.1 with
    | .fin _ x => fracSum acc (x.1 * (p.2 : Nat), x.2)
    | _ => acc) (0, 1)

/-- Round an exact mean, with the rules for NaN and the infinities of 14 R316 and R322. `sat` is the saturate enable where 07 R151 applies it. -/
def meanOf (sat : Bool) (l : List (FVal × Nat)) (total : Nat) : Res :=
  let has : FVal → Bool := fun v => l.any (fun p => p.1 == v)
  if has .nan then nanRes f32F
  else if has (.inf false) && has (.inf true) then nvRes f32F
  else if has (.inf false) then Res.pure (f32F.infinity false)
  else if has (.inf true) then Res.pure (f32F.infinity true)
  else
    let x := weighted l
    roundF f32F 0 sat (l.all (fun p => isNegZero p.1)) (x.1, x.2 * total)

/-- Condensation (14 R316): eight values and the flags. An overflow gives an infinity, whatever vtype holds. -/
def condense (ps : Pairs) : Points × Nat :=
  let live := ps.filter (fun p => decide (p.2 ≠ 0))
  let nv := live.any (fun p => p.1.nv)
  let l := keySort (fun p => p.1) (live.map (fun p => (p.1.v, p.2)))
  let spans := (l.foldl (fun (acc : List (FVal × Nat × Nat) × Nat) p => (acc.1 ++ [(p.1, acc.2, acc.2 + p.2)], acc.2 + p.2)) ([], 0)).1
  let rs := (List.range 8).map (fun b =>
    let lo := b * 2 ^ 21
    let hi := (b + 1) * 2 ^ 21
    meanOf false ((spans.filter (fun q => decide (q.2.1 < hi ∧ lo < q.2.2))).map (fun q => (q.1, min q.2.2 hi - max q.2.1 lo))) (2 ^ 21))
  (rs.map (fun r => (r.val, 2 ^ 21)), rs.foldl (fun acc r => acc ||| r.fl) (if nv then flNV else 0))

/-- Active elements of a distribution instruction (14 R309). -/
def distActive (v : Vec) : List Nat := v.active false []

/-- Write new elements and flags, then the tag, and vstart := 0 (14 R309). -/
def distEnd (s : State) (d : Nat) (tag : BitVec 16) (l : List (Nat × Points × Nat)) : State :=
  let s1 := s.modDist (fun x => (l.foldl (fun acc p => acc.put d p.1 p.2.1) x).setTag d tag)
  s1.modVec (fun v => { v with fflags := v.fflags ||| BitVec.ofNat 6 (l.foldl (fun acc p => acc ||| p.2.2) 0), vstart := 0 })

/-- The checks every distribution instruction that covers elements shares (14 R308). -/
def xDistOk (ok : Bool) : X Unit := do
  let h ← xRead (fun s => s.hart)
  xOperands (ok && decide (h.vec.vl.toNat ≤ h.dlmax))

/-- A vector operand of a distribution instruction: FMT f32, the register not bound (14 R308). -/
def distV (h : Hart) (f : BitVec 7) : Bool := isV h f && !h.vec.isBound (vnum f) && decide (h.vec.fmt = 0)

/-- DADD to DMIN (14 R312, R318). -/
def xPair (fn : Nat) (d a b : BitVec 7) : X Unit := do
  xDistOk (isX d && isX a && isX b)
  let h ← xRead (fun s => s.hart)
  let x := h.dist
  let f := if x.tag a.toNat &&& x.tag b.toNat = 0 then pairIndep fn else pairRank fn
  xChecked [distActive h.vec]
  xMod (fun s => (distEnd s d.toNat (x.tag a.toNat ||| x.tag b.toNat)
    ((distActive h.vec).map (fun e => (e, condense (f (x.points a.toNat e) (x.points b.toNat e)))))).retire)

/-- DADD (14 R315). -/
def execDadd (d a b : BitVec 7) (s : State) : Host.Outcome State Fault Refusal := hartOnly s (runX (xPair 0 d a b))
/-- DSUB (14 R315). -/
def execDsub (d a b : BitVec 7) (s : State) : Host.Outcome State Fault Refusal := hartOnly s (runX (xPair 1 d a b))
/-- DMUL (14 R315). -/
def execDmul (d a b : BitVec 7) (s : State) : Host.Outcome State Fault Refusal := hartOnly s (runX (xPair 2 d a b))
/-- DMAX (14 R315). -/
def execDmax (d a b : BitVec 7) (s : State) : Host.Outcome State Fault Refusal := hartOnly s (runX (xPair 3 d a b))
/-- DMIN (14 R315). -/
def execDmin (d a b : BitVec 7) (s : State) : Host.Outcome State Fault Refusal := hartOnly s (runX (xPair 4 d a b))

/-- The sixteen pairs of DMIX (14 R319). -/
def mixPairs (alpha : Nat) (a d : Points) : Pairs :=
  let side : Nat → Points → List (Exact × Nat × Nat) := fun k l => l.map (fun p =>
    ((⟨f32F.val p.1, false⟩ : Exact), k * p.2 / 2 ^ 24, k * p.2 % 2 ^ 24))
  spread (side alpha a ++ side (2 ^ 24 - alpha) d)

/-- DMIX (14 R319). -/
def xDmix (d a b : BitVec 7) : X Unit := do
  xDistOk (isX d && isX a && isS b)
  let k ← xS b.toNat
  xOperands (decide (k.toNat ≤ 2 ^ 24))
  let h ← xRead (fun s => s.hart)
  let x := h.dist
  xChecked [distActive h.vec]
  xMod (fun s => (distEnd s d.toNat (x.tag a.toNat ||| x.tag d.toNat)
    ((distActive h.vec).map (fun e => (e, condense (mixPairs k.toNat (x.points a.toNat e) (x.points d.toNat e)))))).retire)

def execDmix (d a b : BitVec 7) (s : State) : Host.Outcome State Fault Refusal := hartOnly s (runX (xDmix d a b))

/-- The affine map of a point (14 R320; saturate enable 07 R151): only points with mass set flags. -/
def affPoints (sat : Bool) (a b : Nat) (ps : Points) : Points × Nat :=
  let rs := ps.map (fun p => (fFma f32F 0 sat (f32F.val a) (f32F.val p.1) (f32F.val b), p.2))
  (rs.map (fun r => (r.1.val, r.2)), rs.foldl (fun acc r => acc ||| if r.2 = 0 then 0 else r.1.fl) 0)

/-- DAFF (14 R320). -/
def xDaff (d a b : BitVec 7) : X Unit := do
  xDistOk (isX d && isX a && isS b)
  let k ← xS b.toNat
  let h ← xRead (fun s => s.hart)
  xChecked [distActive h.vec]
  xMod (fun s => (distEnd s d.toNat (h.dist.tag a.toNat)
    ((distActive h.vec).map (fun e => (e, affPoints h.vec.sat (nbits k.toNat 0 32) (nbits k.toNat 32 32) (h.dist.points a.toNat e))))).retire)

def execDaff (d a b : BitVec 7) (s : State) : Host.Outcome State Fault Refusal := hartOnly s (runX (xDaff d a b))

/-- Points with mass, as values. -/
def massPoints (ps : Points) : List (FVal × Nat) := (ps.filter (fun p => decide (p.2 ≠ 0))).map (fun p => (f32F.val p.1, p.2))

/-- The moment of DMOM (14 R322; saturate enable 07 R151). -/
def momentOf (sat : Bool) (k : Nat) (ps : Points) : Res :=
  let l := massPoints ps
  if k = 1 then meanOf sat l (2 ^ 24)
  else if l.any (fun p => p.1 == .nan) then nanRes f32F
  else if l.any (fun p => p.1 == .inf true || p.1 == .inf false) then nvRes f32F
  else
    let s := weighted l
    let mu : Frac := (s.1, s.2 * 2 ^ 24)
    let y := weighted (l.map (fun p => match p.1 with
      | .fin g x => (let z := fracSum x (fracNeg mu); (FVal.fin g (z.1 ^ k, z.2 ^ k), p.2))
      | v => (v, p.2)))
    roundF f32F 0 sat false (y.1, y.2 * 2 ^ 24)

/-- The quantile of DQNT (14 R323). -/
def quantOf (q : Nat) (ps : Points) : Nat :=
  let T := q * 2 ^ 8
  let l := keySort (fun p => f32F.val p.1) (ps.filter (fun p => decide (p.2 ≠ 0)))
  let run := (l.foldl (fun (acc : List (Nat × Nat) × Nat) p => (acc.1 ++ [(p.1, acc.2 + p.2)], acc.2 + p.2)) ([], 0)).1
  let x := ((run.find? (fun p => decide (T ≤ p.2))).map Prod.fst).getD 0
  if f32F.val x = .nan then 0x7FC00000 else x

/-- The mass at or below a threshold (14 R324). -/
def cdfOf (t : Nat) (ps : Points) : Nat :=
  match f32F.val t with
  | .nan => 0
  | y => ((massPoints ps).filter (fun p => p.1 != .nan && (fLt p.1 y || fEq p.1 y))).foldl (fun acc p => acc + p.2) 0

/-- DMOM, DQNT and DCDF: one 32-bit element for each active distribution (14 R321). -/
def xDistRead (ok : Bool) (d a : BitVec 7) (f : Points → Res) : X Unit := do
  let h ← xRead (fun s => s.hart)
  xDistOk (ok && distV h d && isX a)
  xChecked [distActive h.vec]
  let rs := (distActive h.vec).map (fun e => (e, f (h.dist.points a.toNat e)))
  xMod (fun s => ((s.putVrf (vnum d) 32 (rs.map (fun p => (p.1, p.2.val)))).modVec
    (fun v => { v with fflags := v.fflags ||| BitVec.ofNat 6 (rs.foldl (fun acc p => acc ||| p.2.fl) 0), vstart := 0 })).retire)

/-- DMOM (14 R322). -/
def execDmom (d a : BitVec 7) (k : BitVec 3) (s : State) : Host.Outcome State Fault Refusal :=
  hartOnly s (fun s => runX (xDistRead (decide (1 ≤ k.toNat ∧ k.toNat ≤ 4)) d a (momentOf s.hart.vec.sat k.toNat)) s)

/-- DQNT (14 R323). -/
def execDqnt (d a b : BitVec 7) (s : State) : Host.Outcome State Fault Refusal :=
  hartOnly s (fun s =>
    let q := (s.sreg b.toNat).toNat
    runX (xDistRead (isS b && decide (q < 2 ^ 16)) d a (fun ps => Res.pure (quantOf q ps))) s)

/-- DCDF (14 R324). -/
def execDcdf (d a b : BitVec 7) (s : State) : Host.Outcome State Fault Refusal :=
  hartOnly s (fun s =>
    let t := (s.sreg b.toNat).toNat
    runX (xDistRead (isS b && decide (t < 2 ^ 32)) d a (fun ps => Res.pure (cdfOf t ps))) s)

/-- Tag codes (14 R325). -/
def tagCode (c : Nat) : BitVec 16 := if c = 0 then 0 else BitVec.ofNat 16 (2 ^ (c - 1))

/-- A stream that a distribution access may use (14 R326; 09 R190). -/
def distStream (v : Vec) (f : BitVec 7) : Bool := streamOk v f && decide (v.ew ≠ 4)

/-- Address of element e: the first line of 09 R193. -/
def distAddr (q : Stream) (e : Nat) : Nat := wrapI 64 (q.origin + e * q.step)

/-- The points of 64 loaded bytes (14 Table 14.1). -/
def pointsOf (x : Nat) : Points := (List.range 8).map (fun p => (nbits x (64 * p) 32, nbits x (64 * p + 32) 32))
def pointsNat (ps : Points) : Nat := ps.foldr (fun p acc => p.1 + p.2 * 2 ^ 32 + acc * 2 ^ 64) 0

/-- Loaded elements written with the tag (14 R326). That a DLD that traps at an element sets the NV of invalid elements below it, which it has written, is
the model's choice (log 67). -/
def dldEnd (d : Nat) (tag : BitVec 16) (l : List (Nat × Nat)) (s : State) : State :=
  distEnd s d tag (l.map (fun p => (p.1, validPoints (pointsOf p.2))))

/-- DLD (14 R326). -/
def xDld (d a : BitVec 7) (c : BitVec 5) : X Unit := do
  let no ← xLoadNo 1
  let h ← xRead (fun s => s.hart)
  xDistOk (isX d && distStream h.vec a && decide (c.toNat ≤ 16))
  let q := h.vec.stream a.toNat
  let r ← xLoadVec no (distAddr q) 64 (fun _ bs => bytesNat bs) (h.vec.active false [q])
  let end_ := dldEnd d.toNat (tagCode c.toNat) r.1
  match r.2 with
  | some (e, cause, tv) => xTrapAt end_ e cause tv
  | none => xMod (fun s => (advanceStream (end_ s) a.toNat).loadDone.retire)

def execDld (d a : BitVec 7) (c : BitVec 5) (s : State) : Host.Outcome State Fault Refusal := hartOnly s (runX (xDld d a c))

/-- DST (14 R326; 09 R202). -/
def xDstRun (d a : BitVec 7) : X Unit := do
  let h ← xRead (fun s => s.hart)
  xDistOk (isX d && distStream h.vec a)
  let q := h.vec.stream a.toNat
  let sp ← xRead (fun s => firstFail (fun e => elemCheck s (distAddr q e) 64 true) (h.vec.active false [q]))
  let runs := storeRuns (decide (h.det ≠ 0)) (sp.1.map (fun e => (distAddr q e, natBytes (pointsNat (h.dist.points d.toNat e)) 64)))
  xWriteRuns none runs
  match sp.2 with
  | some (e, c, tv) => xTrapAt id e c tv
  | none => xMod (fun s => ((advanceStream s a.toNat).setVstart 0).retire)

/-- Its writes carry one tag (19 R402). -/
def xDst (d a : BitVec 7) : X Unit := fun s => oneTag s.die (xDstRun d a) s

def execDst (d a : BitVec 7) (s : State) : Host.Outcome State Fault Refusal := hartOnly s (runX (xDst d a))

/-- DFROMV (14 R327). -/
def xDfromv (d a : BitVec 7) (c : BitVec 5) : X Unit := do
  let h ← xRead (fun s => s.hart)
  xDistOk (isX d && distV h a && decide (c.toNat ≤ 16))
  xMod (fun s => (distEnd s d.toNat (tagCode c.toNat) ((distActive h.vec).map (fun e =>
    let x := getEl h.vec.vrf (vnum a) 32 e
    (e, List.replicate 8 (if f32F.val x = .nan then 0x7FC00000 else x, 2 ^ 21), 0)))).retire)

def execDfromv (d a : BitVec 7) (c : BitVec 5) (s : State) : Host.Outcome State Fault Refusal := hartOnly s (runX (xDfromv d a c))

/-- DBUILD (14 R328). -/
def xDbuild (d a b : BitVec 7) : X Unit := do
  let h ← xRead (fun s => s.hart)
  xDistOk (isX d && distV h a && distV h b && decide (8 * h.vec.vl.toNat ≤ h.vlmaxe))
  xMod (fun s => (distEnd s d.toNat 0 ((distActive h.vec).map (fun e =>
    (e, validPoints ((List.range 8).map (fun p => (getEl h.vec.vrf (vnum a) 32 (8 * e + p), getEl h.vec.vrf (vnum b) 32 (8 * e + p)))))))).retire)

def execDbuild (d a b : BitVec 7) (s : State) : Host.Outcome State Fault Refusal := hartOnly s (runX (xDbuild d a b))

/-- Every element of a register copied to another. -/
def Dist.copy (x : Dist) (d a : Nat) : Dist :=
  { x with values := Store.write zeroOf x.values (distKey d 0) (Store.read zeroOf x.values (distKey a 0) 2048),
           weights := Store.write distW0 x.weights (distKey d 0) (Store.read distW0 x.weights (distKey a 0) 2048) }

/-- DTAG (14 R329). -/
def xDtag (d a b : BitVec 7) : X Unit := do
  xOperands (isX d && isX a && isS b)
  let t ← xS b.toNat
  xOperands (decide (t.toNat < 2 ^ 16))
  xMod (fun s => ((s.modDist (fun x => (x.copy d.toNat a.toNat).setTag d.toNat (BitVec.ofNat 16 t.toNat))).setVstart 0).retire)

def execDtag (d a b : BitVec 7) (s : State) : Host.Outcome State Fault Refusal := hartOnly s (runX (xDtag d a b))

end Sys2Proof.Machine
end

