-- ==== Sys2Proof/Machine/Ozsis.lean ====
section
/-! DEFINITION. Sys2Proof/Machine/Ozsis.lean: the cryptographic commands of Ozsis (22 R444, Table 22.6). On a hart their words are reserved and raise
ILLEGAL_INSTR; the sequencer drops them. -/
namespace Sys2Proof.Machine

/-- A word of major 0x17 with fn 8 to 13: only Ozsis executes it (22 R444; 06 R140; 05 R111). -/
def ozOnly (s : State) (d : BitVec 7) (fn : Nat) (m : State → Host.Outcome State Fault Refusal) : Host.Outcome State Fault Refusal :=
  match s.agent with
  | .hart => illegalWord s (wordFS 0x17 d.toNat 0 fn)
  | .advice => .next (dropWord s)
  | .ozsis => if isS d then m s else .fault .ozsisWord

/-- The words of the command block at S[rd]: none when the block is unaligned or leaves private memory. -/
def ozBlock (s : State) (d : BitVec 7) (n : Nat) : Option (List Nat) :=
  let a := (s.sreg d.toNat).toNat
  if a % 8 = 0 ∧ ozInside a (8 * n) = true then some ((List.range n).map (fun i => bytesNat (ozRead s (a + 8 * i) 8))) else none

/-- Status to S[rd], and the command retires. -/
def ozStatus (s : State) (d : BitVec 7) (v : Nat) : Host.Outcome State Fault Refusal := .next (s.setSreg d.toNat (BitVec.ofNat 64 v)).retire

/-- Seed of OZKDF: SHA3-256 of the device secret followed by the context. -/
def ozSeed (s : State) (ctx : List Byte) : BitVec 256 := digestOf (natBytes s.oz.secret.toNat 32 ++ ctx)

/-- A slot holds a key: slot 1 the attestation key, derived at start with a context fixed in ROM (Table 22.6 OZKDF). -/
def ozFull (s : State) (k : Nat) : Bool := decide (k = 1 ∨ Store.get zeroOf s.oz.full k = 1)

/-- The seed of a slot's key pair. -/
def ozKey (s : State) (k : Nat) : BitVec 256 := if k = 1 then ozSeed s Config.attestContext else Store.get zeroOf s.oz.keys k

/-- Put a seed into a slot, and empty a slot. -/
def Ozsis.setKey (o : Ozsis) (k : Nat) (seed : BitVec 256) : Ozsis := { o with keys := Store.set zeroOf o.keys k seed, full := Store.set zeroOf o.full k 1 }
def Ozsis.wipeKey (o : Ozsis) (k : Nat) : Ozsis := { o with keys := Store.set zeroOf o.keys k 0, full := Store.set zeroOf o.full k 0 }

/-- Verify with the key of a number: 0 the fused debug key; an empty slot verifies nothing. -/
def ozVerify (s : State) (k : Nat) (msg sig : List Byte) : Bool :=
  if k = 0 then Config.mldsaVerify Config.debugKey msg sig
  else ozFull s k && Config.mldsaVerify (ozKey s k) msg sig

/-- A signature of 2,420 bytes. -/
def ozSignature (seed : BitVec 256) (msg : List Byte) : List Byte :=
  (Config.mldsaSign seed msg).take 2420 ++ List.replicate (2420 - ((Config.mldsaSign seed msg).take 2420).length) 0

/-- OZHASH (22 Table 22.6). -/
def execOzhash (d : BitVec 7) (s : State) : Host.Outcome State Fault Refusal :=
  ozOnly s d 8 (fun s => match ozBlock s d 3 with
    | some [src, len, dst] =>
      if ozInside src len && ozInside dst 32 then ozStatus (ozWrite s dst (sha3 (ozRead s src len))) d 0 else ozStatus s d 1
    | _ => ozStatus s d 1)

/-- OZVRFY (22 Table 22.6). -/
def execOzvrfy (d : BitVec 7) (s : State) : Host.Outcome State Fault Refusal :=
  ozOnly s d 9 (fun s => match ozBlock s d 4 with
    | some [msg, len, sig, key] =>
      if ozInside msg len && ozInside sig 2420 && decide (key ≤ 15) then
        ozStatus s d (if ozVerify s key (ozRead s msg len) (ozRead s sig 2420) then 0 else 2)
      else ozStatus s d 1
    | _ => ozStatus s d 1)

/-- OZSIGN (22 Table 22.6). -/
def execOzsign (d : BitVec 7) (s : State) : Host.Outcome State Fault Refusal :=
  ozOnly s d 10 (fun s => match ozBlock s d 4 with
    | some [msg, len, sig, slot] =>
      if ozInside msg len && ozInside sig 2420 && decide (1 ≤ slot ∧ slot ≤ 15) then
        (if ozFull s slot then ozStatus (ozWrite s sig (ozSignature (ozKey s slot) (ozRead s msg len))) d 0 else ozStatus s d 3)
      else ozStatus s d 1
    | _ => ozStatus s d 1)

/-- OZKDF (22 Table 22.6). -/
def execOzkdf (d : BitVec 7) (s : State) : Host.Outcome State Fault Refusal :=
  ozOnly s d 11 (fun s => match ozBlock s d 3 with
    | some [ctx, len, slot] =>
      if ozInside ctx len && decide (1 ≤ slot ∧ slot ≤ 15) then
        (if slot = 1 then ozStatus s d 4 else ozStatus { s with oz := s.oz.setKey slot (ozSeed s (ozRead s ctx len)) } d 0)
      else ozStatus s d 1
    | _ => ozStatus s d 1)

/-- OZRAND (22 Table 22.6): every byte is a free value (log 13). -/
def execOzrand (d : BitVec 7) (s : State) : Host.Outcome State Fault Refusal :=
  ozOnly s d 12 (fun s => match ozBlock s d 2 with
    | some [dst, len] =>
      if ozInside dst len then
        let bs : List Byte := (List.range len).map (fun i => BitVec.ofNat 8 (Config.freeWord (s.free + i)).toNat)
        ozStatus (ozWrite { s with free := s.free + len } dst bs) d 0
      else ozStatus s d 1
    | _ => ozStatus s d 1)

/-- OZWIPE (22 Table 22.6). -/
def execOzwipe (d : BitVec 7) (s : State) : Host.Outcome State Fault Refusal :=
  ozOnly s d 13 (fun s => match ozBlock s d 1 with
    | some [mask] =>
      if mask ≥ 2 ^ 16 then ozStatus s d 1
      else if mask % 4 ≠ 0 then ozStatus s d 4
      else ozStatus { s with oz := ((upFrom 2 14).filter (fun k => nbit mask k)).foldl Ozsis.wipeKey s.oz } d 0
    | _ => ozStatus s d 1)

end Sys2Proof.Machine
end

