-- ==== Sys2Proof/Machine/Seal.lean ====
section
/-! DEFINITION. Sys2Proof/Machine/Seal.lean: the seal protocol of a domain (19 R409 to R413) and the frames that carry it (20 R424). -/
namespace Sys2Proof.Machine

/-- This chip's number, the members of the seal domain that are not lost (this chip is always one), the coordinator (19 R401, R409, R422). -/
def selfChip (s : State) : Nat := (mgmtGet s 0x90018).toNat % 64
def members (s : State) : BitVec 64 := (mgmtGet s 0x90010 &&& ~~~s.lost) ||| BitVec.ofNat 64 (2 ^ selfChip s)
def memberList (s : State) : List Nat := (List.range 64).filter (fun c => (members s).getLsbD c)
def coordinator (s : State) : Nat := (memberList s).headD (selfChip s)
def isCoordinator (s : State) : Bool := decide (coordinator s = selfChip s)

/-- The port toward a chip: trained, and for a seal message or data not across domains (20 R423, R424); none when the chip is unreachable. -/
def routeTo (s : State) (chip : Nat) (cls : Nat) : Option Nat :=
  let p := (mgmtGet s (0xA0100 + 8 * chip)).toNat % 32
  let l := mgmtGet s (0xA0000 + 8 * p)
  if p < 16 ∧ l.getLsbD 0 = true ∧ (cls = 2 ∨ l.getLsbD 1 = false) then some p else none

/-- Send a frame: it is lost when the chip is unreachable. -/
def sendFrame (s : State) (chip cls : Nat) (body : List Byte) : State :=
  match routeTo s chip cls with
  | some p => { s with straitOut := s.straitOut ++ [⟨BitVec.ofNat 4 p, BitVec.ofNat 6 chip, BitVec.ofNat 2 cls, body⟩] }
  | none => s

/-- Seal messages: 1 START, 2 VOTE, 3 SEALED, 4 ROLLBACK, 5 request; the code and the interval (their form is the model's, log 26). -/
def sealFrame (s : State) (chip code : Nat) (n : W32) : State := sendFrame s chip 0 (BitVec.ofNat 8 code :: natBytes n.toNat 4)
def sealFrames (s : State) (code : Nat) (n : W32) : State :=
  ((memberList s).filter (fun c => decide (c ≠ selfChip s))).foldl (fun t c => sealFrame t c code n) s

/-- SEAL_TIMER (19 R409): the open interval is requested; a period of 0 disables the timer. -/
def execSealTimer (s : State) : Host.Outcome State Fault Refusal :=
  .next (if (mgmtGet s 0x90000).toNat % 2 ^ 32 = 0 then s else requestSeal s (rinOf s 0))

/-- SEAL_REQUEST (19 R409, R414): met without a seal when the interval is sealing or sealed; kept behind a seal in progress; passed on to the coordinator. -/
def execSealRequest (n : BitVec 32) (s : State) : Host.Outcome State Fault Refusal :=
  if s.rollingBack = true ∨ rinUpTo n s.sealedRin = true then .next s
  else match s.sealing with
    | some x => if rinUpTo n x.n then .next s else .next { s with sealNext := true }
    | none =>
      let m := if rinBefore (rinOf s 0) n then n else rinOf s 0
      if isCoordinator s = false then .next (sealFrame s (coordinator s) 5 m)
      else if s.pending.contains (.start m) then .next s
      else .next (raiseEvents (sealFrames s 1 m) [.start m])

/-- The scheduler's record (19 R410). -/
def ckptOf (s : State) : Ckpt :=
  let regs := fun (off : Nat) => (List.range 64).foldl (fun acc g => Store.set zeroOf acc g (mgmtGet s (0x10000 + 0x20 * g + off))) ([] : Store 64)
  ⟨s.nodes, s.graphs, regs 0, regs 0x10, s.rot, s.rotUsed, 0x0100⟩

/-- Every die's RIN. -/
def setRin (s : State) (n : W32) : State := { s with rin := (List.range 4).foldl (fun acc d => Store.set (fun _ => 1) acc d n) s.rin }

/-- START (19 Table 19.1 step 2): the record is written, then every die opens the next interval. -/
def execStart (n : BitVec 32) (s : State) : Host.Outcome State Fault Refusal :=
  if s.rollingBack = true ∨ s.sealing.isSome = true ∨ rinUpTo n s.sealedRin = true then .next s
  else .next (raiseEvents { (setRin s (n + 1)) with sealing := some ⟨n, 2, 0, s.clock, ckptOf s⟩ } [.sealDrainDone])

/-- Dirty NC sectors tagged n or earlier go home and are dropped (19 R411). -/
def drainNc (s : State) (n : W32) : State :=
  let old := fun (c : NcCopy) => decide (c.dirty ≠ 0) && rinUpTo c.tag n
  let s1 := (s.nc.filter old).foldl ncWriteBack s
  { s1 with nc := s1.nc.filter (fun c => !old c) }

/-- Dirty sectors of a line that were written after n. -/
def RdcLine.later (n : W32) (r : RdcLine) : BitVec 4 :=
  (List.range 4).foldl (fun acc i => if r.dirty.getLsbD i && !rinUpTo (r.tags.toList.getD i 0) n then acc ||| BitVec.ofNat 4 (2 ^ i) else acc) 0

/-- Dirty coherent RDC sectors tagged n or earlier go home; a line that keeps none is clean (19 R411). The host's cache is none of these. -/
def RdcLine.clean (n : W32) (r : RdcLine) : RdcLine :=
  if r.st == .m && r.agent != 4 then { r with st := if r.later n = 0 then .e else .m, dirty := r.later n } else r

/-- SEAL_DRAIN_DONE (19 Table 19.1 steps 3 and 4, R411): the caches are drained, and the chip votes. -/
def execSealDrainDone (s : State) : Host.Outcome State Fault Refusal :=
  match s.sealing with
  | none => .next s
  | some x =>
    if x.stage ≠ 2 then .next s
    else
      let s1 := drainNc s x.n
      let s2 := { s1 with rdc := s1.rdc.map (RdcLine.clean x.n), sealing := some { x with stage := 4 } }
      if isCoordinator s2 then .next (raiseEvents s2 [.vote (BitVec.ofNat 6 (selfChip s2)) x.n]) else .next (sealFrame s2 (coordinator s2) 2 x.n)

/-- VOTE (19 Table 19.1 steps 4 and 5): with every vote in, the coordinator sends SEALED. -/
def execVote (chip : BitVec 6) (n : BitVec 32) (s : State) : Host.Outcome State Fault Refusal :=
  match s.sealing with
  | none => .next s
  | some x =>
    if x.n ≠ n ∨ isCoordinator s = false ∨ (members s).getLsbD chip.toNat = false then .next s
    else
      let v := x.votes ||| BitVec.ofNat 64 (2 ^ chip.toNat)
      let s1 := { (straitHeard s chip.toNat) with sealing := some { x with votes := v } }
      if members s &&& ~~~v = 0 ∧ (members s &&& ~~~x.votes) ≠ 0 then .next (raiseEvents (sealFrames s1 3 n) [.sealed n]) else .next s1

/-- Nodes that became DONE while n or an earlier interval was open become SEALED (03 R46). -/
def Node.sealAt (n : W32) (nd : Node) : Node := if nd.state == .done && rinUpTo nd.doneRin n then { nd with state := .sealed } else nd

/-- A node whose held entries stay (19 R407): not SEALED, not pinned, not FAILED in a sealed interval. -/
def Node.holds (n : W32) (nd : Node) : Bool :=
  !nd.pinned && (match nd.state with
    | .sealed => false
    | .retired => false
    | .failed => !rinUpTo nd.doneRin n
    | _ => true)

def holdsEntry (s : State) (n : W32) (e : VsEntry) : Bool :=
  match e.writer with
  | none => false
  | some k => match nodeOf s k with
    | none => false
    | some nd => decide (nd.kind = 1) && nd.holds n

/-- No entry of the same node for the sector is older. -/
def oldestEntry (s : State) (e : VsEntry) : Bool :=
  !s.vs.any (fun f => decide (f.sector = e.sector) && f.writer == e.writer && (f.held || (f.undo && rinBefore f.tag e.tag)))

/-- What becomes of an entry when n is sealed (19 R407). -/
def sealEntry (s : State) (n : W32) (e : VsEntry) : VsEntry :=
  if e.undo && rinUpTo e.tag n then { e with undo := false, held := holdsEntry s n e && oldestEntry s e }
  else { e with held := e.held && holdsEntry s n e }

/-- A held entry whose sector an agent other than its node has written in the interval sealed (19 R408). `old` are the entries before the seal. -/
def otherWrote (old : List VsEntry) (n : W32) (h : VsEntry) : Bool :=
  old.any (fun e => decide (e.sector = h.sector) && e.undo && rinUpTo e.tag n && (e.writer != h.writer || e.mixed))

/-- Held entries of a node on a die. -/
def heldOn (s : State) (num die : Nat) : Nat :=
  (s.vs.filter (fun e => e.held && e.writer == some num && decide (homeDie (e.sector * 64) = die))).length

/-- Pin a node (19 R408): its held entries are released, and PIN_CNT of the die counts it. -/
def pinNode (s : State) (num die : Nat) : State :=
  let s1 := updNode s num (fun x => { x with pinned := true })
  let s2 := { s1 with vs := (s1.vs.map (fun e => if e.writer == some num then { e with held := false } else e)).filter VsEntry.live }
  mgmtAdd s2 (0x90128 + 0x40 * die) 1

/-- First case of R408. -/
def pinShared (s : State) (old : List VsEntry) (n : W32) : State :=
  s.nodes.foldl (fun t nd => match t.vs.find? (fun h => h.held && h.writer == some nd.num && otherWrote old n h) with
    | some h => pinNode t nd.num (homeDie (h.sector * 64))
    | none => t) s

/-- Second case of R408. -/
def pinLimit (s : State) : State :=
  s.nodes.foldl (fun t nd => match (List.range 4).find? (fun d => decide ((mgmtGet t (0x90110 + 0x40 * d)).toNat < heldOn t nd.num d)) with
    | some d => pinNode t nd.num d
    | none => t) s

/-- Held entries on a die. -/
def heldDie (s : State) (die : Nat) : Nat := (s.vs.filter (fun e => e.held && decide (homeDie (e.sector * 64) = die))).length

/-- The node with the most held entries on a die. -/
def mostHeld (s : State) (die : Nat) (l : List Node) : Option Node :=
  l.foldl (fun b nd => match b with
    | none => if 0 < heldOn s nd.num die then some nd else none
    | some x => if heldOn s x.num die < heldOn s nd.num die then some nd else some x) none

/-- Third case of R408: nodes in descending order of their held entries, until at most half of VS_CAP is held. -/
def pinFill (s : State) (die fuel : Nat) : State :=
  match fuel with
  | 0 => s
  | f + 1 =>
    if 2 * heldDie s die ≤ (mgmtGet s (0x90108 + 0x40 * die)).toNat then s
    else match mostHeld s die s.nodes with
      | some nd => pinFill (pinNode s nd.num die) die f
      | none => s

/-- The pins of a seal. -/
def pinNodes (s : State) (old : List VsEntry) (n : W32) : State :=
  let s1 := pinLimit (pinShared s old n)
  if s1.fillReq.any (fun m => rinUpTo m n) then
    (List.range 4).foldl (fun t d => pinFill t d (t.nodes.length + 1)) { s1 with fillReq := s1.fillReq.filter (fun m => !rinUpTo m n) }
  else s1

/-- A recorded node is pinned when it has been pinned since its record (19 R408). -/
def Node.pinAs (nodes : List Node) (nd : Node) : Node :=
  { nd with pinned := nd.pinned || nodes.any (fun x => decide (x.num = nd.num) && x.pinned) }

/-- Parity is configured on this chip (20 R429). -/
def parityOn (s : State) : Bool :=
  let sl := (mgmtGet s 0xA0410).toNat
  let g := mgmtGet s 0xA0418
  decide (sl ≠ 0 ∧ sl % 65536 = 0 ∧ countOnes g.toNat 64 = 8) && g.getLsbD (selfChip s)

/-- A chip of the parity group that takes part: this chip, or a member that is not lost and that data reaches (20 R424, R430). -/
def takesPart (s : State) (chip : Nat) : Bool := decide (chip = selfChip s) || ((members s).getLsbD chip && (routeTo s chip 1).isSome)
def groupWhole (s : State) : Bool := (List.range 64).all (fun c => !(mgmtGet s 0xA0418).getLsbD c || takesPart s c)

/-- A parity build begins with every PAR_EVERY-th seal (20 R430), unless a rebuild holds the parity engines or a member cannot take part (log 25). -/
def startBuild (s : State) (n : W32) : State :=
  let every := max 1 ((mgmtGet s 0xA0420).toNat % 256)
  if parityOn s && groupWhole s && decide (s.parity = .idle) && decide ((mgmtGet s 0x90028).toNat % every = 0) then
    mgmtPut { s with parity := .build n (!s.parGen) 0 } 0xA0428 (mgmtGet s 0xA0428 ||| 0x100)
  else s

/-- What has waited for space in the version store or in an egress buffer goes on: SIGNAL nodes, ends of nodes and of phases, completion words, requests for lines (19 R406,
R412). -/
def spaceFree (s : State) : State :=
  let evs : List Instr := s.nodes.flatMap (fun nd =>
    (if nd.state = .running ∧ nd.kind = 6 then [.signalWrite nd.num] else [])
      ++ (if nd.state = .running ∧ nd.kind = 1 ∧ hdrTasks nd.hdr ≤ nd.endedTasks then [.nodeDone nd.num] else [])
      ++ (if nd.state = .running ∧ hdrDet nd.hdr ≠ 0 ∧ phaseFull s nd.num = true then [.detPhaseMerge nd.num] else []))
  wakeAdmission (flushAll false (evs.foldl raiseOnce (serveAll { s with vsWaits := [] })))

/-- PAR_STAT with SEAL; FAIL stays (20 Table 20.2). -/
def parStat (s : State) (built : Word) : State := mgmtPut s 0xA0428 (built <<< 32 ||| (mgmtGet s 0xA0428 &&& 0x200))

/-- The seal that ends a rebuild (20 Table 20.1 step 6): BUSY clears and leasing resumes. On the replacement PAR_STAT.SEAL takes the survivors' value, which is not
this chip's state (log 25), and DIRTY is 0. -/
def rebuildSealed (s : State) (n : W32) : State :=
  let rebuilt : State → State := fun t =>
    resumeLeasing (mgmtPut { t with parity := .idle, leaseHeld := false } 0xA0428 (mgmtGet t 0xA0428 &&& ~~~(0x100 : Word)))
  match s.parity with
  | .finish m => if rinUpTo m n then rebuilt s else s
  | .restored m =>
    if rinUpTo m n then rebuilt (bumpFree (parStat { s with parWrites := [] } ((Config.freeWord s.free).setWidth 32 |>.setWidth 64))) else s
  | _ => s

/-- What follows the seal: an update that waited for it (22 R449), and the seal requested behind it. -/
def afterSeal (s : State) (n : W32) : State :=
  let s1 := match s.fw with
    | .sealing _ m => if rinUpTo m n then raiseOnce s .fwHandover else s
    | _ => s
  if s1.sealNext then requestSeal { s1 with sealNext := false } (rinOf s1 0) else s1

/-- Table 19.1 step 6. -/
def sealStep (s : State) (x : Sealing) : State :=
  let n := x.n
  let old := s.vs
  let s1 := { s with nodes := s.nodes.map (Node.sealAt n) }
  let s2 := { s1 with vs := (s1.vs.map (sealEntry s1 n)).filter VsEntry.live }
  let s3 := pinNodes s2 old n
  let rec_ := { x.record with nodes := x.record.nodes.map (fun nd => (nd.sealAt n).pinAs s3.nodes) }
  let s4 := mgmtAdd { s3 with sealedRin := n, sealing := none, ckpt := rec_, freed := s3.freed.filter (fun x => !rinUpTo x.2 n) } 0x90028 1
  let s5 := releaseEgress s4
  afterSeal (wakeRetire (spaceFree (startBuild (rebuildSealed s5 n) n))) n

/-- SEALED (19 Table 19.1 step 6). While a parity build runs, it waits for the build (20 R430). -/
def execSealed (n : BitVec 32) (s : State) : Host.Outcome State Fault Refusal :=
  match s.sealing with
  | none => .next s
  | some x =>
    if x.n ≠ n ∨ x.stage < 4 then .next s
    else match s.parity with
      | .build _ _ _ => .next { s with sealing := some { x with stage := 5 } }
      | _ => .next (sealStep s x)

/-- A chip is lost (19 R413); leasing is held for a rebuild when parity covers it (20 Table 20.1). -/
def markLost (s : State) (chip : Nat) : State :=
  { s with lost := s.lost ||| BitVec.ofNat 64 (2 ^ chip), leaseHeld := s.leaseHeld || (parityOn s && (mgmtGet s 0xA0418).getLsbD chip) }

/-- Chips are lost, and the others roll back. -/
def loseChips (s : State) (l : List Nat) : State :=
  let s1 := l.foldl markLost s
  if l.isEmpty || s1.rollingBack then s1 else raiseFirst s1 [.rollback]

/-- VOTE_TIMEOUT (19 R413): the coordinator loses a member whose vote is missing; on another chip it tells that the coordinator, or a member that the
coordinator names, is lost (log 26). -/
def execVoteTimeout (chip : BitVec 6) (s : State) : Host.Outcome State Fault Refusal :=
  let c := chip.toNat
  let late := match s.sealing with
    | some x => !x.votes.getLsbD c
    | none => false
  if c = selfChip s ∨ (members s).getLsbD c = false ∨ (isCoordinator s = true ∧ late = false) then .next s else .next (loseChips s [c])

end Sys2Proof.Machine
end

