-- ==== Sys2Proof/Machine/Translate.lean ====
section
/-! DEFINITION. Sys2Proof/Machine/Translate.lean: invalidation of translations (04 R86 to R88), the remap table (04 R77), migration of pages (04 R84), and
writes of management registers without behaviour of their own (00 R8). -/
namespace Sys2Proof.Machine

/-- The invalidation that the registers ask for (04 R86, Table 4.4), with the nodes that hold a translation of a page named: by a live lease, or for transfers
that go on after it (R88). When the registers are read the spec does not say: the model latches them at the GO (DESIGN CHOICE, log 71). -/
def latchInval (s : State) (c : Word) : Inval :=
  let a := (mgmtGet s 0x30020).toNat
  let v : Inval := ⟨BitVec.ofNat 16 a, a / 65536 % 2 ^ 40, max 1 ((mgmtGet s 0x30028).toNat % 2 ^ 24), c.getLsbD 1, []⟩
  { v with waits := (s.nodes.filter (fun n => transLive s n.num && n.pages.any (fun p => v.names n.asid p.1))).map Node.num }

/-- INV_GO (04 R86, R88): a GO while BUSY is ignored and sets DROP; that SCOPE of such a write is not taken, while its W1C bits clear, is the model's choice (log 71). The invalidation waits for the translations that its pages have in use; LEASEW tells of
leases among them. -/
def execInvGo (v : BitVec 64) (s : State) : Host.Outcome State Fault Refusal :=
  let c := mgmtGet s 0x30030
  if c.getLsbD 7 then .next (mgmtPut s 0x30030 ((c &&& ~~~(v &&& 0x30)) ||| 0x10))
  else
    let c1 := mgmtMerge 0x30030 c v
    let i := latchInval s c1
    let w : Word := if i.waits.any (leaseLive s) then 0x40 else 0
    let t := { (mgmtPut s 0x30030 (c1 ||| 0x80 ||| w)) with inval := some i }
    .next (if invalWaits s i = false then raiseEvents t [.invalidationDone] else t)

/-- Every translation of a page named that an advice context holds is withdrawn (04 R87, 12 R270). -/
def withdraw (s : State) (v : Inval) : State :=
  { s with nodes := s.nodes.map (fun n => { n with advPages := n.advPages.filter (fun p => !v.names n.asid p.1) }) }

/-- Frames of the pages named, by the translations that nodes have kept. -/
def namedFrames (s : State) (v : Inval) : List Nat :=
  s.nodes.flatMap (fun n => (n.pages.filter (fun p => v.names n.asid p.1)).map (fun p => leafPA p.2 / 65536))

/-- Stores that dies keep in copies of NC sectors of those frames perform at scope s: they go home (04 R87, 16 R355). -/
def performNc (s : State) (v : Inval) : State :=
  let fs := namedFrames s v
  (s.nc.filter (fun c => decide (c.dirty ≠ 0) && fs.contains (c.sector / 1024))).foldl (fun t c => ncClean t c.die.toNat c.sector) s

/-- INVALIDATION_DONE (04 R87): BUSY and LEASEW clear, DONE is set, once no translation of a page named is in use and every write made through one has performed. -/
def execInvalidationDone (s : State) : Host.Outcome State Fault Refusal :=
  match s.inval with
  | none => .next s
  | some v =>
    if invalWaits s v then .next s
    else .next (mgmtPut { (withdraw (performNc s v) v) with inval := none } 0x30030 ((mgmtGet s 0x30030 &&& ~~~(0xC0 : Word)) ||| 0x20))

/-- CORE_GOOD of a physical core (04 Table 4.4). -/
def coreGood (s : State) (die p : Nat) : Bool :=
  if p < 64 then (mgmtGet s (0x20800 + 0x10 * die)).getLsbD p else decide (p < 68) && (mgmtGet s (0x20808 + 0x10 * die)).getLsbD (p - 64)

/-- A write that waits until it can take effect; a later write of the same register replaces it. -/
def deferWrite (s : State) (off : Nat) (v : Word) : State := { s with deferred := s.deferred.filter (fun d => decide (d.1 ≠ off)) ++ [(off, v)] }

/-- REMAP_WRITE (04 R77): a good core or 0x7F is accepted; any other value is counted in REMAP_REJ. It takes effect at the next admission after no node holds
a logical core of the die. -/
def execRemapWrite (die : BitVec 2) (l : BitVec 6) (v : BitVec 64) (s : State) : Host.Outcome State Fault Refusal :=
  let off := 0x20000 + 0x200 * die.toNat + 8 * l.toNat
  let p := v.toNat % 128
  if p ≠ 0x7F ∧ coreGood s die.toNat p = false then .next (mgmtAdd s 0x20880 1)
  else .next (wakeAdmission (deferWrite s off (BitVec.ofNat 64 p)))

/-- The placement requests that ask for a page on a die are met or discarded (12 R266). -/
def dropRequests (s : State) (asid vpn die : Nat) : State :=
  { s with placeQ := s.placeQ.filter (fun q => !(decide (q.asid.toNat = asid) && decide (q.vpn.toNat = vpn % 2 ^ 40) && decide (q.target.toNat = die))) }

/-- Every copy of a page goes home and is dropped: NC copies, RDC lines with their directory entries, counted lines (04 R84 step 2). -/
def dropPage (s : State) (pa : Nat) : State :=
  let inPage := fun (sec : Nat) => decide (sec / 1024 = pa / 65536)
  let dirty := s.nc.filter (fun c => inPage c.sector)
  let s1 := dirty.foldl (fun t c => ncWriteBack t c) s
  serveAll { s1 with nc := s1.nc.filter (fun c => !inPage c.sector), rdc := s1.rdc.filter (fun r => !inPage (r.line * 4)),
                     dir := s1.dir.filter (fun e => !inPage (e.line * 4)), counted := s1.counted.filter (fun c => !inPage (c.line * 4)) }

/-- The copy of one sector, poison with it (04 R84 step 3). Whose die's RIN tags what a migration writes no rule names: the model takes that of the scheduler's die, 0,
which receives the page (19 R403; DESIGN CHOICE, log 76). -/
def copySector (s0 : State) (src dst : Nat) : State :=
  let s := receives s0 0 (src / 64)
  setPoison (writeHome s dst (memBytes s src 64) (rinOf s 0) none none) (dst / 64) (poisonAt s src)

/-- Steps 2 to 4 of 04 R84, to a new frame: the page's translations are withdrawn with the write of its entry, which lies at `at_`;
the old frame is free when its interval is sealed. -/
def movePage (s : State) (asid : BitVec 16) (vpn : Nat) (e : Word) (new at_ : Nat) : State :=
  let old := leafPA e
  let s1 := dropPage (bumpFree s) old
  let s2 := (List.range 1024).foldl (fun t i => copySector t (old + 64 * i) (new + 64 * i)) s1
  let leaf := (e &&& ~~~(0x000FFFFFFFFF0000 : Word)) ||| BitVec.ofNat 64 new
  withdraw { (writeHome s2 at_ (natBytes leaf.toNat 8) (rinOf s2 0) none none) with freed := s2.freed ++ [(old / 65536, rinOf s2 0)] } ⟨asid, vpn, 1, false, []⟩

/-- A line of a page is on its way, or its directory entry is not stable (11 R236). -/
def pageBusy (s : State) (pa : Nat) : Bool :=
  s.rdc.any (fun r => decide (r.line / 256 = pa / 65536) && r.st.transient) || s.dir.any (fun d => decide (d.line / 256 = pa / 65536) && !d.st.stable)

/-- Lines of a page that the host holds: it gives them up by messages of its own (11 R240). -/
def hostLines (s : State) (pa : Nat) : List Nat :=
  (s.dir.filter (fun d => decide (d.line / 256 = pa / 65536) && d.st.stable && d.st.holders.getLsbD 4)).map DirEntry.line

/-- Migrate a page that can move; while space is short, a line is not stable, or the host holds one, it waits: the lines that the host holds are recalled first (04 R84
step 2). -/
def migrate (s : State) (asid : BitVec 16) (vpn : Nat) (e : Word) (die : BitVec 2) : State :=
  let at_ := leafAddress s asid.toNat vpn
  match frameFor s (leafPA e) die.toNat with
  | none => s
  | some new =>
    if moveRoom s die.toNat = false then applyStall s (.space (moveShort s die.toNat) (rinOf s (moveShort s die.toNat)))
    else if pageBusy s (leafPA e) || pageBusy s new || !(hostLines s (leafPA e) ++ hostLines s new).isEmpty then
      raiseEvents ((hostLines s (leafPA e) ++ hostLines s new).foldl (fun t l => homeRequest t l (.here true)) s) [.migratePage asid (BitVec.ofNat 40 vpn) die]
    else match cohWrite s (homeDie at_) (at_ / 256) (at_ / 64) with
      | none => again s (.line (homeDie at_) (at_ / 64) true) (.migratePage asid (BitVec.ofNat 40 vpn) die)
      | some t => wakeAdmission (dropRequests (movePage t asid vpn e new at_) asid.toNat vpn die.toNat)

/-- MIGRATE_PAGE (04 R84, 12 R266): nothing holds the page, and no write to it waits for its release. A request for a page that is absent, no device memory, in a system area, or on the die already is
discarded, as is one for a page whose leaf entry the device cannot write at once (log 23). -/
def execMigratePage (asid : BitVec 16) (vpn : BitVec 40) (die : BitVec 2) (s : State) : Host.Outcome State Fault Refusal :=
  let a := asid.toNat
  let v := vpn.toNat
  let d := die.toNat
  if pageHeld s a v then .next s
  else match walk s a v with
    | .leaf e =>
      if pageUnreleased s (leafPA e) then .next s
      else if isDeviceMem (leafPA e) = false ∨ systemArea (leafPA e) = true ∨ homeDie (leafPA e) = d ∨ isDeviceMem (leafAddress s a v) = false then .next (dropRequests s a v d)
      else .next (migrate s asid v e die)
    | .poisoned pa => .next (schedPoison (dropRequests s a v d) (pa / 64) none none)
    | .absent => .next (dropRequests (logWalk 0 s a v) a v d)

/-- A plain write of a register (00 R8): RW bits taken, W1C bits cleared. -/
def plainWrite (s : State) (off : Nat) (v : Word) : State := mgmtPut s off (mgmtMerge off (mgmtGet s off) v)

/-- A write of HOLD_LIMIT looks at the held entries of every node at once (19 R408). -/
def holdWritten (s : State) (off : Nat) : State := if 0x90110 ≤ off ∧ off < 0x90210 ∧ off % 0x40 = 0x10 then pinLimit s else s

/-- MGMT_REGISTER_WRITE (00 R8): a register with behaviour of its own has its own event. GRAPH_HEAD is ignored while EN = 1 (03 Table 3.7); SEAL_DOM and
SEAL_SELF wait until no node is LEASED or RUNNING (19 R422). -/
def execMgmtRegisterWrite (off : BitVec 32) (v : BitVec 64) (s : State) : Host.Outcome State Fault Refusal :=
  let o := off.toNat
  let evs := mgmtEvents s o v
  if o % 8 ≠ 0 then .next s
  else if evs ≠ [.mgmtRegisterWrite (BitVec.ofNat 32 o) v] then .next (raiseFirst s evs)
  else if 0x10000 ≤ o ∧ o < 0x10800 ∧ o % 0x20 = 8 ∧ graphOn s (BitVec.ofNat 6 ((o - 0x10000) / 0x20)) = true then .next s
  else if o = 0x90010 ∨ o = 0x90018 then .next (applyDeferred (deferWrite s o (mgmtMerge o (mgmtGet s o) v)))
  else .next (holdWritten (plainWrite s o v) o)

end Sys2Proof.Machine
end

