-- ==== Sys2Proof/Machine/Firmware.lean ====
section
/-! DEFINITION. Sys2Proof/Machine/Firmware.lean: live update of the scheduler firmware (22 R449, R450), debug unlock (22 R451), and the SPDM requests that
Ozsis answers (22 R447). -/
namespace Sys2Proof.Machine

/-- Extend a measurement register (22 R446). -/
def extendAt (s : State) (i : Nat) (d : BitVec 256) : State :=
  { s with oz := { s.oz with m := Store.set zeroOf s.oz.m i (extendM (Store.get zeroOf s.oz.m i) d) } }

/-- FW_STAT.RESULT, and the active slot changed (22 Table 22.5). -/
def setResult (s : State) (r : Nat) : State := mgmtPut s 0xC0090 ((mgmtGet s 0xC0090 &&& 8) ||| BitVec.ofNat 64 r)
def swapSlot (s : State) : State := mgmtPut s 0xC0090 (mgmtGet s 0xC0090 ^^^ 8)

/-- Admission resumes: armed words that have been written since are followed (22 R450). -/
def resumeAdmission (s : State) : State := resumeLeasing { s with fw := .idle }

/-- FW_UPDATE_GO (22 Table 22.2 steps 1 to 3): QTMO is taken; a bad signature gives RESULT 2; else admission stops. A GO during an update starts nothing. -/
def execFwUpdateGo (v : BitVec 64) (signed : Bool) (digest : BitVec 256) (s : State) : Host.Outcome State Fault Refusal :=
  let s1 := mgmtPut s 0xC0088 (v &&& 0xFFFFFFFF)
  if s.fw ≠ .idle then .next s1
  else if signed then
    let s2 := { s1 with fw := .quiesce digest s.clock }
    .next (if quiet s2 then raiseEvents s2 [.fwQuiesceDone] else s2)
  else .next (setResult s1 2)

/-- FW_QUIESCE_DONE (22 Table 22.2 step 4): the seal of the open interval is requested. -/
def execFwQuiesceDone (s : State) : Host.Outcome State Fault Refusal :=
  match s.fw with
  | .quiesce d _ =>
    if quiet s then
      let m := rinOf s 0
      .next (requestSeal { s with fw := .sealing d m } m)
    else .next s
  | _ => .next s

/-- FW_QUIESCE_TIMEOUT (22 Table 22.2 step 3): only an update that quiesces can time out so. -/
def execFwQuiesceTimeout (s : State) : Host.Outcome State Fault Refusal :=
  match s.fw with
  | .quiesce _ _ => .next (resumeAdmission (setResult s 3))
  | _ => .next s

/-- Registers from an offset on, as bytes. -/
def regBytes (s : State) (off n : Nat) : List Byte := (List.range n).flatMap (fun i => natBytes (mgmtRead s (off + 8 * i)).toNat 8)

/-- The body of the handover structure (22 Table 22.3): graph slots, remap table, TSLICE_Q, ASID_BASE, residency mailbox. -/
def handoverBody (s : State) : List Byte := regBytes s 0x10000 256 ++ regBytes s 0x20000 256 ++ regBytes s 0x20888 1 ++ regBytes s 0x30000 1 ++ regBytes s 0x30008 2

/-- The handover structure (22 Table 22.3). The address of the checkpoint, which the spec lays out nowhere, is a free value (log 28). -/
def handoverBytes (s : State) (n : W32) : List Byte :=
  let b := handoverBody s
  natBytes 0x444E4148 4 ++ natBytes 0x0100 2 ++ natBytes 0 2 ++ natBytes (0x40 + b.length) 4 ++ natBytes n.toNat 4
    ++ natBytes (Config.freeWord s.free).toNat 8 ++ sha3 b ++ List.replicate 8 0 ++ b

/-- Where it is written: in the scheduler region of die 0, behind the profile (log 28). -/
def handoverAddress : Nat := schedRegion 0 + 0x1000

/-- The handover structure as an image finds it (22 R450): none where its magic, its digest or its version is refused by an image that knows a minor version, or where
it is poisoned; else its length. -/
def handoverLength (s : State) (minor : Nat) : Option Nat :=
  let h := memBytes s handoverAddress 0x40
  let n := fieldAt h 8 4
  if (poisonIn s handoverAddress n).isNone ∧ fieldAt h 0 4 = 0x444E4148 ∧ versionOk (fieldAt h 4 2) minor = true ∧ 0x40 ≤ n
      ∧ fieldAt h 0x18 32 = bytesNat (sha3 (memBytes s (handoverAddress + 0x40) (n - 0x40))) then some n else none

/-- Registers whose values the body holds, in its order. -/
def handoverRegs : List Nat :=
  (List.range 256).map (fun i => 0x10000 + 8 * i) ++ (List.range 256).map (fun i => 0x20000 + 8 * i) ++ [0x20888, 0x30000, 0x30008, 0x30010]

/-- An image goes on from a structure of a length: a field that it does not find takes its reset value (21 R442), and the others stand in their registers yet. -/
def takeHandover (s : State) (len : Nat) : State :=
  ((List.range handoverRegs.length).zip handoverRegs).foldl (fun t q => if 0x40 + 8 * (q.1 + 1) ≤ len then t else mgmtPut t q.2 (mgmtReset q.2)) s

/-- FW_HANDOVER (22 Table 22.2 steps 5 and 6): the handover structure is written, M[3] is extended, the new slot is active and its image starts. While the
version store has no room for it, the seal that frees some is requested first. -/
def execFwHandover (s : State) : Host.Outcome State Fault Refusal :=
  match s.fw with
  | .sealing d n =>
    if rinUpTo n s.sealedRin = false then .next s
    else
      let l := handoverBytes s n
      if vsRoom s 0 (saveNeeds s handoverAddress (roundUp l.length 64)) then
        .next { (swapSlot (extendAt (saveWrite (bumpFree s) handoverAddress l) 3 d)) with fw := .await d s.clock }
      else .next (applyStall s (.space 0 (rinOf s 0)))
  | _ => .next s

/-- The images of the two slots change places: digests, and whether their signatures verify. -/
def Phys.swapImages (p : Phys) (d : BitVec 256) : Phys :=
  let old := Store.get zeroOf p.digests 3
  { p with digests := Store.set zeroOf (Store.set zeroOf p.digests 3 d) 4 old,
           sigOk := (p.sigOk &&& 3) ||| 4 ||| (if p.sigOk.getLsbD 2 then 8 else 0) }

/-- FW_HB (22 Table 22.2 step 7): the first write after step 6 commits the update, where the new image has accepted the handover, which it reads then at the latest
(log 28); an image that refuses it writes no heartbeat (R450), and any other write does not commit. -/
def execFwHb (v : BitVec 64) (s : State) : Host.Outcome State Fault Refusal :=
  let s1 := mgmtPut s 0xC0098 v
  match s.fw with
  | .await d _ => match handoverLength s (Config.imageMinor d) with
    | some n => .next (resumeAdmission (setResult (takeHandover { s1 with phys := s1.phys.swapImages d } n) 1))
    | none => .next s1
  | _ => .next s1

/-- FW_HB_TIMEOUT (22 R449): the old slot is active again, M[3] is extended with the old digest, and its image restarts from the
handover structure that it wrote itself; where it cannot accept that any more, the registers stand as they are (log 28). Nothing else waits for a heartbeat. -/
def execFwHbTimeout (s : State) : Host.Outcome State Fault Refusal :=
  match s.fw with
  | .await _ _ =>
    let d := Store.get zeroOf s.phys.digests 3
    let s1 := swapSlot (extendAt s 3 d)
    .next (resumeAdmission (setResult (((handoverLength s (Config.imageMinor d)).map (takeHandover s1)).getD s1) 4))
  | _ => .next s

/-- DBG_NONCE as its registers hold it. -/
def dbgNonce (s : State) : Nat := (List.range 4).foldl (fun acc i => acc + (mgmtGet s (0xC00A0 + 8 * i)).toNat * 2 ^ (64 * i)) 0

/-- A fresh nonce: free values (log 13). -/
def freshNonce (s : State) : State :=
  let s1 := (List.range 4).foldl (fun t i => mgmtPut t (0xC00A0 + 8 * i) (Config.freeWord (s.free + i))) s
  { s1 with free := s.free + 4 }

/-- The checks of R451 step 3 on a token of the layout of Table 22.4. -/
def tokenOk (s : State) (t : List Byte) : Bool :=
  decide (t.length = 0x48 + 2420 ∧ fieldAt t 0 4 = 0x4B4F5444 ∧ fieldAt t 4 2 = 0x0100 ∧ 1 ≤ fieldAt t 6 1 ∧ fieldAt t 6 1 ≤ 2
      ∧ fieldAt t 7 1 = s.oz.lifecycle.toNat ∧ fieldAt t 8 32 = s.oz.dev.toNat ∧ fieldAt t 0x28 32 = dbgNonce s)
    && Config.mldsaVerify Config.debugKey (t.take 0x48) (t.drop 0x48)

/-- A token is refused: the port stays closed, and FAILS counts it. -/
def refuseToken (s : State) : State :=
  let c := mgmtGet s 0xC00C0
  let fails := BitVec.ofNat 32 (nbits c.toNat 32 32 + 1)
  let s1 := mgmtPut s 0xC00C0 ((c &&& 0xFFFFFFFF) ||| (fails.setWidth 64 <<< 32))
  { s1 with hostOut := s1.hostOut ++ [.debugStatus false false] }

/-- DEBUG_UNLOCK (22 R451); a token is refused where the fuses cannot be read (Phys.fusesOk). -/
def execDebugUnlock (token : List (BitVec 8)) (s : State) : Host.Outcome State Fault Refusal :=
  if s.boot = .dead then .next s
  else if (List.range 64).any (fun g => (mgmtGet s (0x10000 + 0x20 * g)).getLsbD 0) then .next { s with hostOut := s.hostOut ++ [.debugStatus true false] }
  else if s.phys.fusesOk = false then .next (refuseToken s)
  else
    let s1 := freshNonce s
    if tokenOk s token then
      let s2 := { s1 with oz := (upFrom 2 14).foldl Ozsis.wipeKey s1.oz }
      let s3 := extendAt s2 5 (digestOf token)
      let s4 := mgmtPut s3 0xC00C0 ((mgmtGet s3 0xC00C0 &&& 0xFFFFFFFF00000000) ||| BitVec.ofNat 64 (fieldAt token 6 1))
      .next { s4 with hostOut := s4.hostOut ++ [.debugStatus false true] }
    else .next (refuseToken s1)

/-- What Ozsis offers (22 R447). -/
def ozAlgorithms : SpdmAlgorithms := ⟨[.sha3_256], [.sha3_256], 0, [(.iana, Config.enterpriseNumber, 0x0001)]⟩

/-- NEGOTIATE_ALGORITHMS (22 R447) of SPDM 1.2, or 1.3: a requester that selects no offered hash receives an ERROR; one that names the ExtAsym entry may ask for
signatures. -/
def execNegotiateAlgorithms (sha3 : Bool) (ext : Bool) (s : State) : Host.Outcome State Fault Refusal :=
  if s.boot = .dead then .next s
  else if sha3 then .next { s with oz := { s.oz with sigSelected := ext }, hostOut := s.hostOut ++ [.algorithms ozAlgorithms] }
  else .next { s with hostOut := s.hostOut ++ [.spdmError] }

/-- The six registers, and the message that is signed with them (log 29). -/
def measurements (s : State) : List (BitVec 256) := (List.range 6).map (fun i => Store.get zeroOf s.oz.m i)
def measuredMessage (s : State) (nonce : BitVec 256) : List Byte := Config.spdmMessage s.oz.spdm13 nonce (measurements s)

/-- GET_MEASUREMENTS (22 R447): one snapshot of M[0] to M[5]; a signed response only after the algorithm was selected. -/
def execGetMeasurements (sign : Bool) (nonce : BitVec 256) (s : State) : Host.Outcome State Fault Refusal :=
  if s.boot = .dead then .next s
  else if sign && !s.oz.sigSelected then .next { s with hostOut := s.hostOut ++ [.spdmError] }
  else
    let sig := if sign then ozSignature (ozKey s 1) (measuredMessage s nonce) else []
    .next { s with hostOut := s.hostOut ++ [.measurements (measurements s) sig] }

end Sys2Proof.Machine
end

