-- ==== Sys2Proof/Machine/HostLink.lean ====
section
/-! DEFINITION. Sys2Proof/Machine/HostLink.lean: what arrives over Causeway (21 R435 to R441): writes, reads, atomics and graph posts of the host, the
training of the ports, and the error registers (18 R398). -/
namespace Sys2Proof.Machine

/-- The port, and the die, by which a host access enters the module: those of the home die's port, and port 0's for an address without a home die. The host may use either
port (21 R438), and no rule names one (DESIGN CHOICE, log 75). -/
def entryDie (s : State) (pa : Nat) : Nat := portDie (portOf s (if isDeviceMem pa then homeDie pa else 0))
def entryPort (s : State) (pa : Nat) : Nat := portOf s (if isDeviceMem pa then homeDie pa else 0)

/-- The module answers an access of the host (22 R445): nothing when Ozsis failed verification, management only when the start stopped. -/
def answers (s : State) (pa : Nat) : Bool := s.boot == .running || (s.boot == .ozsisOnly && isMgmt pa)

/-- A message of the host has arrived over a port: no replay of the port's has failed in a row since (21 R435). -/
def heard (s : State) (port : Nat) : State :=
  { s with ports := if port = 0 then ({ s.ports.1 with fails := 0 }, s.ports.2) else (s.ports.1, { s.ports.2 with fails := 0 }) }

/-- Write the pieces of a host write in order (19 R405, 11 R240); a line that is not stable ends it, and is named. -/
def hostPieces (s : State) (l : List (Nat × List Byte)) : Except Stall State :=
  match l with
  | [] => .ok s
  | p :: r =>
    if deviceMem s p.1 then
      match hostWrite s (p.1 / 256) (p.1 / 64) with
      | none => .error (.line 4 (p.1 / 64) true)
      | some t => hostPieces (writeUntagged t p.1 p.2 none) r
    else hostPieces (writeAnywhere s (entryDie s p.1) (entryPort s p.1) p.1 p.2 none) r

/-- The bytes of a host write. -/
def hostPut (s : State) (pa : Nat) (bs : List Byte) : Except Stall State :=
  if isMgmt pa then .ok (mgmtWriteBytes s (entryDie s pa) (entryPort s pa) pa bs) else hostPieces s (pieces64 pa bs)

/-- A message of the host waits, the request for its line sent: it is tried again, before every later one, when a line becomes stable (21 R436, R438). -/
def hostWaits (s : State) (i : Instr) (q : Stall) : State := applyStall { s with hostIn := s.hostIn ++ [i] } q

/-- A message of the host behind those that wait (21 R436). -/
def hostTurn (i : Instr) (pa : Nat) (m : State → State) (s : State) : Host.Outcome State Fault Refusal :=
  if answers s pa = false then .next s
  else
    let t := heard s (entryPort s pa)
    if t.hostIn.isEmpty then .next (m t) else .next (hostWaits t i .wait)

/-- HOST_POSTED_WRITE (19 R405, 21 R437): an untagged write; one that meets a line that is not stable waits. -/
def execHostPostedWrite (pa : BitVec 52) (bytes : List (BitVec 8)) (s : State) : Host.Outcome State Fault Refusal :=
  hostTurn (.hostPostedWrite pa bytes) pa.toNat (fun t => match hostPut t pa.toNat bytes with
    | .ok u => u
    | .error q => hostWaits t (.hostPostedWrite pa bytes) q) s

/-- A graph post follows only armed words of graphs with SRC = 0 (21 R437). -/
def armedByHost (s : State) (g : Nat) (pa : Nat) : Bool :=
  match armedOf s (BitVec.ofNat 6 g) with
  | none => false
  | some va => match walk s (asidOf s g) (vpnOf va) with
    | .leaf e => decide (leafPA e + va.toNat % 65536 = pa) && !(mgmtGet s (0x10000 + 0x20 * g)).getLsbD 16
    | _ => false

/-- Events that follow the armed word of one of some slots. -/
def isFollowOf (gs : List Nat) (i : Instr) : Bool :=
  match i with
  | .followArmedWord g => gs.contains g.toNat
  | _ => false

/-- The write of a graph post, followed when it is one of the words that `gs` have armed; else it is a posted write that CW_GPDROP counts (21 R437). -/
def postWord (s : State) (pa : BitVec 52) (v : Word) : State :=
  let a := pa.toNat
  let gs := (List.range 64).filter (fun g => armedByHost s g a)
  let others := (List.range 64).filter (fun g => !gs.contains g)
  match hostPut { s with pending := [] } a (natBytes v.toNat 8) with
  | .error q => hostWaits s (.graphPost pa v) q
  | .ok t =>
    let new := t.pending.filter (fun i => !isFollowOf others i)
    let u := { t with pending := if isMgmt a then new ++ s.pending else s.pending ++ new }
    if gs.isEmpty then mgmtAdd u 0xB0018 1 else u

/-- A coherent write of the host has not performed yet: it waits for ownership of its line, or the line is owned and the data of the store have not come (11 R236,
Table 11.5; Input.hostData, log 5). -/
def hostStores (s : State) : Bool := s.rdc.any (fun r => decide (r.agent = 4) && (r.st == .ie || r.st == .se || r.st == .e))

/-- GRAPH_POST (21 R437, R438): a write of 8 bytes after the host's earlier writes, then followed. One that names no armed word of a graph the host posts
to, as an unaligned one does, is written and counted in CW_GPDROP. -/
def execGraphPost (pa : BitVec 52) (v : BitVec 64) (s : State) : Host.Outcome State Fault Refusal :=
  hostTurn (.graphPost pa v) pa.toNat (fun t => if hostStores t then hostWaits t (.graphPost pa v) .wait else postWord t pa v) s

/-- The answer to a host access of a poisoned sector (21 R439): every byte of a poisoned sector is poisoned. -/
def poisonAnswer (s : State) (sector n : Nat) : State :=
  let die := homeDie (sector * 64)
  let p := portOf s die
  let s1 := bumpFree (logEvent s (portDie p) 7 p (sectorAddr sector) (Config.freeWord s.free))
  let s2 := interrupt s1 3 (portDie p) 0 (sectorAddr sector)
  let ver := nbits (mgmtGet s (0xB0008 + 8 * p)).toNat 8 8
  { s2 with hostOut := s2.hostOut ++ [if 0x13 ≤ ver then .poisonReply (BitVec.allOnes 64) else .abortReply n] }

/-- The lines of a host read, in order, each taken as by a remote agent and counted once (11 R240, R248); a line that is not stable ends it, and is named. -/
def hostReadLines (s : State) (l : List Nat) : Except Stall State :=
  match l with
  | [] => .ok s
  | a :: r =>
    if deviceMem s (a * 256) = false then hostReadLines s r
    else if isCounted s a then
      match takeReads s [a] (rinOf s (homeDie (a * 256))) with
      | .error q => .error q
      | .ok t => hostReadLines t r
    else match hostRead s a with
      | none => .error (.line 4 (4 * a) false)
      | some t => hostReadLines t r

/-- Lines of an access. -/
def linesOf (pa n : Nat) : List Nat := upFrom (pa / 256) ((pa + n - 1) / 256 + 1 - pa / 256)

/-- Bytes that a host read returns of one 64-byte piece: a reserved region gives zeros, and the read there is logged (04 R66). -/
def hostReadPiece (s : State) (p : Nat × List Byte) : State × List Byte :=
  let n := p.2.length
  if deviceMem s p.1 then (s, memBytes s p.1 n)
  else if isMgmt p.1 then (s, mgmtBytes s p.1 n)
  else (decodeError s (entryDie s p.1) (entryPort s p.1) p.1, List.replicate n 0)

def hostReadBytes (s : State) (pa n : Nat) : State × List Byte :=
  (pieces64 pa (List.replicate n 0)).foldl (fun acc p =>
    let r := hostReadPiece acc.1 p
    (r.1, acc.2 ++ r.2)) (s, [])

/-- HOST_READ (11 R240, 21 R437, R439): served at the home. A read of management space returns the register's bytes; one of a reserved region zeros, and
it is logged (04 R66). Causeway has no read of host memory by the host (Table 21.2). -/
def execHostRead (pa : BitVec 52) (n : Nat) (s : State) : Host.Outcome State Fault Refusal :=
  let a := pa.toNat
  if n = 0 ∨ isHost a = true then .next s
  else hostTurn (.hostRead pa n) a (fun t =>
    match (if deviceMem t a then poisonIn t a n else none) with
    | some q => poisonAnswer t q n
    | none =>
      let r := hostReadBytes t a n
      match hostReadLines r.1 (linesOf a n) with
      | .error q => hostWaits t (.hostRead pa n) q
      | .ok u => { u with hostOut := u.hostOut ++ [.readReply r.2] }) s

/-- The operation of a host atomic: those of 16 R362, in the order of its table; codes are the model's (log 27). -/
def hostOp (op w o b : Nat) : Nat :=
  match op with
  | 0 => o + b
  | 1 => o &&& b
  | 2 => o ||| b
  | 3 => o ^^^ b
  | 4 => sMin w o b
  | 5 => sMax w o b
  | 6 => min o b
  | 7 => max o b
  | _ => b

/-- The atomic at the home (11 R246), its line recalled from every agent first. -/
def hostAtomicAt (s : State) (i : Instr) (op a n v : Nat) : State :=
  match poisonIn s a n with
  | some q => poisonAnswer s q n
  | none => match hostWrite s (a / 256) (a / 64) with
    | none => hostWaits s i (.line 4 (a / 64) true)
    | some t =>
      let old := memNat s a n
      let u := writeUntagged t a (natBytes (hostOp op (8 * n) old (v % 2 ^ (8 * n)) % 2 ^ (8 * n)) n) none
      { u with hostOut := u.hostOut ++ [.atomicReply (BitVec.ofNat 64 old)] }

/-- HOST_ATOMIC (21 R437, 11 R246): performed at the home, untagged; the old value goes back. In a reserved region it reads zero, writes nothing and is
logged (04 R66). Table 21.2 carries no other: an unaligned one, one of another operation, and one of other memory change nothing (log 59). -/
def execHostAtomic (op : BitVec 4) (w4 : Bool) (pa : BitVec 52) (v : BitVec 64) (s : State) : Host.Outcome State Fault Refusal :=
  let a := pa.toNat
  let n := if w4 then 4 else 8
  if 8 < op.toNat ∨ a % n ≠ 0 ∨ isMgmt a = true ∨ isHost a = true then .next s
  else hostTurn (.hostAtomic op w4 pa v) a (fun t =>
    if deviceMem t a then hostAtomicAt t (.hostAtomic op w4 pa v) op.toNat a n v.toNat
    else
      let u := decodeError t (entryDie t a) (entryPort t a) a
      { u with hostOut := u.hostOut ++ [.atomicReply 0] }) s

/-- CW_PORT of a port that is up, but for COH. -/
def portWord (ver lanes : Nat) : Word := BitVec.ofNat 64 (1 + ver * 256 + lanes * 65536)

/-- COH of every port that is up: set while each of them runs 1.1 or later (21 R441). -/
def setCoh (s : State) : State :=
  let ok := fun i => !portUp s i || decide (0x11 ≤ nbits (mgmtGet s (0xB0008 + 8 * i)).toNat 8 8)
  let coh := ok 0 && ok 1
  (List.range 2).foldl (fun t i =>
    if portUp s i then
      let v := mgmtGet t (0xB0008 + 8 * i)
      mgmtPut t (0xB0008 + 8 * i) (if coh then v ||| 2 else v &&& ~~~(2 : Word))
    else t) s

/-- The host's part in a directory entry ends (21 R441): it holds no copy, answers no message that is still out, and its waiting request is that of the home. -/
def dropHost (s : State) (e : DirEntry) : State :=
  let mine : HomeReq → HomeReq := fun q => if q.agent e.line = 4 then .here (match q with
    | .rds _ => false
    | _ => true) else q
  match e.st with
  | .shared m => if m.getLsbD 4 then setDir s e.line (if m &&& 0xF = 0 then none else some (.shared (m &&& 0xF))) else s
  | .owned o => if o = 4 then setDir s e.line none else s
  | .wi m q => if m &&& 0xF = 0 then completeReq s e.line 0 (mine q) else setDir s e.line (some (.wi (m &&& 0xF) (mine q)))
  | .wr o q rc w => if o = 4 then completeReq s e.line 0 (mine q) else setDir s e.line (some (.wr o (mine q) rc w))
  | .wv m rc w => if m &&& 0xF = 0 then freeEntry s e.line else setDir s e.line (some (.wv (m &&& 0xF) rc w))

/-- An event of a message to or from the host as an agent. -/
def isHostMsg (i : Instr) : Bool :=
  match i with
  | .rds r _ => r == 4
  | .rdx r _ => r == 4
  | .upg r _ => r == 4
  | .wbd r _ _ => r == 4
  | .evc r _ => r == 4
  | .data r _ => r == 4
  | .datae r _ => r == 4
  | .grante r _ => r == 4
  | .inv r _ => r == 4
  | .recalls r _ => r == 4
  | .recalli r _ => r == 4
  | .invack r _ => r == 4
  | .ack r _ _ => r == 4
  | .ackd r _ _ => r == 4
  | .wback r _ => r == 4
  | _ => false

/-- Message by which a die gives up a line of host memory (21 R441, 11 Table 11.5): its dirty sectors, or a clean owner's. -/
def giveBack (r : RdcLine) : List HostMsg :=
  if r.st == .m then [.coherence (.wbd r.agent (BitVec.ofNat 44 r.line) r.dirty)]
  else if r.st == .e then [.coherence (.evc r.agent (BitVec.ofNat 44 r.line))]
  else []

/-- The coherent classes come into use or go out of it (21 R441): every host line held in an RDC is written back and dropped, the host holds no device line, and
none of its requests for one waits. -/
def changeCoherence (s : State) (before : Bool) : State :=
  if hostCoherent s = before then s
  else
    let back := s.rdc.filter (fun r => isHost (r.line * 256))
    let t := { s with rdc := s.rdc.filter (fun r => !isHost (r.line * 256) && decide (r.agent ≠ 4)),
                      hostOut := s.hostOut ++ back.flatMap giveBack,
                      pending := s.pending.filter (fun i => !isHostMsg i && !isHostLine i),
                      dirQueue := s.dirQueue.filter (fun q => decide (q.2.agent q.1 ≠ 4)) }
    serveAll (t.dir.foldl dropHost t)
where
  /-- The host's answer for a line of its own. -/
  isHostLine (i : Instr) : Bool :=
    match i with
    | .data _ l => isHost (l.toNat * 256)
    | .inv _ l => isHost (l.toNat * 256)
    | _ => false

/-- The lanes a port trains (21 R435): 16 (code 15), or 8 at version 1.2 or later; in the alternative form of start step 14 only 8 (22 Table 22.1). 0: the
port stays down. -/
def trainedLanes (s : State) (ver lanes : Nat) : Nat :=
  let n := if lanes = 15 ∧ journalLast s 14 = 4 then 8 else lanes
  if n = 15 ∨ (n = 8 ∧ 0x12 ≤ ver) then n else 0

/-- The record of a port (21 R435). -/
def portRec (s : State) (p : Nat) : Port := if p = 0 then s.ports.1 else s.ports.2
def setPortRec (s : State) (p : Nat) (r : Port) : State := { s with ports := if p = 0 then (r, s.ports.2) else (s.ports.1, r) }

/-- A port has gone down for its failed replays (21 R435). -/
def Port.down (r : Port) : Bool := decide (32 ≤ r.fails)

/-- CW_PORT_TRAIN (21 R435, R441): the port trains, or stays down, as with a version that is none of R441: one whose training has failed stays down. After a
fall it retrains so once. Egress writes that waited for a port are released (R436). -/
def execCwPortTrain (port : BitVec 1) (ver : BitVec 8) (lanes : BitVec 4) (s : State) : Host.Outcome State Fault Refusal :=
  let p := port.toNat
  let r := portRec s p
  if r.retrained then .next s
  else
    let n := if ver.toNat < 0x10 ∨ 0x13 < ver.toNat then 0 else trainedLanes s ver.toNat lanes.toNat
    let s1 := mgmtPut (setPortRec s p (if n = 0 then ⟨r.fails, true⟩ else ⟨0, false⟩)) (0xB0008 + 8 * p) (if n = 0 then 0 else portWord ver.toNat n)
    .next (releaseEgress (changeCoherence (setCoh s1) (hostCoherent s)))

/-- CW_PORT_DOWN (21 R435): the 32nd failed replay in a row takes the port down; it may train once more. -/
def execCwPortDown (port : BitVec 1) (s : State) : Host.Outcome State Fault Refusal :=
  let p := port.toNat
  .next (changeCoherence (setCoh (mgmtPut (setPortRec s p { portRec s p with fails := 32 }) (0xB0008 + 8 * p) 0)) (hostCoherent s))

/-- CW_FLIT_REPLAY (21 R435, Table 21.4): counted; a message that comes over the port ends a row of them (log 27). -/
def execCwFlitReplay (port : BitVec 1) (s : State) : Host.Outcome State Fault Refusal :=
  let p := port.toNat
  let r := portRec s p
  let t := setPortRec (mgmtAdd s 0xB0020 1) p { r with fails := min 32 (r.fails + 1) }
  .next (if r.fails + 1 = 32 then raiseEvents t [.cwPortDown port] else t)

/-- The log without the primary event of a die. -/
def popLog (die : Nat) (l : List ErrEvent) : List ErrEvent :=
  match l with
  | [] => []
  | e :: r => if e.die.toNat = die then r else e :: popLog die r

/-- ERR_POP (18 R398): the primary event is retired, the next one becomes primary. -/
def execErrPop (die : BitVec 2) (s : State) : Host.Outcome State Fault Refusal := .next { s with errlog := popLog die.toNat s.errlog }

/-- ERR_OVF.OVF written 1: OVF and LOST clear (18 Table 18.3). -/
def execErrOvfClear (die : BitVec 2) (s : State) : Host.Outcome State Fault Refusal := .next (mgmtPut s (0x80030 + 0x100 * die.toNat) 0)

end Sys2Proof.Machine
end

