-- ==== Sys2Proof/Machine/Rollback.lean ====
section
/-! DEFINITION. Sys2Proof/Machine/Rollback.lean: the rollback of a domain (19 R414 to R417, Table 19.2). -/
namespace Sys2Proof.Machine

/-- Events that come from outside the domain, from released writes, or with messages of the host's cache: a rollback leaves them due. -/
def keptOnRollback (i : Instr) : Bool :=
  match i with
  | .graphCtlWrite _ _ => true
  | .remapWrite _ _ _ => true
  | .resDone => true
  | .invGo _ => true
  | .mgmtRegisterWrite _ _ => true
  | .errPop _ => true
  | .errOvfClear _ => true
  | .parRbGo _ => true
  | .fwUpdateGo _ _ _ => true
  | .fwHb _ => true
  | .rstCtlCold => true
  | .rstCtlWarm => true
  | .graphPost _ _ => true
  | .hostPostedWrite _ _ => true
  | .hostRead _ _ => true
  | .hostAtomic _ _ _ _ => true
  | .cwPortTrain _ _ _ => true
  | .cwPortDown _ => true
  | .cwFlitReplay _ => true
  | .straitLinkTrain _ _ _ _ _ => true
  | .straitLinkDown _ => true
  | .straitFlitReplay _ => true
  | .frameForward _ _ _ => true
  | .debugUnlock _ => true
  | .negotiateAlgorithms _ _ => true
  | .getMeasurements _ _ => true
  | .resetInput _ => true
  | .supplyFault => true
  | .referenceLoss => true
  | .thermalThrottle _ _ => true
  | .thermalRecover _ _ => true
  | .thermalTrip _ _ => true
  | .powerUp => true
  | .hbmActRefresh _ _ => true
  | .actParityError _ _ => true
  | .sectorPoison _ _ _ => true
  | .rds r _ => decide (r = 4)
  | .rdx r _ => decide (r = 4)
  | .upg r _ => decide (r = 4)
  | .wbd r _ _ => decide (r = 4)
  | .evc r _ => decide (r = 4)
  | .invack r _ => decide (r = 4)
  | .ack r _ _ => decide (r = 4)
  | .ackd r _ _ => decide (r = 4)
  | .data r _ => decide (r = 4)
  | .datae r _ => decide (r = 4)
  | .grante r _ => decide (r = 4)
  | .inv r _ => decide (r = 4)
  | .recalls r _ => decide (r = 4)
  | .recalli r _ => decide (r = 4)
  | .wback r _ => decide (r = 4)
  | _ => false

/-- A transaction goes on as one of the home die itself: its requester is gone. -/
def HomeReq.asHere (q : HomeReq) : HomeReq :=
  match q with
  | .rds _ => .here false
  | .rdx _ => .here true
  | .upg _ => .here true
  | x => x

/-- A request of the host's cache. -/
def HomeReq.fromHost (q : HomeReq) : Bool :=
  match q with
  | .rds r => decide (r = 4)
  | .rdx r => decide (r = 4)
  | .upg r => decide (r = 4)
  | .here _ => false

/-- A directory entry once no die holds its line: only what the host's cache holds, or has been asked for, stays. -/
def DirEntry.hostPart (e : DirEntry) : Option DirEntry :=
  let put : DirState → Option DirEntry := fun d => some { e with st := d }
  match e.st with
  | .shared m => if m.getLsbD 4 then put (.shared (agentBit 4)) else none
  | .owned o => if o = 4 then some e else none
  | .wi left q => if left.getLsbD 4 then put (.wi (agentBit 4) q.asHere) else if q = .upg 4 then put (.shared (agentBit 4)) else none
  | .wr o q rc w => if o = 4 then put (.wr o q.asHere rc w) else none
  | .wv m rc w => if m.getLsbD 4 then put (.wv (agentBit 4) rc w) else none

/-- The transaction that a directory entry carries. -/
def DirEntry.carries (e : DirEntry) : Option HomeReq :=
  match e.st with
  | .wi _ q => some q
  | .wr _ q _ _ => some q
  | _ => none

/-- Requests of the host's cache that waited for dies: they are served anew. -/
def hostRequests (s : State) : List Instr :=
  let inDir := s.dir.filterMap (fun e => e.carries.bind (fun q => if q.fromHost then some (q.event e.line) else none))
  inDir ++ (s.dirQueue.filter (fun q => q.2.fromHost)).map (fun q => q.2.event q.1)

/-- Step 1: every hart and engine stops, advice contexts end, placement queues and a seal in progress go. Step 2: the caches of the domain hold no line; the
host's is none of them. -/
def stopChip (s : State) : State :=
  { s with hart := Hart.absent, others := [], agent := if s.agent = .ozsis then .ozsis else .hart, arrivals := [], transfers := [], peers := [],
           collCounts := [], placeQ := [], resQ := [], pending := s.pending.filter keptOnRollback ++ hostRequests s, sealing := none, sealNext := false,
           fillReq := [], vsWaits := [], nc := [], rdc := s.rdc.filter (fun r => r.agent == 4), dir := s.dir.filterMap DirEntry.hostPart, dirQueue := [], turns := [],
           rollingBack := true }

/-- Insert an entry so that the newest tag comes first (19 Table 19.2 step 3); `n` is the sealed interval. -/
def insertNewest (n : W32) (e : VsEntry) (l : List VsEntry) : List VsEntry :=
  match l with
  | [] => [e]
  | f :: r => if (f.tag - n).toNat < (e.tag - n).toNat then e :: f :: r else f :: insertNewest n e r

/-- Undo entries tagged after the sealed interval, newest tag first. -/
def undoList (s : State) : List VsEntry :=
  (s.vs.filter (fun e => e.undo && !rinUpTo e.tag s.sealedRin)).foldl (fun acc e => insertNewest s.sealedRin e acc) []

/-- An entry writes its 64 bytes and poison state back to its sector. -/
def restoreEntry (s : State) (e : VsEntry) : State :=
  setPoison { s with mem := Store.write memDefault s.mem (e.sector * 64) (natBytes e.data.toNat 64) } e.sector e.poison

/-- A recorded node that is relaunched unless it is pinned (19 Table 19.2 step 8). -/
def NodeState.inFlight (x : NodeState) : Bool := x == .leased || x == .running || x == .done

/-- A node has been pinned, before or since its record. -/
def isPinned (s : State) (nd : Node) : Bool := nd.pinned || s.nodes.any (fun x => decide (x.num = nd.num) && x.pinned)

/-- Numbers of the recorded nodes that would be relaunched. -/
def relaunchable (s : State) : List Nat := (s.ckpt.nodes.filter (fun nd => nd.state.inFlight && !isPinned s nd)).map Node.num

/-- Held entries of some nodes. -/
def heldOf (s : State) (l : List Nat) : List VsEntry :=
  s.vs.filter (fun e => e.held && (match e.writer with
    | some k => l.contains k
    | none => false))

/-- A poisoned sector lies in a checkpoint region that erasure parity covers: whether its stripe is clean on the other members is not this chip's state,
so it is a free value (20 R431, log 25). -/
def parityCovers (s : State) (sector : Nat) : Bool :=
  parityOn s && (parSlice s sector).isSome && decide (mgmtGet s 0xA0428 >>> 32 ≠ 0) && Config.freeBit (s.free + sector)

/-- Pinned nodes that were in flight (19 R408). -/
def pinnedFlight (s : State) : List Nat := (s.ckpt.nodes.filter (fun nd => nd.state.inFlight && isPinned s nd)).map Node.num

/-- Entries that steps 3 and 4 write back when the nodes of a list fail. -/
def rewritten (s : State) (bad : List Nat) : List VsEntry := undoList s ++ heldOf s ((relaunchable s).filter (fun k => !bad.contains k))

/-- Consumptions in sectors that neither step rewrites (19 R417). -/
def notRewritten (s : State) (bad : List Nat) : List Consumed :=
  s.unrec.filter (fun u => !(rewritten s bad).any (fun e => decide (e.sector = u.sector)))

/-- Nodes that fail with cause 0x0C: pinned ones, and those whose consumption parity does not repair. What a node that fails has held is not written back, so
that more may fail; `fuel` rounds. -/
def failing (s : State) (fuel : Nat) : List Nat :=
  match fuel with
  | 0 => pinnedFlight s
  | f + 1 =>
    let l := failing s f
    pinnedFlight s ++ ((notRewritten s l).filter (fun u => !parityCovers s u.sector)).filterMap Consumed.node

/-- The nodes that fail in this rollback. -/
def failed (s : State) : List Nat := failing s (s.unrec.length + 1)

/-- Consumptions that cannot be rolled back. -/
def unrecoverable (s : State) : List Consumed := notRewritten s (failed s)

/-- A recorded node without a translation (04 R85). -/
def Node.untranslated (nd : Node) : Node := { nd with pages := [], advPages := [] }

/-- A recorded node at its relaunch: READY, in the state before it was leased. -/
def Node.relaunch (nd : Node) : Node :=
  { nd with state := .ready, sel := 8, nextWait := .none, cwWait := [], cwPage := false, cause := 0, resWait := false, asked := [], lease := [], asid := 0,
            pages := [], cores := [], nextTask := [], left := 0, endedTasks := 0, failedTasks := [], phase := 0, tags := [], writes := [], doneRin := 0,
            advText := 0, advSize := 0, advPages := [] }

/-- A node that fails at the rollback; a pinned one stays pinned. -/
def Node.failAt (s : State) (nd : Node) : Node :=
  { nd.relaunch with state := .failed, cause := 0x0C, doneRin := s.sealedRin + 1, pinned := isPinned s nd }

/-- The nodes of the checkpoint as the rollback leaves them (19 Table 19.2 step 8). -/
def restoredNodes (s : State) : List Node :=
  let bad := failed s
  let old := s.ckpt.nodes.map (fun nd =>
    if bad.contains nd.num then nd.failAt s
    else if nd.state.inFlight then { nd.relaunch with readyAt := s.clock } else { nd.untranslated with resWait := false, asked := [] })
  let late := s.nodes.filter (fun nd => bad.contains nd.num && !s.ckpt.nodes.any (fun x => decide (x.num = nd.num)))
  old ++ late.map (Node.failAt s)

/-- The node that a slot's armed word names now. -/
def armedTarget (s : State) (g : Nat) (va : Word) : Word :=
  match walk s (asidOf s g) (vpnOf va) with
  | .leaf e => BitVec.ofNat 64 (memNat s (leafPA e + va.toNat % 65536) 8)
  | _ => 0

/-- A slot after the rollback: as recorded while the graph was enabled then and is now, a main strand of its own at the root word of one enabled since
(03 R57); no armed word when it is disabled or names a node that fails here (19 R417). -/
def restoredSlot (s : State) (g : Nat) : Graph :=
  let on := (mgmtGet s (0x10000 + 0x20 * g)).getLsbD 0
  let was := (Store.get zeroOf s.ckpt.ctl g).getLsbD 0
  let x := if was then s.ckpt.graphs.getD g ⟨none, 0, []⟩ else ⟨some (mgmtGet s (0x10008 + 0x20 * g)), s.nextNode + g, []⟩
  let dead : Word → Bool := fun va => s.nodes.any (fun nd => decide (nd.slot.toNat = g) && (failed s).contains nd.num && decide (nd.addr = armedTarget s g va))
  if !on || x.armed.any dead then { x with armed := none } else x

/-- HALT and GRAPH_FAIL as recorded (03 R57). -/
def restoreHalt (s : State) (g : Nat) : State :=
  let off := 0x10000 + 0x20 * g
  mgmtPut (mgmtPut s off ((mgmtGet s off &&& ~~~(8 : Word)) ||| (Store.get zeroOf s.ckpt.ctl g &&& 8))) (off + 0x10) (Store.get zeroOf s.ckpt.fail g)

/-- A sector that parity rebuilds before step 9 (20 R431): its bytes come from chips that are not modelled, a free value, and it is no longer poisoned. -/
def rebuildSector (s : State) (sector : Nat) : State :=
  let d := (List.range 8).foldl (fun acc i => acc + (Config.freeWord (s.free + i)).toNat * 2 ^ (64 * i)) 0
  setPoison { s with mem := Store.write memDefault s.mem (sector * 64) (natBytes d 64), free := s.free + 8 } sector false

/-- Steps 3 to 7: memory, version store, egress buffers, scratchpads, counted lines. -/
def restoreMemory (s : State) : State :=
  let s1 := (rewritten s (failed s)).foldl restoreEntry s
  { s1 with vs := [], freed := [], egress := s1.egress.filter (fun e => rinUpTo e.tag s.sealedRin), spad := [], spadZero := [], counted := [] }

/-- Step 8: nodes, armed words and graphs. `s` is the state before the rollback, `t` after the steps before. -/
def restoreSched (s t : State) : State :=
  let t1 := (List.range 64).foldl restoreHalt { t with nodes := restoredNodes s, rot := s.ckpt.rot, rotUsed := s.ckpt.rotUsed }
  { t1 with graphs := (List.range 64).map (restoredSlot { s with mem := t.mem, poison := t.poison }), nextNode := t1.nextNode + 64 }

/-- An update in progress is abandoned (22 R450): where the new image was running, the old slot is active again and M[3] records it. -/
def abandonUpdate (s : State) : State :=
  match s.fw with
  | .await _ _ =>
    let s1 := mgmtPut s 0xC0090 (mgmtGet s 0xC0090 ^^^ 8)
    { s1 with fw := .idle, oz := { s1.oz with m := Store.set zeroOf s1.oz.m 3 (extendM (Store.get zeroOf s1.oz.m 3) (Store.get zeroOf s1.phys.digests 3)) } }
  | _ => { s with fw := .idle }

/-- A write to a data slice survives a rollback (20 R431): it is sealed, and no held entry that step 4 writes back is as old, unless the write has been applied to that
entry too. -/
def survives (s : State) (w : ParWrite) : Bool :=
  rinUpTo w.tag s.sealedRin
    && (w.stays || !(rewritten s (failed s)).any (fun e => e.held && decide (e.sector = w.sector) && !rinBefore w.tag e.tag))

/-- Parity work is abandoned, the committed generation stays, and DIRTY is as the surviving writes make it (20 R430, R431). -/
def abandonParity (s t : State) : State :=
  mgmtPut { t with parity := .idle, parWrites := s.parWrites.filter (survives s) } 0xA0428 (mgmtGet t 0xA0428 &&& ~~~(0x100 : Word))

/-- What the host and the graphs are told of consumptions that cannot be rolled back (19 R417): the word of a graph that a poisoned read has stopped is in
GRAPH_FAIL. `s0` is the state before the rollback. -/
def reportUnrec (s0 : State) (us : List Consumed) (s : State) : State :=
  us.foldl (fun t u =>
    let die := if u.sector < 2 ^ 46 then homeDie (u.sector * 64) else (u.sector - 2 ^ 46) / 2 ^ 20
    let t1 := interrupt t 3 die 0 (sectorAddr u.sector)
    match u.node, u.word with
    | none, some (g, va) =>
      if parityCovers s0 u.sector then t1 else mgmtPut (haltGraph t1 g.toNat va) (0x10010 + 0x20 * g.toNat) va
    | _, _ => t1) s

/-- Completion words and halts of the nodes that fail here, tagged with the interval that step 9 opens. -/
def reportFailed (bad : List Nat) (s : State) : State :=
  (s.nodes.filter (fun nd => bad.contains nd.num && nd.state == .failed)).foldl (fun t nd =>
    queueCword (haltGraph t nd.slot.toNat nd.addr) nd.num 15 0x0C) s

/-- What the scheduler goes on with: nodes, completion words that waited, armed words; and messages of the host that waited for a line. -/
def restartSched (s : State) : State :=
  let ev : List Instr := s.nodes.flatMap (fun nd =>
      (if nd.state == .posted || nd.state == .ready then [Instr.nodeReady nd.num] else [])
        ++ (if nd.nextWait ≠ .none then [Instr.nodeDone nd.num] else []))
    ++ ((List.range 64).filter (fun g => ((s.graphs.getD g ⟨none, 0, []⟩).armed).isSome)).map (fun g => Instr.followArmedWord (BitVec.ofNat 6 g))
  serveHost (wakeRetire (flushAll true (ev.foldl raiseOnce s)))

/-- The members that this chip tells (19 Table 19.2 step 1). -/
def tellRollback (s : State) : State := if isCoordinator s then sealFrames s 4 s.sealedRin else sealFrame s (coordinator s) 4 s.sealedRin

/-- The checkpoint as the running image reads it (22 R450, 21 R442): one of a version that it does not accept holds no field that it finds. -/
def acceptCkpt (s : State) : State :=
  if versionOk s.ckpt.version.toNat (Config.imageMinor (Store.get zeroOf s.phys.digests 3)) then s else { s with ckpt := Ckpt.empty }

/-- ROLLBACK (19 R414, Table 19.2). A seal that was abandoned is requested again for the interval that opens. -/
def execRollback (s0 : State) : Host.Outcome State Fault Refusal :=
  let s := acceptCkpt s0
  let n := s.sealedRin
  let us := unrecoverable s
  let covered := (us.map Consumed.sector).filter (parityCovers s)
  let s1 := restoreSched s (restoreMemory (stopChip (tellRollback s)))
  let s2 := covered.foldl rebuildSector (abandonParity s (abandonUpdate s1))
  let s3 := reportFailed (failed s) (reportUnrec s us (setRin s2 (n + 1)))
  let s4 := interrupt (mgmtAdd (bumpFree { s3 with unrec := [], rollingBack := false }) 0x90030 1) 6 0 0 0
  let s5 := restartSched (applyDeferred (leaseEnded s4))
  .next (if s.sealing.isSome then requestSeal s5 (n + 1) else s5)

end Sys2Proof.Machine
end

