-- ==== Sys2Proof/Machine/Power.lean ====
section
/-! DEFINITION. Sys2Proof/Machine/Power.lean: resets (23 R452 to R456), the start sequence with its journal (22 R445, R446, R448), the default remap table
(04 R78), the placement profile (12 R255), and throttling (23 R454). -/
namespace Sys2Proof.Machine

/-- The default remap of one die (04 R78): what each logical core takes, given the good cores and the cores taken so far. -/
def defaultCore (good : Nat → Bool) (taken : List Nat) (l : Nat) : Nat :=
  let load := fun (p : Nat) => (taken.filter (fun q => decide (q = p))).length
  let free := fun (p : Nat) => good p && !taken.contains p
  let least := fun (ps : List Nat) => ps.foldl (fun (b : Option Nat) p => if !good p then b else match b with
    | none => some p
    | some q => if load p < load q then some p else some q) none
  if good l then l
  else if free (64 + l / 16) then 64 + l / 16
  else match (upFrom 64 4).find? free with
    | some p => p
    | none => match least (upFrom (l / 4 * 4) 4 ++ (if l / 4 % 4 = 0 then [64 + l / 16] else [])) with
      | some p => p
      | none => (least (List.range 68)).getD 0x7F

/-- Logical cores in ascending order; a core carries those placed before. -/
def defaultRemap (good : Nat → Bool) : List Nat := (List.range 64).foldl (fun acc l => acc ++ [defaultCore good acc l]) []

/-- Good cores of a die, as CORE_GOOD shows them (04 Table 4.4). -/
def setCores (s : State) (die : Nat) (good : BitVec 68) : State :=
  let s1 := mgmtPut (mgmtPut s (0x20800 + 0x10 * die) (good.setWidth 64)) (0x20808 + 0x10 * die) ((good >>> 64).setWidth 64)
  let table := defaultRemap (fun p => good.getLsbD p)
  ((List.range 64).zip table).foldl (fun t q => mgmtPut t (0x20000 + 0x200 * die + 8 * q.1) (BitVec.ofNat 64 q.2)) s1

/-- How a start step runs (22 R448). -/
inductive StepMode where
  | primary
  | alternative
  | skipped
deriving DecidableEq, Repr

/-- Steps 9 to 13 are optional (22 Table 22.1). -/
def stepOptional (i : Nat) : Bool := decide (9 ≤ i ∧ i ≤ 13)

/-- The form in which a step runs, by its entry at the previous start, and whether it stays in its alternative form (22 R448). -/
def stepMode (i last : Nat) (kept retry : Bool) : StepMode :=
  if last = 2 then (if stepOptional i then .skipped else .alternative)
  else if kept && !retry then .alternative else .primary

/-- What an entry records: 1 passed, 2 failed, 3 skipped, 4 alternative passed; and whether the start stops there. -/
def stepResult (ph : Phys) (i : Nat) (m : StepMode) : Nat × Bool :=
  match m with
  | .skipped => (3, false)
  | .primary => if ph.primaryOk.getLsbD i then (1, false) else (2, !stepOptional i)
  | .alternative => if ph.altOk.getLsbD i then (4, false) else (2, true)

/-- Run the steps of a list in order: the results recorded, and whether the start stopped. Steps after a stop are not run. -/
def runSteps (ph : Phys) (last : Nat → Nat) (retry : Bool) (l : List Nat) : List (Nat × Nat) × Bool :=
  match l with
  | [] => ([], false)
  | i :: r =>
    let x := stepResult ph i (stepMode i (last i) (ph.altKept.getLsbD i) retry)
    if x.2 then ((i, x.1) :: r.map (fun j => (j, 0)), true)
    else
      let y := runSteps ph last retry r
      ((i, x.1) :: y.1, y.2)

/-- Steps that stay in their alternative form after a start: those that passed in it, and those kept before that this start did not run (22 R448). -/
def keptAfter (kept : BitVec 16) (res : List (Nat × Nat)) : BitVec 16 :=
  res.foldl (fun k x => if x.2 = 0 then k else if x.2 = 4 then k ||| BitVec.ofNat 16 (2 ^ x.1) else k &&& ~~~(BitVec.ofNat 16 (2 ^ x.1))) kept

/-- The journal after a start (22 R448, Table 22.5): LAST is what the start recorded, PREV what the start before it had. -/
def recordSteps (s : State) (last : Nat → Nat) (res : List (Nat × Nat)) : State :=
  res.foldl (fun t x => mgmtPut t (0xC0000 + 8 * x.1) (BitVec.ofNat 64 (x.2 + 256 * last x.1)))
    { s with phys := { s.phys with altKept := keptAfter s.phys.altKept res } }

/-- A start that runs no step: every entry shows that. -/
def recordNone (s : State) (last : Nat → Nat) : State := recordSteps s last ((upFrom 1 15).map (fun i => (i, 0)))

/-- Digest of the journal: its 15 registers in order (its storage's layout is the model's, log 30). -/
def journalDigest (s : State) : BitVec 256 := digestOf ((upFrom 1 15).flatMap (fun i => natBytes (mgmtGet s (0xC0000 + 8 * i)).toNat 8))

/-- Address at which start writes the placement profile: the bottom of die 0's scheduler region (04 R67; log 31). -/
def profileAddress : Nat := 0x1BF0000000

/-- Fields of the profile as start writes them (12 Table 12.1): narrows at least 1, ctier 0 to 3, distance classes 0 to 7, bytes 4 to 7 of a core zero. -/
def narrowsField (ph : Phys) (i : Nat) : List Byte := natBytes (max 1 (bytesNat (Store.read zeroOf ph.profile (0x10 + 2 * i) 2))) 2
def ctierField (ph : Phys) (d : Nat) : Byte := Store.get zeroOf ph.profile (0x1C + d) &&& 3
def coreField (ph : Phys) (l : Nat) : List Byte := (List.range 4).map (fun d => Store.get zeroOf ph.profile (0x40 + 8 * l + d) &&& 7) ++ [0, 0, 0, 0]

/-- The profile that start writes (12 Table 12.1): hbm bytes from the journal, the rest as measured. -/
def profileBytes (ph : Phys) (alt : Nat → Bool) : List Byte :=
  natBytes 0x464F5250 4 ++ natBytes 0x0100 2 ++ natBytes 0 2 ++ natBytes 2112 4 ++ (List.range 4).map (fun d => if alt (1 + d) then 1 else 0)
    ++ (List.range 6).flatMap (narrowsField ph) ++ (List.range 4).map (ctierField ph) ++ List.replicate 32 0 ++ (List.range 256).flatMap (coreField ph)

/-- Operating point of a die (23 R453): the lowest that passes its self-test, up to PWR_CTL.OPMAX, where 3 acts as 2. Where none up to OPMAX passes it is OPMAX
itself, which the spec leaves open (DESIGN CHOICE, log 55). -/
def selectPoint (ph : Phys) (opmax die : Nat) : Nat := min (nbits ph.op.toNat (2 * die) 2) (min opmax 2)

/-- The start steps have run: what they leave (22 Table 22.1). -/
def applySteps (s : State) (res : List (Nat × Nat)) (opmax : Nat → Nat) : State :=
  let code := fun (i : Nat) => ((res.find? (fun r => decide (r.1 = i))).map Prod.snd).getD 0
  let s1 := (List.range 4).foldl (fun t d =>
    setCores t d (if code (5 + d) = 4 then BitVec.ofNat 68 (nbits s.phys.good.toNat (68 * d) 68) else BitVec.allOnes 68)) s
  let s2 := if code 15 = 4 then (List.range 4).foldl (fun t d => mgmtPut t (0x90108 + 0x40 * d) 67305472) s1 else s1
  let ops := (List.range 4).foldl (fun acc d => acc + selectPoint s.phys (opmax d) d * 4 ^ d) 0
  let s3 := (List.range 4).foldl (fun t d => mgmtPut t (0xD0000 + 0x40 * d) (BitVec.ofNat 64 (nbits ops (2 * d) 2))) { s2 with opSel := BitVec.ofNat 8 ops }
  let p := profileBytes s.phys (fun i => decide (code i = 4))
  setProfHash (mgmtPut { s3 with mem := Store.write memDefault s3.mem profileAddress p } 0x50018 (BitVec.ofNat 64 profileAddress))

/-- The start stopped, or a signature failed: no core is good (22 R445, R448). -/
def stopStart (s : State) : State := (List.range 4).foldl (fun t d => setCores t d 0) { s with boot := .ozsisOnly }

/-- The stages from Ozsis on (22 R445): `s` is the module after the reset, `last`, `retry`, `opmax` what the registers held before it. -/
def startFromOzsis (s : State) (last : Nat → Nat) (retry : Bool) (opmax : Nat → Nat) : State :=
  let ph := s.phys
  let s1 := extendAt s 5 (digestOf [s.oz.lifecycle])
  if ph.sigOk.getLsbD 1 = false then stopStart (recordNone s1 last)
  else
    let s2 := extendAt s1 2 (Store.get zeroOf ph.digests 2)
    let r := runSteps ph last retry (upFrom 1 15)
    let s3 := recordSteps s2 last r.1
    let s4 := extendAt s3 4 (journalDigest s3)
    if r.2 then stopStart s4
    else
      let s5 := applySteps s4 r.1 opmax
      if ph.sigOk.getLsbD 2 then extendAt { s5 with boot := .running } 3 (Store.get zeroOf ph.digests 3) else stopStart s5

/-- Events from outside that a reset leaves due: writes of registers that have come before it are lost with what they wrote to. -/
def keptOnReset (i : Instr) : Bool :=
  match i with
  | .graphCtlWrite _ _ => false
  | .remapWrite _ _ _ => false
  | .resDone => false
  | .invGo _ => false
  | .mgmtRegisterWrite _ _ => false
  | .errPop _ => false
  | .errOvfClear _ => false
  | .parRbGo _ => false
  | .fwUpdateGo _ _ _ => false
  | .fwHb _ => false
  | .rstCtlCold => false
  | .rstCtlWarm => false
  | x => keptOnRollback x

/-- The slot whose image was committed: an update in progress ends with a reset. -/
def committedSlot (s : State) : Word :=
  let slot := mgmtGet s 0xC0090 &&& 8
  match s.fw with
  | .await _ _ => slot ^^^ 8
  | _ => slot

/-- State that every reset leaves but what it keeps (23 Table 23.4): every register at its reset value; the journal, the fuses, the active slot, the host's
memory, what has been sent, and the kind of the reset are kept. -/
def clearModule (s : State) (kind : Nat) : State :=
  let regs := (upFrom 1 15).foldl (fun acc i => Store.set mgmtReset acc (0xC0000 + 8 * i) (mgmtGet s (0xC0000 + 8 * i))) ([] : Store 64)
  let regs1 := (List.range 4).foldl (fun acc d => Store.set mgmtReset acc (0xD0018 + 0x40 * d) (BitVec.ofNat 64 kind)) regs
  freshNonce { State.reset with
    mem := s.mem.filter (fun e => isHost e.1), mgmt := Store.set mgmtReset regs1 0xC0090 (committedSlot s), nextNode := s.nextNode, nextHid := s.nextHid,
    nextXfer := s.nextXfer, hostOut := s.hostOut, straitOut := s.straitOut, phys := s.phys, pending := s.hostIn ++ s.pending.filter keptOnReset, sched := s.sched,
    free := s.free, oz := { Ozsis.reset with lifecycle := s.oz.lifecycle, dev := s.oz.dev, secret := s.oz.secret } }

/-- Values that the start reads before the registers reset. -/
def startInputs (s : State) : (Nat → Nat) × Bool × (Nat → Nat) :=
  (journalLast s, (mgmtGet s 0xC0080).getLsbD 0, fun d => (mgmtGet s (0xD0008 + 0x40 * d)).toNat % 4)

/-- Cold reset (23 R456, Table 23.4): device memory zero, poison cleared, the start runs from ROM (22 R445). When Ozsis fails verification the device
answers nothing. -/
def coldReset (s : State) (kind : Nat) : State :=
  let inp := startInputs s
  let s1 := clearModule s kind
  let s2 := extendAt s1 0 (digestOf (natBytes (Store.get zeroOf s.phys.digests 0).toNat 32 ++ [0, 4]))
  if s.phys.sigOk.getLsbD 0 then startFromOzsis (extendAt s2 1 (Store.get zeroOf s.phys.digests 1)) inp.1 inp.2.1 inp.2.2
  else { (stopStart (recordNone s2 inp.1)) with boot := .dead }

/-- MSC_MODE after a warm reset (11 R247): the mode asked for is in force. -/
def applyC2 (old s : State) : State :=
  (List.range 4).foldl (fun t d =>
    let c := mgmtGet old (0x40000 + 0x100 * d) &&& 1
    mgmtPut t (0x40000 + 0x100 * d) (c ||| (c <<< 1))) s

/-- Warm reset (23 R456, Table 23.4): device memory and poison are kept, unreleased egress entries and the version store go, nodes that were not SEALED are
lost, Ozsis runs on and the stages run from it. -/
def warmReset (s : State) (kind : Nat) : State :=
  let inp := startInputs s
  let s1 := clearModule s kind
  let s2 := applyC2 s { s1 with mem := s.mem, poison := s.poison, spadPoison := s.spadPoison, oz := s.oz, agent := if s.agent = .ozsis then .ozsis else .hart }
  if s.boot = .dead then { (stopStart (recordNone s2 inp.1)) with boot := .dead } else startFromOzsis s2 inp.1 inp.2.1 inp.2.2

/-- RST_CTL.COLD (23 R456). -/
def execRstCtlCold (s : State) : Host.Outcome State Fault Refusal := .next (coldReset s 1)

/-- RST_CTL.WARM (23 R456). -/
def execRstCtlWarm (s : State) : Host.Outcome State Fault Refusal := .next (warmReset s 2)

/-- RESET_INPUT (23 R456). -/
def execResetInput (cold : Bool) (s : State) : Host.Outcome State Fault Refusal := .next (if cold then coldReset s 1 else warmReset s 2)

/-- SUPPLY_FAULT (23 R452): a cold reset, kind 4. -/
def execSupplyFault (s : State) : Host.Outcome State Fault Refusal := .next (coldReset s 4)

/-- REFERENCE_LOSS (23 R455): a cold reset, kind 4. -/
def execReferenceLoss (s : State) : Host.Outcome State Fault Refusal := .next (coldReset s 4)

/-- POWER_UP (23 R452): the module starts cold from ROM. -/
def execPowerUp (s : State) : Host.Outcome State Fault Refusal := .next (coldReset s 1)

/-- PWR_STAT.TJ shows the hottest junction (23 Table 23.5). -/
def setTj (s : State) (die : Nat) (tj : BitVec 8) : State :=
  let off := 0xD0000 + 0x40 * die
  mgmtPut s off ((mgmtGet s off &&& ~~~(0xFF0000 : Word)) ||| (tj.setWidth 64 <<< 16))

/-- The die is throttled, or not, and moves to a point (23 R454). -/
def setPoint (s : State) (die : Nat) (throt : Bool) (op : Nat) : State :=
  let off := 0xD0000 + 0x40 * die
  mgmtPut s off ((mgmtGet s off &&& 0xFF0000) ||| BitVec.ofNat 64 ((if throt then 8 else 0) + op))

/-- THERMAL_THROTTLE (23 R454): at 100 °C the die moves to point 0 and sets THROT. -/
def execThermalThrottle (die : BitVec 2) (tj : BitVec 8) (s : State) : Host.Outcome State Fault Refusal :=
  let t := setTj s die.toNat tj
  .next (if tj.toNat < 100 then t else setPoint t die.toNat true 0)

/-- THERMAL_RECOVER (23 R454): below 90 °C the die returns to its selected point. -/
def execThermalRecover (die : BitVec 2) (tj : BitVec 8) (s : State) : Host.Outcome State Fault Refusal :=
  let t := setTj s die.toNat tj
  .next (if 90 ≤ tj.toNat then t else setPoint t die.toNat false (nbits s.opSel.toNat (2 * die.toNat) 2))

/-- THERMAL_TRIP (23 R454): at 110 °C a cold reset, kind 3. -/
def execThermalTrip (die : BitVec 2) (tj : BitVec 8) (s : State) : Host.Outcome State Fault Refusal :=
  .next (if tj.toNat < 110 then setTj s die.toNat tj else coldReset s 3)

end Sys2Proof.Machine
end

