-- ==== Sys2Proof/Machine/Scalar.lean ====
section
/-! DEFINITION. Sys2Proof/Machine/Scalar.lean: register and immediate ALU instructions, constants (06 R116 to R123), for a hart, an advice context
(06 R144) and Ozsis (22 R443). -/
namespace Sys2Proof.Machine

/-- Three-register form (06 R119): operands checked, the result written, the instruction retired. -/
def alu3 (d a b : BitVec 7) (f : Word → Word → Word) (s : State) : Host.Outcome State Fault Refusal :=
  if isS d && isS a && isS b then .next (s.setSreg d.toNat (f (s.sreg a.toNat) (s.sreg b.toNat))).retire
  else scalarFail s .illegalOperand 0

/-- Two-register form (06 R119): CLZ, CTZ, POPC. -/
def alu2 (d a : BitVec 7) (f : Word → Word) (s : State) : Host.Outcome State Fault Refusal :=
  if isS d && isS a then .next (s.setSreg d.toNat (f (s.sreg a.toNat))).retire else scalarFail s .illegalOperand 0

/-- Register and immediate form (06 R121). -/
def aluI (d a : BitVec 7) (i : BitVec 11) (f : Word → Word → Word) (s : State) : Host.Outcome State Fault Refusal :=
  if isS d && isS a then .next (s.setSreg d.toNat (f (s.sreg a.toNat) (imm11 i))).retire else scalarFail s .illegalOperand 0

/-- Shift immediate form (06 R122): registers named by six bits. -/
def aluSh (d a n : BitVec 6) (f : Word → Nat → Word) (s : State) : Host.Outcome State Fault Refusal :=
  .next (s.setSreg d.toNat (f (s.sreg a.toNat) n.toNat)).retire

/-- Shift and rotate amounts are b[5:0] (06 R119). -/
def shAmt (b : Word) : Nat := b.toNat % 64

def opShl (a : Word) (n : Nat) : Word := a <<< n
def opShr (a : Word) (n : Nat) : Word := a >>> n
def opSra (a : Word) (n : Nat) : Word := a.sshiftRight n
def opRotr (a b : Word) : Word := a.rotateRight (shAmt b)
def opSlt (a b : Word) : Word := if a.slt b then 1 else 0
def opSltu (a b : Word) : Word := if a.ult b then 1 else 0
def opMin (a b : Word) : Word := if a.slt b then a else b
def opMax (a b : Word) : Word := if a.slt b then b else a
def opMinu (a b : Word) : Word := if a.ult b then a else b
def opMaxu (a b : Word) : Word := if a.ult b then b else a
/-- Bits [127:64] of the signed and of the unsigned 128-bit product. -/
def opMulh (a b : Word) : Word := BitVec.ofInt 64 (a.toInt * b.toInt / 2 ^ 64)
def opMulhu (a b : Word) : Word := BitVec.ofNat 64 (a.toNat * b.toNat / 2 ^ 64)
/-- Division (06 R120, Table 6.2). -/
def opDiv (a b : Word) : Word := if b = 0 then BitVec.allOnes 64 else a.sdiv b
def opDivu (a b : Word) : Word := if b = 0 then BitVec.allOnes 64 else a / b
def opRem (a b : Word) : Word := if b = 0 then a else a.srem b
def opRemu (a b : Word) : Word := if b = 0 then a else a % b
/-- Leading zeros, trailing zeros, ones (06 Table 6.1). -/
def opClz (a : Word) : Word := if a = 0 then 64 else BitVec.ofNat 64 (63 - Nat.log2 a.toNat)
def ctzFrom (v n : Nat) : Nat :=
  match n with
  | 0 => 0
  | n + 1 => if v % 2 = 1 then 0 else 1 + ctzFrom (v / 2) n
def opCtz (a : Word) : Word := BitVec.ofNat 64 (ctzFrom a.toNat 64)
def opPopc (a : Word) : Word := BitVec.ofNat 64 (countOnes a.toNat 64)

/-- ADD: a + b (06 Table 6.1). -/
def execAdd (d a b : BitVec 7) (s : State) : Host.Outcome State Fault Refusal := alu3 d a b (fun x y => x + y) s

/-- SUB: a - b (06 Table 6.1). -/
def execSub (d a b : BitVec 7) (s : State) : Host.Outcome State Fault Refusal := alu3 d a b (fun x y => x - y) s

/-- AND: a and b (06 Table 6.1). -/
def execAnd (d a b : BitVec 7) (s : State) : Host.Outcome State Fault Refusal := alu3 d a b (fun x y => x &&& y) s

/-- OR: a or b (06 Table 6.1). -/
def execOr (d a b : BitVec 7) (s : State) : Host.Outcome State Fault Refusal := alu3 d a b (fun x y => x ||| y) s

/-- XOR: a xor b (06 Table 6.1). -/
def execXor (d a b : BitVec 7) (s : State) : Host.Outcome State Fault Refusal := alu3 d a b (fun x y => x ^^^ y) s

/-- ANDN: a and not b (06 Table 6.1). -/
def execAndn (d a b : BitVec 7) (s : State) : Host.Outcome State Fault Refusal := alu3 d a b (fun x y => x &&& ~~~y) s

/-- SHL: a shifted left by b[5:0] (06 Table 6.1). -/
def execShl (d a b : BitVec 7) (s : State) : Host.Outcome State Fault Refusal := alu3 d a b (fun x y => opShl x (shAmt y)) s

/-- SHR: a shifted right, zeros in (06 Table 6.1). -/
def execShr (d a b : BitVec 7) (s : State) : Host.Outcome State Fault Refusal := alu3 d a b (fun x y => opShr x (shAmt y)) s

/-- SRA: a shifted right, copies of a[63] in (06 Table 6.1). -/
def execSra (d a b : BitVec 7) (s : State) : Host.Outcome State Fault Refusal := alu3 d a b (fun x y => opSra x (shAmt y)) s

/-- ROTR: a rotated right by b[5:0] (06 Table 6.1). -/
def execRotr (d a b : BitVec 7) (s : State) : Host.Outcome State Fault Refusal := alu3 d a b (opRotr) s

/-- SLT: 1 if signed less (06 Table 6.1). -/
def execSlt (d a b : BitVec 7) (s : State) : Host.Outcome State Fault Refusal := alu3 d a b (opSlt) s

/-- SLTU: 1 if unsigned less (06 Table 6.1). -/
def execSltu (d a b : BitVec 7) (s : State) : Host.Outcome State Fault Refusal := alu3 d a b (opSltu) s

/-- MIN: signed smaller (06 Table 6.1). -/
def execMin (d a b : BitVec 7) (s : State) : Host.Outcome State Fault Refusal := alu3 d a b (opMin) s

/-- MAX: signed larger (06 Table 6.1). -/
def execMax (d a b : BitVec 7) (s : State) : Host.Outcome State Fault Refusal := alu3 d a b (opMax) s

/-- MINU: unsigned smaller (06 Table 6.1). -/
def execMinu (d a b : BitVec 7) (s : State) : Host.Outcome State Fault Refusal := alu3 d a b (opMinu) s

/-- MAXU: unsigned larger (06 Table 6.1). -/
def execMaxu (d a b : BitVec 7) (s : State) : Host.Outcome State Fault Refusal := alu3 d a b (opMaxu) s

/-- MUL: bits [63:0] of a b (06 Table 6.1). -/
def execMul (d a b : BitVec 7) (s : State) : Host.Outcome State Fault Refusal := alu3 d a b (fun x y => x * y) s

/-- MULH: bits [127:64], signed (06 Table 6.1). -/
def execMulh (d a b : BitVec 7) (s : State) : Host.Outcome State Fault Refusal := alu3 d a b (opMulh) s

/-- MULHU: bits [127:64], unsigned (06 Table 6.1). -/
def execMulhu (d a b : BitVec 7) (s : State) : Host.Outcome State Fault Refusal := alu3 d a b (opMulhu) s

/-- DIV: signed quotient (R120) (06 Table 6.1). -/
def execDiv (d a b : BitVec 7) (s : State) : Host.Outcome State Fault Refusal := alu3 d a b (opDiv) s

/-- DIVU: unsigned quotient (R120) (06 Table 6.1). -/
def execDivu (d a b : BitVec 7) (s : State) : Host.Outcome State Fault Refusal := alu3 d a b (opDivu) s

/-- REM: signed remainder (R120) (06 Table 6.1). -/
def execRem (d a b : BitVec 7) (s : State) : Host.Outcome State Fault Refusal := alu3 d a b (opRem) s

/-- REMU: unsigned remainder (R120) (06 Table 6.1). -/
def execRemu (d a b : BitVec 7) (s : State) : Host.Outcome State Fault Refusal := alu3 d a b (opRemu) s

/-- CLZ: leading zero bits (06 Table 6.1). -/
def execClz (d a : BitVec 7) (s : State) : Host.Outcome State Fault Refusal := alu2 d a opClz s

/-- CTZ: trailing zero bits (06 Table 6.1). -/
def execCtz (d a : BitVec 7) (s : State) : Host.Outcome State Fault Refusal := alu2 d a opCtz s

/-- POPC: one bits (06 Table 6.1). -/
def execPopc (d a : BitVec 7) (s : State) : Host.Outcome State Fault Refusal := alu2 d a opPopc s

/-- SEL: S[ra] if the old S[rd] is not 0, else S[rb] (06 Table 6.1). -/
def execSel (d a b : BitVec 7) (s : State) : Host.Outcome State Fault Refusal :=
  if isS d && isS a && isS b then
    .next (s.setSreg d.toNat (if s.sreg d.toNat ≠ 0 then s.sreg a.toNat else s.sreg b.toNat)).retire
  else scalarFail s .illegalOperand 0

/-- ADDI: with SExt(imm, 11) (06 R121). -/
def execAddi (d a : BitVec 7) (i : BitVec 11) (s : State) : Host.Outcome State Fault Refusal := aluI d a i (fun x y => x + y) s

/-- ANDI: with SExt(imm, 11) (06 R121). -/
def execAndi (d a : BitVec 7) (i : BitVec 11) (s : State) : Host.Outcome State Fault Refusal := aluI d a i (fun x y => x &&& y) s

/-- ORI: with SExt(imm, 11) (06 R121). -/
def execOri (d a : BitVec 7) (i : BitVec 11) (s : State) : Host.Outcome State Fault Refusal := aluI d a i (fun x y => x ||| y) s

/-- XORI: with SExt(imm, 11) (06 R121). -/
def execXori (d a : BitVec 7) (i : BitVec 11) (s : State) : Host.Outcome State Fault Refusal := aluI d a i (fun x y => x ^^^ y) s

/-- SLTI: with SExt(imm, 11) (06 R121). -/
def execSlti (d a : BitVec 7) (i : BitVec 11) (s : State) : Host.Outcome State Fault Refusal := aluI d a i (opSlt) s

/-- SHLI: shift by imm[5:0] (06 R122). -/
def execShli (d a n : BitVec 6) (s : State) : Host.Outcome State Fault Refusal := aluSh d a n opShl s

/-- SHRI: shift by imm[5:0] (06 R122). -/
def execShri (d a n : BitVec 6) (s : State) : Host.Outcome State Fault Refusal := aluSh d a n opShr s

/-- SRAI: shift by imm[5:0] (06 R122). -/
def execSrai (d a n : BitVec 6) (s : State) : Host.Outcome State Fault Refusal := aluSh d a n opSra s

/-- MOVI: S[rd] := SExt(imm, 18) (06 R123). -/
def execMovi (d : BitVec 7) (i : BitVec 18) (s : State) : Host.Outcome State Fault Refusal :=
  if isS d then .next (s.setSreg d.toNat (imm18 i)).retire else scalarFail s .illegalOperand 0

/-- MOVHI: S[rd] := (S[rd] << 18) or ZExt(imm, 18) (06 R123). -/
def execMovhi (d : BitVec 6) (i : BitVec 18) (s : State) : Host.Outcome State Fault Refusal :=
  .next (s.setSreg d.toNat ((s.sreg d.toNat <<< 18) ||| i.setWidth 64)).retire

/-- ADDPC: address of this instruction + 4 SExt(imm, 18) (06 R123). -/
def execAddpc (d : BitVec 6) (i : BitVec 18) (s : State) : Host.Outcome State Fault Refusal :=
  .next (s.setSreg d.toNat (s.front.pc + 4 * imm18 i)).retire

end Sys2Proof.Machine
end

