-- ==== Sys2Proof/Machine/ScalarMem.lean ====
section
/-! DEFINITION. Sys2Proof/Machine/ScalarMem.lean: scalar loads and stores (06 R124 to R127). On Ozsis they reach its private memory (22 R443); the sequencer
drops them (05 R111). -/
namespace Sys2Proof.Machine

/-- Address of a scalar access: S[ra] + SExt(imm, 11) (06 R124). -/
def memAddr (s : State) (a : BitVec 6) (i : BitVec 11) : Word := s.sreg a.toNat + imm11 i

/-- Extend a loaded number of n bytes to a register. -/
def extend (n : Nat) (signed : Bool) (v : Nat) : Word := if signed then BitVec.ofInt 64 (sval (8 * n) v) else BitVec.ofNat 64 v

/-- A scalar load on a hart (06 R125). -/
def hartLoad (n : Nat) (signed : Bool) (d : BitVec 6) (addr : Word) : X Unit := do
  let no ← xLoadNo 1
  xNeed (decide (addr.toNat % n = 0)) .misaligned addr
  xCheck addr.toNat n true false false
  xLoadEvent no addr.toNat
  let bs ← xLoad addr.toNat n
  xSetS d.toNat (extend n signed (bytesNat bs))
  xRetireLoad

/-- A scalar load of Ozsis from its private memory. -/
def ozLoad (n : Nat) (signed : Bool) (d : BitVec 6) (addr : Word) (s : State) : Host.Outcome State Fault Refusal :=
  if addr.toNat % n = 0 ∧ ozInside addr.toNat n = true then
    .next (s.setSreg d.toNat (extend n signed (bytesNat (ozRead s addr.toNat n)))).retire
  else .fault .ozsisAddress

/-- A scalar load of 1, 2, 4 or 8 bytes. -/
def scalarLoad (n : Nat) (signed : Bool) (d a : BitVec 6) (i : BitVec 11) (s : State) : Host.Outcome State Fault Refusal :=
  match s.agent with
  | .hart => runX (hartLoad n signed d (memAddr s a i)) s
  | .advice => .next (dropWord s)
  | .ozsis => ozLoad n signed d (memAddr s a i) s

/-- A scalar store on a hart (06 R125). -/
def hartStore (n : Nat) (addr : Word) (bs : List Byte) : X Unit := do
  xNeed (decide (addr.toNat % n = 0)) .misaligned addr
  xStore addr.toNat bs
  xRetire

def ozStore (n : Nat) (addr : Word) (bs : List Byte) (s : State) : Host.Outcome State Fault Refusal :=
  if addr.toNat % n = 0 ∧ ozInside addr.toNat n = true then .next (ozWrite s addr.toNat bs).retire else .fault .ozsisAddress

/-- A scalar store of 1, 2, 4 or 8 bytes. -/
def scalarStore (n : Nat) (d a : BitVec 6) (i : BitVec 11) (s : State) : Host.Outcome State Fault Refusal :=
  let bs := natBytes (s.sreg d.toNat).toNat n
  match s.agent with
  | .hart => runX (hartStore n (memAddr s a i) bs) s
  | .advice => .next (dropWord s)
  | .ozsis => ozStore n (memAddr s a i) bs s

/-- LDB (06 Table 6.3): SExt of 1 byte. -/
def execLdb (d a : BitVec 6) (i : BitVec 11) (s : State) : Host.Outcome State Fault Refusal := scalarLoad 1 true d a i s

/-- LDBU (06 Table 6.3): ZExt of 1 byte. -/
def execLdbu (d a : BitVec 6) (i : BitVec 11) (s : State) : Host.Outcome State Fault Refusal := scalarLoad 1 false d a i s

/-- LDH (06 Table 6.3): SExt of 2 bytes. -/
def execLdh (d a : BitVec 6) (i : BitVec 11) (s : State) : Host.Outcome State Fault Refusal := scalarLoad 2 true d a i s

/-- LDHU (06 Table 6.3): ZExt of 2 bytes. -/
def execLdhu (d a : BitVec 6) (i : BitVec 11) (s : State) : Host.Outcome State Fault Refusal := scalarLoad 2 false d a i s

/-- LDW (06 Table 6.3): SExt of 4 bytes. -/
def execLdw (d a : BitVec 6) (i : BitVec 11) (s : State) : Host.Outcome State Fault Refusal := scalarLoad 4 true d a i s

/-- LDWU (06 Table 6.3): ZExt of 4 bytes. -/
def execLdwu (d a : BitVec 6) (i : BitVec 11) (s : State) : Host.Outcome State Fault Refusal := scalarLoad 4 false d a i s

/-- LDD (06 Table 6.3): 8 bytes. -/
def execLdd (d a : BitVec 6) (i : BitVec 11) (s : State) : Host.Outcome State Fault Refusal := scalarLoad 8 false d a i s

/-- STB (06 Table 6.3): stores 1 byte. -/
def execStb (d a : BitVec 6) (i : BitVec 11) (s : State) : Host.Outcome State Fault Refusal := scalarStore 1 d a i s

/-- STH (06 Table 6.3): stores 2 bytes. -/
def execSth (d a : BitVec 6) (i : BitVec 11) (s : State) : Host.Outcome State Fault Refusal := scalarStore 2 d a i s

/-- STW (06 Table 6.3): stores 4 bytes. -/
def execStw (d a : BitVec 6) (i : BitVec 11) (s : State) : Host.Outcome State Fault Refusal := scalarStore 4 d a i s

/-- STD (06 Table 6.3): stores 8 bytes. -/
def execStd (d a : BitVec 6) (i : BitVec 11) (s : State) : Host.Outcome State Fault Refusal := scalarStore 8 d a i s

/-- LDP on a hart (06 R125): 16 bytes into the pair rd, rd + 1. -/
def hartLoadPair (d : BitVec 6) (addr : Word) : X Unit := do
  let no ← xLoadNo 1
  xOperands (decide (d.toNat % 2 = 0))
  xNeed (decide (addr.toNat % 16 = 0)) .misaligned addr
  xCheck addr.toNat 16 true false false
  xLoadEvent no addr.toNat
  let bs ← xLoad addr.toNat 16
  xMod (fun s => s.setFront (s.front.wrPair d.toNat (BitVec.ofNat 128 (bytesNat bs))))
  xRetireLoad

/-- LDP (06 Table 6.3). -/
def execLdp (d a : BitVec 6) (i : BitVec 11) (s : State) : Host.Outcome State Fault Refusal :=
  let addr := memAddr s a i
  match s.agent with
  | .hart => runX (hartLoadPair d addr) s
  | .advice => .next (dropWord s)
  | .ozsis =>
    if d.toNat % 2 ≠ 0 then .fault .ozsisWord
    else if addr.toNat % 16 = 0 ∧ ozInside addr.toNat 16 = true then
      .next (s.setFront (s.front.wrPair d.toNat (BitVec.ofNat 128 (bytesNat (ozRead s addr.toNat 16))))).retire
    else .fault .ozsisAddress

/-- STP (06 Table 6.3): the 16 bytes of the pair. -/
def execStp (d a : BitVec 6) (i : BitVec 11) (s : State) : Host.Outcome State Fault Refusal :=
  let addr := memAddr s a i
  let bs := natBytes (s.front.rdPair d.toNat).toNat 16
  match s.agent with
  | .hart => runX (do
      xOperands (decide (d.toNat % 2 = 0))
      hartStore 16 addr bs) s
  | .advice => .next (dropWord s)
  | .ozsis => if d.toNat % 2 ≠ 0 then .fault .ozsisWord else ozStore 16 addr bs s

end Sys2Proof.Machine
end

