-- ==== Sys2Proof/Machine/Strait.lean ====
section
/-! DEFINITION. Sys2Proof/Machine/Strait.lean: Strait links and frames (20 R423 to R425), parity builds and rebuilds (20 R429 to R432). What other chips hold
is not this machine's state: bytes that come from them are free values (log 25). -/
namespace Sys2Proof.Machine

/-- The start failed or skipped the step that trains the links: they stay down (22 Table 22.1 step 13). -/
def linksStayDown (s : State) : Bool := decide (journalLast s 13 = 2 ∨ journalLast s 13 = 3)

/-- Chips that this chip reaches through a port (20 R424). -/
def routedBy (s : State) (port : Nat) : List Nat := (List.range 64).filter (fun c => decide ((mgmtGet s (0xA0100 + 8 * c)).toNat % 32 = port))

/-- A mask of chips. -/
def chipMask (l : List Nat) : BitVec 64 := l.foldl (fun acc c => acc ||| BitVec.ofNat 64 (2 ^ c)) 0

/-- STRAIT_LINK_TRAIN (20 R423, R425): version 1.0 trains 8 lanes, 1.1 also 4; with any other a link stays down. DOMX where the domains differ or the peer is
no member. A chip that a link within the domain reaches, at its end or by route, is no longer lost. -/
def execStraitLinkTrain (port : BitVec 4) (peer : BitVec 6) (dom : BitVec 64) (ver : BitVec 8) (lanes : BitVec 4) (s : State) :
    Host.Outcome State Fault Refusal :=
  let off := 0xA0000 + 8 * port.toNat
  let s0 := { s with straitFails := Store.set zeroOf s.straitFails port.toNat 0 }
  if ((ver.toNat = 0x10 ∧ lanes = 8) ∨ (ver.toNat = 0x11 ∧ (lanes = 8 ∨ lanes = 4))) ∧ linksStayDown s = false then
    let own := mgmtGet s 0x90010
    let domx := decide (dom ≠ own) || !own.getLsbD peer.toNat
    let s1 := mgmtPut s0 off (BitVec.ofNat 64 (1 + (if domx then 2 else 0) + lanes.toNat * 16 + ver.toNat * 256 + peer.toNat * 65536))
    .next (if domx then s1 else { s1 with lost := s1.lost &&& ~~~(chipMask (peer.toNat :: routedBy s port.toNat)) })
  else .next (mgmtPut s0 off 0)

/-- STRAIT_LINK_DOWN (20 R424, 19 R413): members whose seal messages went over the link are lost, and the others roll back. -/
def execStraitLinkDown (port : BitVec 4) (s : State) : Host.Outcome State Fault Refusal :=
  let off := 0xA0000 + 8 * port.toNat
  let l := mgmtGet s off
  let gone := (routedBy s port.toNat).filter (fun c => decide (c ≠ selfChip s) && (members s).getLsbD c)
  let s1 := { (mgmtPut s off 0) with straitFails := Store.set zeroOf s.straitFails port.toNat 0 }
  .next (if l.getLsbD 0 && !l.getLsbD 1 then loseChips s1 gone else s1)

/-- STRAIT_FLIT_REPLAY (20 R424, Table 20.2): counted; the sixteenth in a row takes the link down. -/
def execStraitFlitReplay (port : BitVec 4) (s : State) : Host.Outcome State Fault Refusal :=
  let n := (Store.get zeroOf s.straitFails port.toNat).toNat + 1
  let s1 := { (mgmtAdd s 0xA0300 1) with straitFails := Store.set zeroOf s.straitFails port.toNat (BitVec.ofNat 8 (min n 16)) }
  .next (if n = 16 then raiseEvents s1 [.straitLinkDown port] else s1)

/-- FRAME_FORWARD (20 R424): sent on by this chip's route table, or lost. A frame for this chip is not sent on: what it brings is an event of its own. -/
def execFrameForward (dst : BitVec 6) (cls : BitVec 2) (body : List (BitVec 8)) (s : State) : Host.Outcome State Fault Refusal :=
  .next (if dst.toNat = selfChip s then s else sendFrame s dst.toNat cls.toNat body)

/-- Parity data of a sector: what the other chips' slices make of it is a free value. -/
def parityData (s : State) : BitVec 512 :=
  BitVec.ofNat 512 ((List.range 8).foldl (fun acc i => acc + (Config.freeWord (s.free + i)).toNat * 2 ^ (64 * i)) 0)

/-- A step of the collective engines for parity: sectors from an address on, tagged like every write (19 R402, R404); what it waits for, if anything. `copy`
names the distance below at which the same bytes have been written, if they have. -/
def parityRun (copy : Option Nat) (s : State) (pa n : Nat) : Except Stall State :=
  match n with
  | 0 => .ok s
  | k + 1 =>
    let die := homeDie pa
    if vsFull s die then .error (.space die (rinOf s die))
    else match cohWrite s die (pa / 256) (pa / 64) with
      | none => .error (.line die (pa / 64) true)
      | some t =>
        let d := copy.elim (parityData t) (fun c => sectorData t ((pa - c) / 64))
        parityRun copy { (writeHome t pa (natBytes d.toNat 64) (rinOf t die) none none) with free := t.free + 8 } (pa + 64) k

/-- The slice that has been written stays from now on (20 R430): no rollback takes it back. -/
def keepSlice (s : State) (pa size : Nat) : State :=
  let inside : VsEntry → Bool := fun e => decide (pa ≤ e.sector * 64 ∧ e.sector * 64 < pa + size)
  { s with vs := (updWhere inside (fun e => { e with undo := false }) s.vs).filter VsEntry.live }

/-- A build is committed (20 R430); DIRTY shows the writes tagged after it (R431), and a seal that waited for it goes on. -/
def commitBuild (s0 : State) (n : W32) (gen : Bool) : State :=
  let size := (mgmtGet s0 0xA0410).toNat
  let s := keepSlice s0 ((mgmtGet s0 0xA0408).toNat + (if gen then size else 0)) size
  let t := parStat { s with parity := .idle, parGen := gen, parWrites := s.parWrites.filter (fun w => !rinUpTo w.tag n) } (n.setWidth 64)
  match t.sealing with
  | some x => if x.stage = 5 then raiseOnce t (.sealed x.n) else t
  | none => t

/-- PARITY_BUILD_DONE (20 R430): a step of at most 65,536 bytes of the build; when every member has written its slice, the new generation becomes committed. -/
def execParityBuildDone (s : State) : Host.Outcome State Fault Refusal :=
  match s.parity with
  | .build n gen done =>
    let size := (mgmtGet s 0xA0410).toNat
    let base := (mgmtGet s 0xA0408).toNat + (if gen then size else 0)
    let k := min 65536 (size - done)
    match parityRun none s (base + done) (k / 64) with
    | .error q => .next (applyStall s q)
    | .ok t => .next (if size ≤ done + k ∧ groupWhole s = true then commitBuild t n gen else { t with parity := .build n gen (done + k) })
  | _ => .next s

/-- Rank of a chip in the parity group (20 R429). -/
def parityRank (s : State) (chip : Nat) : Nat := countOnes (mgmtGet s 0xA0418).toNat chip

/-- A stripe other than the lost chip's that is not clean on this member (20 R431, Table 20.1 step 4). -/
def dirtyStripe (s : State) (lost : Nat) : Bool :=
  let r := parityRank s (selfChip s)
  (List.range 8).any (fun j => decide (j ≠ parityRank s lost ∧ j ≠ r) && nbit (parDirty s) (if j < r then j else j - 1))

/-- PAR_RB_GO (20 Table 20.1 steps 3 and 4): LOST is taken; the rebuild is refused when some stripe is not clean here or, a free value, on another member.
While parity work runs, or for a chip that is no other member of the group, nothing starts. -/
def execParRbGo (v : BitVec 64) (s : State) : Host.Outcome State Fault Refusal :=
  let s1 := mgmtPut s 0xA0430 (v &&& 0x7E)
  let lost := nbits v.toNat 1 6
  if s.parity ≠ .idle ∨ parityOn s = false ∨ (mgmtGet s 0xA0418).getLsbD lost = false ∨ lost = selfChip s then .next s1
  else if dirtyStripe s lost || Config.freeBit s.free then .next (bumpFree (mgmtPut s1 0xA0428 (mgmtGet s 0xA0428 ||| 0x200)))
  else .next (bumpFree (mgmtPut { s1 with parity := .rebuild (BitVec.ofNat 6 lost) } 0xA0428 ((mgmtGet s 0xA0428 ||| 0x100) &&& ~~~(0x200 : Word))))

/-- Where byte `i` of a replacement's region and parity area lies (20 R429): seven data slices, then two generations. -/
def areaAt (s : State) (i : Nat) : Nat :=
  let size := (mgmtGet s 0xA0410).toNat
  if i < 7 * size then (mgmtGet s 0xA0400).toNat + i else (mgmtGet s 0xA0408).toNat + (i - 7 * size)

/-- A step of the engines on the replacement (20 Table 20.1 step 5): the second generation of its parity takes the bytes of the first. At its end the open interval
is to be sealed. -/
def restoreArea (s : State) (done : Nat) : State :=
  let size := (mgmtGet s 0xA0410).toNat
  let total := 9 * size
  let k := min 65536 (total - done)
  match parityRun (if 8 * size ≤ done then some size else none) s (areaAt s done) (k / 64) with
  | .error q => applyStall s q
  | .ok t => if total ≤ done + k then requestSeal { t with parity := .restored (rinOf t 0) } (rinOf t 0) else { t with parity := .restore (done + k) }

/-- The rebuild of a chip that PAR_RB of another chip has begun reaches this one (20 Table 20.1): the chip that SEAL_SELF makes the lost one is the replacement, any
other member of the group a survivor; BUSY is 1 on each. A survivor some of whose stripes are not clean lets none begin (step 4). -/
def joinRebuild (s : State) (lost : BitVec 6) : State :=
  let busy : State → State := fun t => mgmtPut t 0xA0428 (mgmtGet t 0xA0428 ||| 0x100)
  if s.parity ≠ .idle ∨ parityOn s = false ∨ (mgmtGet s 0xA0418).getLsbD lost.toNat = false then s
  else if lost.toNat = selfChip s then busy { s with parity := .restore 0 }
  else if dirtyStripe s lost.toNat then s
  else busy { s with parity := .rebuild lost }

/-- REBUILD_DONE (20 Table 20.1 steps 5 and 6), once the lost chip is back and data reaches every member: on a survivor the slices of the lost chip are rebuilt and the
open interval is sealed; BUSY clears and leasing resumes with that seal. On the replacement a step of the engines writes its region and parity area. -/
def execRebuildDone (s : State) : Host.Outcome State Fault Refusal :=
  if groupWhole s = false then .next s
  else match s.parity with
    | .rebuild _ => .next (requestSeal { s with parity := .finish (rinOf s 0) } (rinOf s 0))
    | .restore done => .next (restoreArea s done)
    | _ => .next s

end Sys2Proof.Machine
end

