-- ==== Sys2Proof/Machine/Turn.lean ====
section
/-! DEFINITION. Sys2Proof/Machine/Turn.lean: which agent or event moves next (log 6, log 7), the inputs (log 7), the fetch of each agent (06 R130, 12 R258, 22
R443), and what a word that is no instruction does (05 R110, R111). -/
namespace Sys2Proof.Machine

/-- What happens next: an event, a word of the current agent, or nothing more than a change of state. -/
inductive Turn where
  | event (i : Instr) (s : State)
  | run (s : State)
  | idle (s : State)

/-- The current agent has a word to execute. A context whose watchdog count is zero has none (12 R262). -/
def agentReady (s : State) : Bool :=
  match s.agent with
  | .hart => s.hart.status == .running
  | .advice => s.hart.resident && s.hart.adv.status == .ready && s.hart.adv.wdog != 0
  | .ozsis => s.boot != .dead

/-- Harts whose instruction waits to issue (15 R341, 11 R236) try it again after an event. -/
def releaseRetry (s : State) : State := updHarts s (fun h => h.wait == .retry) (fun h => { h with status := .running, wait := .none })

/-- Take the event that is due first. -/
def firstDue (s : State) : Option Turn :=
  match s.pending with
  | [] => none
  | i :: r => some (.event i (releaseRetry { s with pending := r }))

/-- Make a hart current, with one of its agents. -/
def chooseAgent (s : State) (h : Nat) (a : Agent) : State := { focus s h with agent := a }

/-- A die's RDC gives up the sectors of a line of an NC page: the written bytes go home (11 R241). -/
def evictNc (s : State) (die line : Nat) : State :=
  let mine : NcCopy → Bool := fun c => decide (c.die.toNat = die) && decide (c.sector / 4 = line)
  let t := (s.nc.filter mine).foldl ncWriteBack s
  { t with nc := t.nc.filter (fun c => !mine c) }

/-- The host writes a device line that it owns (11 Table 11.5, R240; 21 R437): E becomes M, the sector is dirty. The data, held once at home (log 5), are those that its
WbD or AckD brings; they carry no tag (19 R405). Messages of the host that waited for its store are tried again (21 R438). -/
def hostStore (s : State) (pa : Nat) (bytes : List Byte) : State :=
  match rdcOf s 4 (pa / 256) with
  | some r =>
    if deviceMem s pa && hostCoherent s && (r.st == .e || r.st == .m) && decide (pa % 64 + bytes.length ≤ 64) then
      serveHost (writeUntagged (dirtySector s 4 (pa / 256) (pa / 64)) pa bytes none)
    else s
  | none => s

/-- An error in a die's copy of a sector (18 R391, R395): the copy of an NC sector, or a valid sector of a coherent line, whose data are held once (log 5). -/
def poisonCopy (s : State) (die sector : Nat) (unit : BitVec 16) : State :=
  match ncOf s die sector with
  | some c => sectorPoisoned (setNc s die sector (some { c with poison := true })) die sector unit
  | none =>
    if (rdcOf s die (sector / 4)).any (fun r => r.valid.getLsbD (sector % 4)) && isDeviceMem (sector * 64) then
      sectorPoisoned (setPoison s sector true) die sector unit
    else s

/-- What an input does. -/
def applyInput (s : State) (i : Input) : State :=
  match i with
  | .evict agent line => if agent = 5 then endCount s line else evictLine (evictNc s agent.toNat line) agent line
  | .corrected die unit pa => bumpFree (logEvent s die.toNat 1 unit.toNat pa (Config.freeWord s.free))
  | .strike hid => (hartOf s hid).elim s (fun h => if h.resident then escalate s (h.lcore.toNat / 64) 5 h.lcore.toNat 0 else s)
  | .tileError hid cell =>
    updHarts s (fun h => decide (h.hid = hid) && h.resident) (fun h => { h with mat := { h.mat with bad := Store.set zeroOf h.mat.bad cell 1 } })
  | .storeError sector unit =>
    if s.vs.any (fun e => decide (e.sector = sector)) then
      sectorPoisoned { s with vs := updWhere (fun e => decide (e.sector = sector)) (fun e => { e with poison := true }) s.vs } (homeDie (sector * 64)) sector unit
    else s
  | .copyError die sector unit => poisonCopy s die.toNat sector unit
  | .laneError hid n => updHarts s (fun h => decide (h.hid = hid) && h.resident) (fun h => { h with lane := n })
  | .fuses ok => { s with phys := { s.phys with fusesOk := ok } }
  | .spdmVersion v13 => { s with oz := { s.oz with spdm13 := v13 } }
  | .rebuild x => joinRebuild s x
  | .peer c => peerArrives s c
  | .peerEnd c => peerEnds s c
  | .hostData pa bytes => hostStore s pa.toNat bytes

/-- When the bounded wait of a hart ends (06 R143, 15 R351, 16 R367), and its watchdog (18 R386). A context that is switched out has only its PARK. -/
def hartEnds (s : State) (h : Hart) : List (Nat × Instr) :=
  let lim := (mgmtGet s 0x70010).toNat
  (match h.wait with
    | .park n => [(h.since + n, .parkExpiry h.hid)]
    | .bwait _ _ _ b _ => if h.out || b == BitVec.allOnes 48 then [] else [(h.since + b.toNat, .bwaitDeadline h.hid)]
    | .monwait _ b => if h.out || b == BitVec.allOnes 64 then [] else [(h.since + b.toNat, .monwaitTimeout h.hid)]
    | _ => [])
    ++ (if h.resident && decide (lim ≠ 0) then [(h.retiredAt + lim, .hartWatchdog h.hid)] else [])

/-- When a collective without its match ends (15 R338). -/
def collEnds (s : State) : List (Nat × Instr) :=
  let lim := (mgmtGet s 0xA0440).toNat
  if lim = 0 then []
  else (s.transfers.filter (fun t => t.kind == .coll && !t.matched && !collMet s t)).map (fun t => (t.since + lim, .collTimeout t.num))

/-- When a missing vote loses its chip (19 R413): SEAL_TMO microseconds of 1,400 control cycles (00 R6). -/
def voteEnds (s : State) : List (Nat × Instr) :=
  match s.sealing with
  | none => []
  | some x =>
    if isCoordinator s then
      ((memberList s).filter (fun c => decide (c ≠ selfChip s) && !x.votes.getLsbD c)).map
        (fun c => (x.since + max 1000 ((mgmtGet s 0x90008).toNat % 2 ^ 32) * 1400, .voteTimeout (BitVec.ofNat 6 c)))
    else []

/-- When an update times out (22 Table 22.2): FW_QTMO, and 50 ms without a heartbeat. -/
def fwEnds (s : State) : List (Nat × Instr) :=
  match s.fw with
  | .quiesce _ r => [(r + (mgmtGet s 0xC0088).toNat % 2 ^ 32, .fwQuiesceTimeout)]
  | .await _ r => [(r + 50000 * 1400, .fwHbTimeout)]
  | _ => []

/-- The bounded waits, with the round in which each ends. -/
def deadlines (s : State) : List (Nat × Instr) := (allHarts s).flatMap (hartEnds s) ++ collEnds s ++ voteEnds s ++ fwEnds s

/-- The wait that ends first, the first on a tie. -/
def firstEnd (l : List (Nat × Instr)) : Option (Nat × Instr) :=
  match l with
  | [] => none
  | a :: r => match firstEnd r with
    | none => some a
    | some b => if b.1 < a.1 then some b else some a

/-- The commands that their engines serve now, and collectives whose match can be made (15 R332, R338). -/
def engineEvents (s : State) : List Instr :=
  (s.transfers.filter (isHead s)).map nextStep ++ (s.transfers.filter (collReady s)).map (fun t => .collMatch t.num)

/-- One of a list, by the round. -/
def turnOf (s : State) (l : List Instr) : Option Instr := l[(s.clock / 4) % l.length]?

/-- A hart that is switched out could run: it is ready, or what it waits for has come true (15 R351, 16 R367, 19 R420). -/
def wantsCore (s : State) (h : Hart) : Bool :=
  h.alive && h.out && (match h.wait with
    | .none => true
    | .bwait _ op p b moved => (bwaitStatus (barObject s h op) p moved (b != BitVec.allOnes 48 && decide (h.since + b.toNat ≤ s.clock))).isSome
    | .monwait _ _ => true
    | .xfers => true
    | .sealWait _ _ _ => sealMet s { h with out := false }
    | _ => false)

/-- Harts that could run and are not resident. -/
def wanting (s : State) : List Hart := (allHarts s).filter (wantsCore s) ++ s.arrivals

/-- A shared physical core whose resident harts have all parked or ended, while a hart of another logical core of it could run (04 R79). -/
def sliceFor (s : State) (h : Hart) : Option Instr :=
  let die := h.lcore.toNat / 64
  let phys := remapOf s h.lcore.toNat
  if sharedCore s h.lcore.toNat && (coreHarts s die phys).all (fun x => decide (x.lcore ≠ h.lcore) && !x.holdsSlot && !x.readyParked) then
    some (.timeSlice (BitVec.ofNat 2 die) (BitVec.ofNat 7 phys))
  else none

/-- TSLICE_Q (04 R79): at least 2^16 control cycles. -/
def quantum (s : State) : Nat := max 0x10000 ((mgmtGet s 0x20888).toNat % 2 ^ 32)

/-- Physical cores whose quantum ends while another of their logical cores has a hart that could run (04 R79). -/
def slicesDue (s : State) : List Instr :=
  let due := (wanting s).filterMap (fun h =>
    let die := h.lcore.toNat / 64
    let phys := remapOf s h.lcore.toNat
    if (coreHarts s die phys).any (fun x => decide (x.lcore ≠ h.lcore)) then some (Instr.timeSlice (BitVec.ofNat 2 die) (BitVec.ofNat 7 phys)) else none)
  due.eraseDups

/-- A placement request can be met, or discarded, now (12 R266, 04 R84), or is to wait for space (19 R406). -/
def placeReady (s : State) (q : PlaceReq) : Bool :=
  let a := q.asid.toNat
  let v := q.vpn.toNat
  let d := q.target.toNat
  !pageHeld s a v && (match walk s a v with
    | .leaf e =>
      if isDeviceMem (leafPA e) && !systemArea (leafPA e) && decide (homeDie (leafPA e) ≠ d) && isDeviceMem (leafAddress s a v) then canMove s a v e d && (moveRoom s d || !waitsSpace s (moveShort s d)) else true
    | _ => true)

/-- The first placement request that can go on. -/
def placeDue (s : State) : Option Instr := (s.placeQ.find? (placeReady s)).map (fun q => .migratePage q.asid q.vpn q.target)

/-- A parity step finds room where it writes next, or is to wait for it (19 R406). -/
def parityStep (s : State) : Option Instr :=
  let room : Nat → Bool := fun pa => !vsFull s (homeDie pa) || !waitsSpace s (homeDie pa)
  match s.parity with
  | .build _ gen done =>
    let size := (mgmtGet s 0xA0410).toNat
    if (decide (done < size) && room ((mgmtGet s 0xA0408).toNat + (if gen then size else 0) + done)) || (decide (size ≤ done) && groupWhole s) then
      some .parityBuildDone else none
  | .rebuild _ => if groupWhole s then some .rebuildDone else none
  | .restore done => if groupWhole s && room (areaAt s done) then some .rebuildDone else none
  | _ => none

/-- Steps of agents that go on by themselves: engines, time slices, parity work (20 R430, R432), placement requests. -/
def ownSteps (s : State) : Option Instr :=
  (turnOf s (engineEvents s)).or (((wanting s).findSome? (sliceFor s)).or ((parityStep s).or (placeDue s)))

/-- Rounds between seals of the timer (19 R409): SEAL_PER microseconds of 1,400 control cycles (00 R6). -/
def sealRounds (s : State) : Nat := (mgmtGet s 0x90000).toNat % 2 ^ 32 * 1400

/-- The seal timer runs (19 R409): it requests the open interval every SEAL_PER microseconds, also while another interval seals. -/
def sealDue (s : State) : Bool := decide (sealRounds s ≠ 0) && s.boot == .running

/-- What a round brings beside the words of the agents: a wait that ends, and, in every fourth round or when no agent has a word (`free`), a step of the agents
above. -/
def roundEvent (s : State) (free : Bool) : Option Instr :=
  let steps := if free || s.clock % 4 == 0 then ownSteps s else none
  match firstEnd (deadlines s) with
  | some e => if e.1 ≤ s.clock then some e.2 else steps
  | none => steps

/-- A parked hart ranks above a slot holder (05 R103): by node priority, or by age at equal priority. -/
def outranks (x h : Hart) : Bool := decide (h.prio.toNat < x.prio.toNat) || (h.prio == x.prio && x.aged && !h.aged)

/-- A ready hart takes the slot of the lowest ranked holder that it ranks above, at this instruction boundary (05 R103). -/
def claimSlot (s : State) (h : Nat) : State :=
  match hartOf s h with
  | none => s
  | some x =>
    if x.readyParked then
      match agedVictim s x with
      | some v => if outranks x v then takeSlot s h v.hid else s
      | none => s
    else s

/-- Cores with a free slot and a ready hart are filled first, then slots pass to harts that rank above their holders (05 R103). -/
def fillAll (s : State) : State :=
  let t := (allHarts s).foldl (fun t h => if h.resident then fillSlots t h 8 else t) s
  ((allHarts t).filter Hart.readyParked).foldl (fun u h => claimSlot u h.hid) t

/-- An agent has had its turn in this round. -/
def hadTurn (s : State) (h : Nat) (a : Agent) : Bool := s.turns.contains (h, a)

/-- A context has a word for the sequencer. -/
def Hart.ctxReady (h : Hart) : Bool := h.resident && h.adv.status == .ready && h.adv.wdog != 0

/-- The sequencer of a hart's core has served a context in this round (12 R252); and one of a hart of the same node priority. -/
def coreServed (s : State) (h : Hart) : Bool := (allHarts s).any (fun x => sameCore x h && hadTurn s x.hid .advice)
def peerServed (s : State) (h : Hart) : Bool := (allHarts s).any (fun x => sameCore x h && x.prio == h.prio && hadTurn s x.hid .advice)

/-- Key of a context for the sequencer by 05 R101 and R102, as `rankKey` of a hart. -/
def ctxKey (now : Nat) (h : Hart) : List Nat := h.key (now - h.adv.since)

/-- The best ranked context of a list. -/
def bestCtx (now : Nat) (l : List Hart) : Option Hart :=
  match l with
  | [] => none
  | h :: r => match bestCtx now r with
    | none => some h
    | some g => if ranksAbove (ctxKey now g) (ctxKey now h) then some g else some h

/-- The agents that have a word to execute in this round, best ranked first: running harts (05 R101), then one context of each core (12 R252). -/
def nextAgent (s : State) : Option (Nat × Agent) :=
  match bestOf s.clock ((allHarts s).filter (fun h => h.status == .running && !hadTurn s h.hid .hart)) with
  | some h => some (h.hid, .hart)
  | none => (bestCtx s.clock ((allHarts s).filter (fun h => h.ctxReady && !coreServed s h))).map (fun h => (h.hid, .advice))

/-- A hart is passed over (05 R102): it is ready for a lane slot, and one of its node priority holds one, also where the holder's instruction waits to issue; or its
context is ready for the sequencer, which has served one of the same node priority. -/
def passedOver (s : State) (h : Hart) : Bool :=
  (h.readyParked && (allHarts s).any (fun x => sameCore x h && x.holdsSlot && x.prio == h.prio))
    || (h.ctxReady && !hadTurn s h.hid .advice && peerServed s h)

/-- Control cycles passed over in a row, at the end of a round (05 R102). -/
def Hart.tick (s : State) (h : Hart) : Hart := { h with passed := if passedOver s h then h.passed + 1 else 0 }

/-- The next round begins: the harts that have been passed over for 256 control cycles become aged (05 R102), the seal timer may run out (19 R409), and a wait for space
in a version store counts the cycle (R406). -/
def newRound (s : State) : State :=
  let t := stallCycles { updHarts s (fun _ => true) (Hart.tick s) with clock := s.clock + 1, turns := [] } 1
  raiseEvents t (((allHarts t).filter (fun h => decide (256 ≤ h.passed) && !h.aged)).map (fun h => .hartAged h.hid)
    ++ (if sealDue t && decide (t.clock % sealRounds t = 0) then [.sealTimer] else []))

/-- What the end of a quantum brings (04 R79): time slices, and another try for what waits for resources. -/
def quantumEnd (s : State) : State := if s.clock % quantum s = 0 then wakeAdmission ((slicesDue s).foldl raiseOnce s) else s

/-- Deadlines of BWAITs that are switched out: from then on the hart wants its core again (15 R351). -/
def outEnds (s : State) : List Nat :=
  ((allHarts s).filter (fun h => h.alive && h.out)).filterMap (fun h => match h.wait with
    | .bwait _ _ _ b _ => if b == BitVec.allOnes 48 || decide (h.since + b.toNat ≤ s.clock) then none else some (h.since + b.toNat)
    | _ => none)

/-- Rounds until the next wait ends or the seal timer runs out, when nothing else happens. -/
def nextRound (s : State) : Option Nat :=
  let timer := if sealDue s then [(s.clock / sealRounds s + 1) * sealRounds s] else []
  ((deadlines s).map Prod.fst ++ timer ++ outEnds s).min?

/-- No agent has a word: a step of the agents that go on by themselves, or the rounds pass until something is due; while a hart is passed over they are counted
one by one (05 R102). -/
def background (s : State) : Turn :=
  match roundEvent s true with
  | some i => .event i (releaseRetry s)
  | none => match nextRound s with
    | some n => if (allHarts s).any (passedOver s) then .idle s else .idle (stallCycles { s with clock := max s.clock (n - 1) } (n - 1 - s.clock))
    | none => .idle s

/-- Harts of different lane slots run side by side (05 R91), and so do the sequencers (12 R251): in a round every agent that is served executes one word
(log 7). -/
def pickAgent (s0 : State) : Turn :=
  if s0.agent == .ozsis && agentReady s0 then .run s0
  else
    let s := fillAll s0
    match nextAgent s with
    | some x => .run { (chooseAgent s x.1 x.2) with turns := s.turns ++ [x] }
    | none =>
      let t := quantumEnd (newRound s)
      match firstDue t with
      | some e => e
      | none =>
        if (nextAgent t).isNone then background t
        else match roundEvent t false with
          | some i => .event i (releaseRetry t)
          | none => .idle t

/-- The agents move, once what goes on by itself has settled (19 R412, R420). -/
def settled (s : State) : Turn :=
  let t := settle s
  (firstDue t).getD (pickAgent t)

/-- The first event that is due, else the agents. -/
def dueOrAgents (s : State) : Turn := (firstDue s).getD (settled s)

/-- What moves next: a rollback, or a reset by RST_CTL (23 R456), at once, then the scheduling choices, then the events that are due, then the agents. -/
def takeTurn (s : State) : Turn :=
  match s.pending with
  | .rollback :: r => .event .rollback { s with pending := r }
  | .rstCtlCold :: r => .event .rstCtlCold { s with pending := r }
  | .rstCtlWarm :: r => .event .rstCtlWarm { s with pending := r }
  | _ => match s.sched with
    | [] => dueOrAgents s
    | .due :: r => dueOrAgents { s with sched := r }
    | .input i :: r => .idle (applyInput { s with sched := r } i)
    | .run h a :: r =>
      let t := chooseAgent { s with sched := r } h a
      if agentReady t then .run t else dueOrAgents { s with sched := r }

/-- A fetch: the word and the state after it, or the outcome that takes the instruction's place. -/
abbrev Fetched := Except (Host.Outcome State Fault Refusal) (Nat × State)

/-- A hart's fetch. -/
def fetchHart (s : State) : Fetched :=
  match xFetch s.hart.front.pc.toNat s with
  | .ok r => .ok r
  | .error (.trap c v _ t) => .error (.next (fetchTrap t c v))
  | .error (.stall q) => .error (.next (stallHart (stallFor s q (true, s.hart.hid))))
  | .error (.halt t) => .error (.next t)
  | .error (.fault f) => .error (.fault f)

/-- Physical address of a word of the advice text: through the translation that the node keeps, or, where it has been withdrawn, by a new walk, whose
translation is kept (12 R258, 04 R87; log 72). None where the page is absent or its entry poisoned. -/
def advicePA (s : State) (nd : Node) (pc : Word) : Option (Nat × State) :=
  let at_ : Word → Nat := fun e => leafPA e + pc.toNat % 65536
  let e := Store.get zeroOf nd.advPages (vpnOf pc)
  if leafOk e then some (at_ e, s)
  else match walk s nd.asid.toNat (vpnOf pc) with
    | .leaf e => if leafRD e || leafX e then
        some (at_ e, updNode s nd.num (fun x => { x with advPages := Store.set zeroOf x.advPages (vpnOf pc) e })) else none
    | _ => none

/-- A context's fetch (12 R258): outside the advice text the context ends and ADV_CEND counts it (06 R144, Table 12.2); a poisoned word is dropped. The die receives the word (19 R403). -/
def fetchAdvice (s : State) : Fetched :=
  let a := s.hart.adv
  let pc := a.front.pc
  let ended := mgmtAdd { s with hart := { s.hart with adv := a.end_ } } (0x50118 + 0x40 * s.die) 1
  if a.textSize ≤ (pc - a.text).toNat ∨ pc.toNat % 4 ≠ 0 then .error (.next ended)
  else match (nodeOf s s.hart.node).bind (fun nd => advicePA s nd pc) with
    | none => .error (.next (dropWord (((nodeOf s s.hart.node).map (fun nd => logWalk s.die s nd.asid.toNat (vpnOf pc))).getD s)))
    | some (pa, t) => if poisonAt t pa then .error (.next (dropWord t)) else .ok (memNat t pa 4, receives t s.die (pa / 64))

/-- A fetch of Ozsis from its private memory (22 R443). -/
def fetchOzsis (s : State) : Fetched :=
  let pc := s.oz.front.pc.toNat
  if pc % 4 = 0 ∧ ozInside pc 4 = true then .ok (bytesNat (ozRead s pc 4), s) else .error (.fault .ozsisAddress)

/-- The fetch of the current agent. -/
def fetch (s : State) : Fetched :=
  match s.agent with
  | .hart => fetchHart s
  | .advice => fetchAdvice s
  | .ozsis => fetchOzsis s

/-- The instruction of a fetched word: one that is none is the event RESERVED_ENCODING. -/
noncomputable def instrOf (w : Nat) : Instr := (decode (BitVec.ofNat 32 w)).getD (.reservedEncoding (BitVec.ofNat 32 w))

/-- RESERVED_ENCODING (05 R110, R111): on a hart ILLEGAL_INSTR, precise, with the word as tval; the sequencer drops and counts it. -/
def execReservedEncoding (w : BitVec 32) (s : State) : Host.Outcome State Fault Refusal :=
  match s.agent with
  | .hart => illegalWord s w.toNat
  | .advice => .next (dropWord s)
  | .ozsis => .fault .ozsisWord

end Sys2Proof.Machine
end

