-- ==== Sys2Proof/Machine/VConv.lean ====
section
/-! DEFINITION. Sys2Proof/Machine/VConv.lean: VCVT, VNARROW and VDQ (08 R183 to R185). -/
namespace Sys2Proof.Machine

/-- One element converted from FMT to a format code (08 R183). An integer whose value leaves a float format of its own width follows SAT and frm: that such a
conversion is none to a narrower format (07 Table 7.5) is the model's choice (DESIGN CHOICE, log 77). -/
def cvtEl (v : Vec) (c x : Nat) : Res :=
  let src := v.cls
  let dst := fmtClass c
  let w := fmtEW c
  let isF : FClass → Bool := fun k => k == .float || k == .narrow
  if isF src then
    (if isF dst then floatToFloat (fmtFloat c) v.mode (v.ff.val x) else floatToInt w (dst == .sint) v.mode (v.ff.val x))
  else
    let i := readI v.ew v.signed x
    if isF dst then roundF (fmtFloat c) v.mode (v.sat || decide (w < v.ew)) false (i, 1)
    else intRes w (dst == .sint) true i

/-- VCVT (08 R183): the rb field holds the destination code. -/
def eVcvt (h : Hart) (d a : BitVec 7) (c : BitVec 5) (m : Bool) : Option EInstr :=
  let ew := h.vec.ew
  let w := fmtEW c.toNat
  let op : Vec → Store 8 → Nat → Res := fun v r e => cvtEl v c.toNat (getEl r (vnum a) ew e)
  if isV h d && isV h a && decide (w ≠ 0) && fmtClass c.toNat != .grouped && h.vec.cls != .grouped then
    if ew < w then (groupRegs h d (w / ew) [vnum a]).map (fun g => ⟨m, [vnum a], .group (vnum d) w, g, op⟩)
    else some ⟨m, [vnum a], .vec (vnum d) w, [vnum d], op⟩
  else none

def execVcvt (d a : BitVec 7) (c : BitVec 5) (m : Bool) (s : State) : Host.Outcome State Fault Refusal := vElem (fun h => eVcvt h d a c m) s

/-- Scale entries from kb on reach element vl - 1 within the scale file (08 R184). -/
def scaleFits (v : Vec) (kb : Nat) : Bool := decide (v.blk ≠ 0) && (decide (v.vl = 0) || decide (kb + (v.vl.toNat - 1) / 2 ^ v.blk ≤ 1023))

/-- Entry of an element: counted from element 0 whatever vstart holds (08 R184). -/
def scaleOf (v : Vec) (kb e : Nat) : Nat := (Store.get zeroOf v.scale (kb + e / 2 ^ v.blk)).toNat

/-- VNARROW (08 R184). -/
def eVnarrow (h : Hart) (d a b : BitVec 7) (m : Bool) : Option EInstr :=
  let x := (h.front.rd b.toNat).toNat
  let kb := x % 1024
  let w := if nbit x 12 then 4 else 8
  if isV h d && isV h a && isS b && h.vec.isFloat && decide (x / 2 ^ 13 = 0 ∧ nbits x 10 2 = 0) && scaleFits h.vec kb then
    some ⟨m, [vnum a], .vec (vnum d) w, [vnum d], fun v r e => toCode (2 ^ w - 1) v.mode (v.ff.val (getEl r (vnum a) v.ew e)) (scaleOf v kb e)⟩
  else none

def execVnarrow (d a b : BitVec 7) (m : Bool) (s : State) : Host.Outcome State Fault Refusal := vElem (fun h => eVnarrow h d a b m) s

/-- VDQ (08 R185). -/
def eVdq (h : Hart) (d a b : BitVec 7) (m : Bool) : Option EInstr :=
  let x := (h.front.rd b.toNat).toNat
  let w := h.vec.ew
  if isV h a && isS b && h.vec.cls == .grouped && decide (x < 1024) && scaleFits h.vec x then
    (groupRegs h d (32 / w) [vnum a]).map (fun g => ⟨m, [vnum a], .group (vnum d) 32, g, fun v r e => dequant (scaleOf v x e) (getEl r (vnum a) w e)⟩)
  else none

def execVdq (d a b : BitVec 7) (m : Bool) (s : State) : Host.Outcome State Fault Refusal := vElem (fun h => eVdq h d a b m) s

end Sys2Proof.Machine
end

