-- ==== Sys2Proof/Machine/VLogic.lean ====
section
/-! DEFINITION. Sys2Proof/Machine/VLogic.lean: logic, shifts, counts and truth tables (10 R218, R219). -/
namespace Sys2Proof.Machine

/-- A bitwise operation, for every FMT (10 R218). -/
def eLogic (h : Hart) (d a b : BitVec 7) (m : Bool) (f : Nat → Nat → Nat) : Option EInstr :=
  eThree h true false d a b m (fun _ x y _ => Res.pure (f x y))

/-- FMT is integer or grouped (10 R218). -/
def Vec.isCode (v : Vec) : Bool := v.isInt || v.cls == .grouped

/-- Leading zeros of a w-bit number. -/
def clzW (w x : Nat) : Nat := if x = 0 then w else w - 1 - Nat.log2 x

/-- VLUT3 on one element of w bits (10 R219): bit i is tt[4x + 2y + z]. -/
def lut3 (tt w x y z : Nat) : Nat :=
  (List.range w).foldl (fun acc i => acc + nbits tt (4 * nbits x i 1 + 2 * nbits y i 1 + nbits z i 1) 1 * 2 ^ i) 0

/-- VLUT3 (10 R219): registers named by six bits, no masked form, every FMT. -/
def eLut3 (h : Hart) (tt : Nat) (d a b : BitVec 6) : Option EInstr :=
  let w := h.vec.ew
  if d.toNat < h.vregs.toNat ∧ a.toNat < h.vregs.toNat ∧ b.toNat < h.vregs.toNat then
    some ⟨false, [a.toNat, b.toNat, d.toNat], .vec d.toNat w, [d.toNat],
      fun _ r e => Res.pure (lut3 tt w (getEl r d.toNat w e) (getEl r a.toNat w e) (getEl r b.toNat w e))⟩
  else none

/-- VAND: a and b (10 Table 10.1). -/
def eVand (h : Hart) (d a b : BitVec 7) (m : Bool) : Option EInstr := eLogic h d a b m (fun x y => x &&& y)
def execVand (d a b : BitVec 7) (m : Bool) (s : State) : Host.Outcome State Fault Refusal := vElem (fun h => eVand h d a b m) s

/-- VOR: a or b (10 Table 10.1). -/
def eVor (h : Hart) (d a b : BitVec 7) (m : Bool) : Option EInstr := eLogic h d a b m (fun x y => x ||| y)
def execVor (d a b : BitVec 7) (m : Bool) (s : State) : Host.Outcome State Fault Refusal := vElem (fun h => eVor h d a b m) s

/-- VXOR: a xor b (10 Table 10.1). -/
def eVxor (h : Hart) (d a b : BitVec 7) (m : Bool) : Option EInstr := eLogic h d a b m (fun x y => x ^^^ y)
def execVxor (d a b : BitVec 7) (m : Bool) (s : State) : Host.Outcome State Fault Refusal := vElem (fun h => eVxor h d a b m) s

/-- VFSHL: the high half of (a, d) shifted left by k (10 Table 10.1). -/
def eVfshl (h : Hart) (d a b : BitVec 7) (m : Bool) : Option EInstr := eThree h h.vec.isCode true d a b m (fun v x y z =>
  Res.pure ((x * 2 ^ v.ew + z) * 2 ^ (y % v.ew) / 2 ^ v.ew % 2 ^ v.ew))
def execVfshl (d a b : BitVec 7) (m : Bool) (s : State) : Host.Outcome State Fault Refusal := vElem (fun h => eVfshl h d a b m) s

/-- VFSHR: the low half of (d, a) shifted right by k (10 Table 10.1). -/
def eVfshr (h : Hart) (d a b : BitVec 7) (m : Bool) : Option EInstr := eThree h h.vec.isCode true d a b m (fun v x y z =>
  Res.pure ((z * 2 ^ v.ew + x) / 2 ^ (y % v.ew) % 2 ^ v.ew))
def execVfshr (d a b : BitVec 7) (m : Bool) (s : State) : Host.Outcome State Fault Refusal := vElem (fun h => eVfshr h d a b m) s

/-- VROT: a rotated right by k (10 Table 10.1). -/
def eVrot (h : Hart) (d a b : BitVec 7) (m : Bool) : Option EInstr := eThree h h.vec.isCode false d a b m (fun v x y _ =>
  Res.pure ((x * 2 ^ v.ew + x) / 2 ^ (y % v.ew) % 2 ^ v.ew))
def execVrot (d a b : BitVec 7) (m : Bool) (s : State) : Host.Outcome State Fault Refusal := vElem (fun h => eVrot h d a b m) s

/-- VPOPC: one bits of a (10 Table 10.1). -/
def eVpopc (h : Hart) (d a : BitVec 7) (m : Bool) : Option EInstr := eTwo h h.vec.isCode d a m (fun v x => Res.pure (countOnes x v.ew))
def execVpopc (d a : BitVec 7) (m : Bool) (s : State) : Host.Outcome State Fault Refusal := vElem (fun h => eVpopc h d a m) s

/-- VCLZ: leading zeros of a (10 Table 10.1). -/
def eVclz (h : Hart) (d a : BitVec 7) (m : Bool) : Option EInstr := eTwo h h.vec.isCode d a m (fun v x => Res.pure (clzW v.ew x))
def execVclz (d a : BitVec 7) (m : Bool) (s : State) : Host.Outcome State Fault Refusal := vElem (fun h => eVclz h d a m) s

/-- VLUT3_TT7_1: the truth table with tt[7] = 1 (10 R219). -/
def eVlut3Tt71 (h : Hart) (t : BitVec 7) (d a b : BitVec 6) : Option EInstr := eLut3 h (128 + t.toNat) d a b
def execVlut3Tt71 (t : BitVec 7) (d a b : BitVec 6) (s : State) : Host.Outcome State Fault Refusal := vElem (fun h => eVlut3Tt71 h t d a b) s

/-- VLUT3_TT7_0: the truth table with tt[7] = 0 (10 R219). -/
def eVlut3Tt70 (h : Hart) (t : BitVec 7) (d a b : BitVec 6) : Option EInstr := eLut3 h t.toNat d a b
def execVlut3Tt70 (t : BitVec 7) (d a b : BitVec 6) (s : State) : Host.Outcome State Fault Refusal := vElem (fun h => eVlut3Tt70 h t d a b) s

end Sys2Proof.Machine
end

