-- ==== Sys2Proof/Machine/VChain.lean ====
section
/-! DEFINITION. Sys2Proof/Machine/VChain.lean: recorded chains: VCHAIN and VCHRUN (10 R226 to R229). -/
namespace Sys2Proof.Machine

/-- VCHAIN (10 R226): a taken jump over its n recorded words; the field holds n - 1. -/
def execVchain (n : BitVec 4) (s : State) : Host.Outcome State Fault Refusal :=
  hartOnly s (fun s => .next (s.jumpTo (s.front.pc + BitVec.ofNat 64 (4 + 4 * (n.toNat + 1)))))

/-- A chainable word (10 R228) as an element-wise instruction, by its major code, function code and fields (05 Table 5.4): none for any other word and for
one that fails its operand checks. A VCVT that fails only the check of R183 is among these (DESIGN CHOICE, log 77: R227 names R96, R172 and R174). -/
def chainOp (h : Hart) (w : Nat) : Option EInstr :=
  let major := nbits w 25 7
  let fn := nbits w 0 3
  let m := nbit w 3
  let d : BitVec 7 := BitVec.ofNat 7 (nbits w 18 7)
  let a : BitVec 7 := BitVec.ofNat 7 (nbits w 11 7)
  let b : BitVec 7 := BitVec.ofNat 7 (nbits w 4 7)
  let t : BitVec 7 := BitVec.ofNat 7 (nbits w 24 1 * 64 + nbits w 17 1 * 32 + nbits w 10 1 * 16 + nbits w 0 4)
  let d6 : BitVec 6 := BitVec.ofNat 6 (nbits w 18 6)
  let a6 : BitVec 6 := BitVec.ofNat 6 (nbits w 11 6)
  let b6 : BitVec 6 := BitVec.ofNat 6 (nbits w 4 6)
  let c : BitVec 5 := BitVec.ofNat 5 (nbits w 4 5)
  if major = 33 ∧ fn = 0 then eVadd h d a b m
  else if major = 33 ∧ fn = 1 then eVsub h d a b m
  else if major = 33 ∧ fn = 2 then eVmul h d a b m
  else if major = 33 ∧ fn = 3 then eVmulh h d a b m
  else if major = 33 ∧ fn = 4 then eVmadd h d a b m
  else if major = 33 ∧ fn = 5 then eVmin h d a b m
  else if major = 33 ∧ fn = 6 then eVmax h d a b m
  else if major = 33 ∧ fn = 7 then eVabsd h d a b m
  else if major = 34 ∧ fn = 0 then eVminu h d a b m
  else if major = 34 ∧ fn = 1 then eVmaxu h d a b m
  else if major = 34 ∧ fn = 2 then eVadds h d a b m
  else if major = 34 ∧ fn = 3 then eVsubs h d a b m
  else if major = 34 ∧ fn = 4 then eVavg h d a b m
  else if major = 34 ∧ fn = 5 then eVshl h d a b m
  else if major = 34 ∧ fn = 6 then eVshr h d a b m
  else if major = 34 ∧ fn = 7 then eVsra h d a b m
  else if major = 36 ∧ fn = 0 then eVcmpeq h d a b m
  else if major = 36 ∧ fn = 1 then eVcmpne h d a b m
  else if major = 36 ∧ fn = 2 then eVcmplt h d a b m
  else if major = 36 ∧ fn = 3 then eVcmple h d a b m
  else if major = 36 ∧ fn = 4 then eVcmpltu h d a b m
  else if major = 36 ∧ fn = 5 then eVcmpleu h d a b m
  else if major = 40 ∧ fn = 0 then eVfadd h d a b m
  else if major = 40 ∧ fn = 1 then eVfsub h d a b m
  else if major = 40 ∧ fn = 2 then eVfmul h d a b m
  else if major = 40 ∧ fn = 3 then eVfma h d a b m
  else if major = 40 ∧ fn = 4 then eVfms h d a b m
  else if major = 40 ∧ fn = 5 then eVfnma h d a b m
  else if major = 40 ∧ fn = 6 then eVfdiv h d a b m
  else if major = 40 ∧ fn = 7 then eVfmin h d a b m
  else if major = 41 ∧ fn = 0 then eVfmax h d a b m
  else if major = 41 ∧ fn = 1 ∧ nbits w 4 7 = 0 then eVfabs h d a m
  else if major = 41 ∧ fn = 2 ∧ nbits w 4 7 = 0 then eVfneg h d a m
  else if major = 41 ∧ fn = 3 ∧ nbits w 4 7 = 0 then eVfclass h d a m
  else if major = 41 ∧ fn = 4 ∧ nbits w 4 7 = 0 then eVfsqrt h d a m
  else if major = 42 ∧ fn = 0 ∧ nbits w 4 7 = 0 then eVfrcp h d a m
  else if major = 42 ∧ fn = 1 ∧ nbits w 4 7 = 0 then eVfrsq h d a m
  else if major = 42 ∧ fn = 2 ∧ nbits w 4 7 = 0 then eVfexp2 h d a m
  else if major = 42 ∧ fn = 3 ∧ nbits w 4 7 = 0 then eVflog2 h d a m
  else if major = 42 ∧ fn = 4 ∧ nbits w 4 7 = 0 then eVftanh h d a m
  else if major = 43 ∧ fn = 0 then eVfcmpeq h d a b m
  else if major = 43 ∧ fn = 1 then eVfcmplt h d a b m
  else if major = 43 ∧ fn = 2 then eVfcmple h d a b m
  else if major = 48 ∧ fn = 0 then eVand h d a b m
  else if major = 48 ∧ fn = 1 then eVor h d a b m
  else if major = 48 ∧ fn = 2 then eVxor h d a b m
  else if major = 48 ∧ fn = 3 then eVfshl h d a b m
  else if major = 48 ∧ fn = 4 then eVfshr h d a b m
  else if major = 48 ∧ fn = 5 then eVrot h d a b m
  else if major = 48 ∧ fn = 6 ∧ nbits w 4 7 = 0 then eVpopc h d a m
  else if major = 48 ∧ fn = 7 ∧ nbits w 4 7 = 0 then eVclz h d a m
  else if major = 0x2C ∧ fn = 0 ∧ nbits w 9 2 = 0 ∧ fmtEW c.toNat = h.vec.ew then eVcvt h d a c m
  else if major = 0x31 then eVlut3Tt71 h t d6 a6 b6
  else if major = 0x32 then eVlut3Tt70 h t d6 a6 b6
  else none

/-- Fetch of a word by VCHRUN: where it fails the trap is taken at that word (10 R227, as 06 R130). -/
def xChainFetch (va : Nat) : X Nat := fun s =>
  match xFetch va s with
  | .error (.trap c v _ t) => .error (.halt (fetchTrap t c v))
  | r => r

/-- The words of a chain from address `a` on, each checked as it is fetched (10 R227). -/
def xChainWords (a n : Nat) : X (List EInstr) :=
  match n with
  | 0 => pure []
  | k + 1 => do
    let w ← xChainFetch (a % 2 ^ 64)
    let h ← xRead (fun s => s.hart)
    match chainOp h w with
    | none => xTrap .chainInvalid (BitVec.ofNat 64 a)
    | some i =>
      if (i.srcs ++ i.writes).any (fun r => h.vec.isBound r) then xTrap .chainInvalid (BitVec.ofNat 64 a)
      else do
        let rest ← xChainWords (a + 4) k
        pure (i :: rest)

/-- Bytes of register j put back as they were. -/
def restoreReg (new old : Store 8) (j : Nat) : Store 8 :=
  let lo := j * 98304
  let hi := lo + 98304
  new.filter (fun e => decide (e.1 < lo)) ++ old.filter (fun e => decide (lo ≤ e.1 ∧ e.1 < hi)) ++ new.filter (fun e => decide (hi ≤ e.1))

/-- The recorded instructions one after another under the captured configuration, then scratch registers as before (10 R229). -/
def runChain (vlmax vregs : Nat) (x : Word) (l : List EInstr) (v : Vec) : Vec :=
  let v1 := l.foldl (fun acc i => elemLoop vlmax i (acc.active i.masked []) acc.vrf acc) v
  let scratch := (List.range (min vregs 64)).filter (fun j => x.getLsbD j)
  { v1 with vrf := scratch.foldl (fun m j => restoreReg m v.vrf j) v1.vrf, vstart := 0 }

/-- Active elements of the recorded instructions, one after another (08 R186, 10 R217). -/
def chainActs (vlmax : Nat) (l : List EInstr) (v : Vec) : List (List Nat) :=
  match l with
  | [] => []
  | i :: r => v.active i.masked [] :: chainActs vlmax r (elemLoop vlmax i (v.active i.masked []) v.vrf v)

/-- VCHRUN (10 R227, R229). -/
def xVchrun (a b : BitVec 7) : X Unit := do
  xOperands (isS a && isS b)
  let addr ← xS a.toNat
  let x ← xS b.toNat
  xNeed (decide (addr.toNat % 4 = 0)) .misaligned addr
  let w ← xChainFetch addr.toNat
  xNeed (decide (nbits w 25 7 = 0x36 ∧ nbits w 22 3 = 0 ∧ nbits w 0 18 = 0)) .chainInvalid addr
  let n := nbits w 18 4 + 1
  let l ← xChainWords (addr.toNat + 4) n
  let h ← xRead (fun s => s.hart)
  xChecked (chainActs h.vlmax l h.vec)
  xMod (fun s => (s.modVec (fun v => runChain s.hart.vlmax s.hart.vregs.toNat x l v)).retire)

def execVchrun (a b : BitVec 7) (s : State) : Host.Outcome State Fault Refusal := hartOnly s (runX (xVchrun a b))

end Sys2Proof.Machine
end

