-- ==== Sys2Proof/Machine/VMask.lean ====
section
/-! DEFINITION. Sys2Proof/Machine/VMask.lean: mask instructions (10 R225). -/
namespace Sys2Proof.Machine

/-- The bits a mask instruction acts on: vstart up to vl. -/
def Vec.span (v : Vec) : List Nat := v.active false []

/-- Write mask bits and set vstart to 0. -/
def putMask (s : State) (d : Nat) (l : List (Nat × Bool)) : State :=
  s.modVec (fun v => { v with masks := putMasks v.masks d l, vstart := 0 })

/-- A mask-to-mask instruction. -/
def maskOp (ok : Bool) (d : BitVec 7) (f : Vec → Nat → Bool) (s : State) : Host.Outcome State Fault Refusal :=
  hartOnly s (fun s =>
    if isX d && ok then .next (putMask s d.toNat (s.hart.vec.span.map (fun e => (e, f s.hart.vec e)))).retire
    else .next (takeTrap s .illegalOperand 0))

/-- A mask-to-scalar instruction. -/
def maskScalar (ok : Bool) (d : BitVec 7) (f : Vec → Word) (s : State) : Host.Outcome State Fault Refusal :=
  hartOnly s (fun s =>
    if isS d && ok then .next ((s.setSreg d.toNat (f s.hart.vec)).setVstart 0).retire else .next (takeTrap s .illegalOperand 0))

/-- MAND (10 Table 10.4). -/
def execMand (d a b : BitVec 7) (s : State) : Host.Outcome State Fault Refusal :=
  maskOp (isX a && isX b) d (fun v e => v.mask a.toNat e && v.mask b.toNat e) s
/-- MOR (10 Table 10.4). -/
def execMor (d a b : BitVec 7) (s : State) : Host.Outcome State Fault Refusal :=
  maskOp (isX a && isX b) d (fun v e => v.mask a.toNat e || v.mask b.toNat e) s
/-- MXOR (10 Table 10.4). -/
def execMxor (d a b : BitVec 7) (s : State) : Host.Outcome State Fault Refusal :=
  maskOp (isX a && isX b) d (fun v e => v.mask a.toNat e != v.mask b.toNat e) s
/-- MNOT (10 Table 10.4). -/
def execMnot (d a : BitVec 7) (s : State) : Host.Outcome State Fault Refusal := maskOp (isX a) d (fun v e => !v.mask a.toNat e) s
/-- MPOPC (10 Table 10.4). -/
def execMpopc (d a : BitVec 7) (s : State) : Host.Outcome State Fault Refusal :=
  maskScalar (isX a) d (fun v => BitVec.ofNat 64 (v.span.filter (fun e => v.mask a.toNat e)).length) s
/-- MFIRST (10 Table 10.4): all ones when no bit is set. -/
def execMfirst (d a : BitVec 7) (s : State) : Host.Outcome State Fault Refusal :=
  maskScalar (isX a) d (fun v => match v.span.find? (fun e => v.mask a.toNat e) with
    | some e => BitVec.ofNat 64 e
    | none => BitVec.allOnes 64) s
/-- MSET (10 Table 10.4): elements from S[ra] below S[rb], unsigned. -/
def execMset (d a b : BitVec 7) (s : State) : Host.Outcome State Fault Refusal :=
  let lo := (s.sreg a.toNat).toNat
  let hi := (s.sreg b.toNat).toNat
  maskOp (isS a && isS b) d (fun _ e => decide (lo ≤ e ∧ e < hi)) s

end Sys2Proof.Machine
end

