-- ==== Sys2Proof/Machine/VPerm.lean ====
section
/-! DEFINITION. Sys2Proof/Machine/VPerm.lean: permutes (10 R220 to R222). A register that is bound to a stream is no operand of them (09 R209). -/
namespace Sys2Proof.Machine

/-- A permute written as an element-wise instruction whose operation reads its source at other indices (10 R216). -/
def xPerm (mk : Hart → Option EInstr) : X Unit :=
  xElem (fun h => match mk h with
    | none => none
    | some i => if (i.srcs ++ i.writes).any (fun r => h.vec.isBound r) then none else some i)

def vPerm (mk : Hart → Option EInstr) (s : State) : Host.Outcome State Fault Refusal := hartOnly s (runX (xPerm mk))

/-- The form of a permute: vd, va and a choice of the source index, none for zero. -/
def ePerm (h : Hart) (ok : Bool) (d a : BitVec 7) (more : List Nat) (m : Bool) (f : Store 8 → Nat → Option Nat) : Option EInstr :=
  if isV h d && isV h a && ok then
    let w := h.vec.ew
    some ⟨m, vnum a :: more, .vec (vnum d) w, [vnum d], fun _ r e => match f r e with
      | some i => Res.pure (getEl r (vnum a) w i)
      | none => Res.pure 0⟩
  else none

/-- VSLIDEUP (10 Table 10.2): rotates within vl. -/
def eVslideup (h : Hart) (d a b : BitVec 7) (m : Bool) : Option EInstr :=
  let n := h.vec.vl.toNat
  let k := (h.front.rd b.toNat).toNat % n
  ePerm h (isS b) d a [] m (fun _ e => some ((e + n - k) % n))
def execVslideup (d a b : BitVec 7) (m : Bool) (s : State) : Host.Outcome State Fault Refusal := vPerm (fun h => eVslideup h d a b m) s

/-- VSLIDEDN (10 Table 10.2). -/
def eVslidedn (h : Hart) (d a b : BitVec 7) (m : Bool) : Option EInstr :=
  let n := h.vec.vl.toNat
  let k := (h.front.rd b.toNat).toNat % n
  ePerm h (isS b) d a [] m (fun _ e => some ((e + k) % n))
def execVslidedn (d a b : BitVec 7) (m : Bool) (s : State) : Host.Outcome State Fault Refusal := vPerm (fun h => eVslidedn h d a b m) s

/-- VGATHER (10 Table 10.2): 0 for an index at or above VLMAXE. -/
def eVgather (h : Hart) (d a b : BitVec 7) (m : Bool) : Option EInstr :=
  ePerm h (isV h b) d a [vnum b] m (fun r e =>
    let i := getEl r (vnum b) h.vec.ew e
    if i < h.vlmaxe then some i else none)
def execVgather (d a b : BitVec 7) (m : Bool) (s : State) : Host.Outcome State Fault Refusal := vPerm (fun h => eVgather h d a b m) s

/-- VBCAST (10 Table 10.2): the low bits of a scalar. -/
def eVbcast (h : Hart) (d a : BitVec 7) (m : Bool) : Option EInstr :=
  let w := h.vec.ew
  let x := (h.front.rd a.toNat).toNat % 2 ^ w
  if isV h d && isS a then some ⟨m, [], .vec (vnum d) w, [vnum d], fun _ _ _ => Res.pure x⟩ else none
def execVbcast (d a : BitVec 7) (m : Bool) (s : State) : Host.Outcome State Fault Refusal := vPerm (fun h => eVbcast h d a m) s

/-- VTRANS (10 R222): vl must be the whole shape and vstart 0. -/
def eVtrans (h : Hart) (d a : BitVec 7) (m : Bool) : Option EInstr :=
  let v := h.vec
  ePerm h (decide (v.vl.toNat = v.nrow * v.ncol ∧ v.vstart = 0)) d a [] m (fun _ e => some (e % v.nrow * v.ncol + e / v.nrow))
def execVtrans (d a : BitVec 7) (m : Bool) (s : State) : Host.Outcome State Fault Refusal := vPerm (fun h => eVtrans h d a m) s

/-- VROWSH (10 R222): each row shifted by a signed amount, zeros in. -/
def eVrowsh (h : Hart) (d a b : BitVec 7) (m : Bool) : Option EInstr :=
  let v := h.vec
  let k := (h.front.rd b.toNat).toInt
  ePerm h (isS b) d a [] m (fun _ e =>
    let c : Int := (e % v.ncol : Nat) - k
    let i := e / v.ncol * v.ncol + c.toNat
    if 0 ≤ c ∧ c < (v.ncol : Int) ∧ i < h.vlmaxe then some i else none)
def execVrowsh (d a b : BitVec 7) (m : Bool) (s : State) : Host.Outcome State Fault Refusal := vPerm (fun h => eVrowsh h d a b m) s

/-- VCOMPRESS and VEXPAND (10 R221): the selected elements in ascending order, each with its rank. -/
def ranked (l : List Nat) (k : Nat) : List (Nat × Nat) :=
  match l with
  | [] => []
  | e :: r => (e, k) :: ranked r (k + 1)

/-- `toRank`: element e goes to its rank (compress); else rank to e (expand). -/
def xPack (toRank : Bool) (d a : BitVec 7) : X Unit := do
  let h ← xRead (fun s => s.hart)
  let v := h.vec
  xOperands (isV h d && isV h a && decide (v.vstart = 0) && !v.isBound (vnum d) && !v.isBound (vnum a))
  xChecked [v.active true []]
  let l := (ranked (v.active true []) 0).map (fun p =>
    if toRank then (p.2, getEl v.vrf (vnum a) v.ew p.1) else (p.1, getEl v.vrf (vnum a) v.ew p.2))
  xMod (fun s => ((s.putVrf (vnum d) v.ew l).setVstart 0).retire)

/-- VCOMPRESS (10 R221). -/
def execVcompress (d a : BitVec 7) (s : State) : Host.Outcome State Fault Refusal := hartOnly s (runX (xPack true d a))
/-- VEXPAND (10 R221). -/
def execVexpand (d a : BitVec 7) (s : State) : Host.Outcome State Fault Refusal := hartOnly s (runX (xPack false d a))

end Sys2Proof.Machine
end

