-- ==== Sys2Proof/Machine/VRed.lean ====
section
/-! DEFINITION. Sys2Proof/Machine/VRed.lean: reductions (10 R223, R224; 07 R158). -/
namespace Sys2Proof.Machine

/-- The leaves of a reduction: vl elements, Empty where not active. -/
def leaves (v : Vec) (masked : Bool) (reg : Nat) : List (Option Nat) :=
  (List.range v.vl.toNat).map (fun e => if !masked || v.mask 0 e then some (getEl v.vrf reg v.ew e) else none)

/-- A reduction (10 R223): class and vstart checked; the result in element 0 whatever the mask holds; flags only with a leaf that is not Empty. The LFSR does
not step; the results of two independent trees are compared, and a mismatch takes the paths of 08 R187 (R217, log 20). -/
def xReduce (ok : Vec → Bool) (f : Vec → List (Option Nat) → Res) (d a : BitVec 7) (m : Bool) : X Unit := do
  let h ← xRead (fun s => s.hart)
  let v := h.vec
  xOperands (isV h d && isV h a && ok v && decide (v.vstart = 0) && !v.isBound (vnum d) && !v.isBound (vnum a))
  let r := f v (leaves v m (vnum a))
  xPaths true
  xMod (fun s => ((s.putVrf (vnum d) v.ew [(0, r.val)]).modVec (fun u => { u.flag 0 r with vstart := 0 })).retire)

def vReduce (ok : Vec → Bool) (f : Vec → List (Option Nat) → Res) (d a : BitVec 7) (m : Bool) (s : State) : Host.Outcome State Fault Refusal :=
  hartOnly s (runX (xReduce ok f d a m))

/-- An integer reduction with no range excess: Op and the identity. -/
def redBits (op : Vec → Nat → Nat → Nat) (none_ : Vec → Nat) (v : Vec) (l : List (Option Nat)) : Res :=
  match pairTree (op v) 18 l with
  | some x => Res.pure x
  | none => Res.pure (none_ v)

/-- VREDSUM: the exact sum, fitted once at the root (10 R224). -/
def redSum (v : Vec) (l : List (Option Nat)) : Res :=
  match pairTree (fun x y => x + y) 18 (l.map (fun o => o.map (readI v.ew v.signed))) with
  | some x => intRes v.ew v.signed v.sat x
  | none => Res.pure 0

/-- A float reduction: every Combine rounds and sets its flags (10 R224); a NaN leaf alone gives the default NaN as well (07 R154). -/
def redFloat (op : Vec → Nat → Nat → Res) (none_ : Vec → Nat) (v : Vec) (l : List (Option Nat)) : Res :=
  let tree := pairTree (fun (x y : Res) => let r := op v x.val y.val
                                           (⟨r.val, x.fl ||| y.fl ||| r.fl, x.ovm || y.ovm || r.ovm⟩ : Res)) 18
    (l.map (fun o => o.map (fun x => Res.pure (if v.ff.val x = .nan then v.ff.nan else x))))
  match tree with
  | some r => r
  | none => Res.pure (none_ v)

/-- VREDSUM (10 Table 10.3). -/
def execVredsum (d a : BitVec 7) (m : Bool) (s : State) : Host.Outcome State Fault Refusal := vReduce Vec.isInt redSum d a m s
/-- VREDMAX: by the signedness of FMT. -/
def execVredmax (d a : BitVec 7) (m : Bool) (s : State) : Host.Outcome State Fault Refusal :=
  vReduce Vec.isInt (redBits (fun v x y => if readI v.ew v.signed x ≤ readI v.ew v.signed y then y else x) (fun v => wrapI v.ew (intMin v.ew v.signed))) d a m s
/-- VREDMIN: by the signedness of FMT. -/
def execVredmin (d a : BitVec 7) (m : Bool) (s : State) : Host.Outcome State Fault Refusal :=
  vReduce Vec.isInt (redBits (fun v x y => if readI v.ew v.signed x ≤ readI v.ew v.signed y then x else y) (fun v => wrapI v.ew (intMax v.ew v.signed))) d a m s
/-- VREDAND. -/
def execVredand (d a : BitVec 7) (m : Bool) (s : State) : Host.Outcome State Fault Refusal :=
  vReduce Vec.isInt (redBits (fun _ x y => x &&& y) (fun v => 2 ^ v.ew - 1)) d a m s
/-- VREDOR. -/
def execVredor (d a : BitVec 7) (m : Bool) (s : State) : Host.Outcome State Fault Refusal :=
  vReduce Vec.isInt (redBits (fun _ x y => x ||| y) (fun _ => 0)) d a m s
/-- VFREDSUM: Round(a + b, FMT, frm) at every Combine. -/
def execVfredsum (d a : BitVec 7) (m : Bool) (s : State) : Host.Outcome State Fault Refusal :=
  vReduce Vec.isFloat (redFloat (fun v x y => fAdd v.ff v.mode v.sat (v.ff.val x) (v.ff.val y)) (fun _ => 0)) d a m s
/-- VFREDMAX: VFMAX of 08 R180. -/
def execVfredmax (d a : BitVec 7) (m : Bool) (s : State) : Host.Outcome State Fault Refusal :=
  vReduce Vec.isFloat (redFloat (fun v x y => Res.pure (fPick v.ff true x y)) (fun v => v.ff.infinity true)) d a m s

end Sys2Proof.Machine
end

