-- ==== Sys2Proof/Machine/Dispatch.lean ====
section
/-! DEFINITION. Sys2Proof/Machine/Dispatch.lean: one arm per constructor of Instr, each a direct call of its meaning. -/
namespace Sys2Proof.Machine

/-- What an instruction, or an event of the part, does. -/
def exec (i : Instr) (s : State) : Host.Outcome State Fault Refusal :=
  match i with
  | .monitorWake h => Sys2Proof.Machine.execMonitorWake h s
  | .monwaitTimeout h => Sys2Proof.Machine.execMonwaitTimeout h s
  | .engineCount x => Sys2Proof.Machine.execEngineCount x s
  | .transferRetire x => Sys2Proof.Machine.execTransferRetire x s
  | .collMatch x => Sys2Proof.Machine.execCollMatch x s
  | .collTimeout x => Sys2Proof.Machine.execCollTimeout x s
  | .bwaitWake h => Sys2Proof.Machine.execBwaitWake h s
  | .bwaitDeadline h => Sys2Proof.Machine.execBwaitDeadline h s
  | .detPhaseMerge n => Sys2Proof.Machine.execDetPhaseMerge n s
  | .awaitReturn h => Sys2Proof.Machine.execAwaitReturn h s
  | .adviceWatchdog h => Sys2Proof.Machine.execAdviceWatchdog h s
  | .hartWatchdog h => Sys2Proof.Machine.execHartWatchdog h s
  | .vectorSoftError h => Sys2Proof.Machine.execVectorSoftError h s
  | .sectorPoison spad addr unit => Sys2Proof.Machine.execSectorPoison spad addr unit s
  | .hartAged h => Sys2Proof.Machine.execHartAged h s
  | .hartResident h => Sys2Proof.Machine.execHartResident h s
  | .contextSwitch h => Sys2Proof.Machine.execContextSwitch h s
  | .contextRestore h => Sys2Proof.Machine.execContextRestore h s
  | .parkExpiry h => Sys2Proof.Machine.execParkExpiry h s
  | .timeSlice die phys => Sys2Proof.Machine.execTimeSlice die phys s
  | .graphPost pa v => Sys2Proof.Machine.execGraphPost pa v s
  | .followArmedWord g => Sys2Proof.Machine.execFollowArmedWord g s
  | .nodeReady n => Sys2Proof.Machine.execNodeReady n s
  | .admitNode n => Sys2Proof.Machine.execAdmitNode n s
  | .evalCond n => Sys2Proof.Machine.execEvalCond n s
  | .evalLoop n => Sys2Proof.Machine.execEvalLoop n s
  | .evalSwitch n => Sys2Proof.Machine.execEvalSwitch n s
  | .signalWrite n => Sys2Proof.Machine.execSignalWrite n s
  | .nodeDone n => Sys2Proof.Machine.execNodeDone n s
  | .nodeRetire n => Sys2Proof.Machine.execNodeRetire n s
  | .resDone => Sys2Proof.Machine.execResDone s
  | .invGo v => Sys2Proof.Machine.execInvGo v s
  | .invalidationDone => Sys2Proof.Machine.execInvalidationDone s
  | .remapWrite die l v => Sys2Proof.Machine.execRemapWrite die l v s
  | .migratePage asid vpn die => Sys2Proof.Machine.execMigratePage asid vpn die s
  | .graphCtlWrite g v => Sys2Proof.Machine.execGraphCtlWrite g v s
  | .rds r line => Sys2Proof.Machine.execRds r line s
  | .rdx r line => Sys2Proof.Machine.execRdx r line s
  | .upg r line => Sys2Proof.Machine.execUpg r line s
  | .wbd r line sectors => Sys2Proof.Machine.execWbd r line sectors s
  | .evc r line => Sys2Proof.Machine.execEvc r line s
  | .invack r line => Sys2Proof.Machine.execInvack r line s
  | .ack r line wb => Sys2Proof.Machine.execAck r line wb s
  | .ackd r line sectors => Sys2Proof.Machine.execAckd r line sectors s
  | .data r line => Sys2Proof.Machine.execData r line s
  | .datae r line => Sys2Proof.Machine.execDatae r line s
  | .grante r line => Sys2Proof.Machine.execGrante r line s
  | .inv r line => Sys2Proof.Machine.execInv r line s
  | .recalls r line => Sys2Proof.Machine.execRecalls r line s
  | .recalli r line => Sys2Proof.Machine.execRecalli r line s
  | .wback r line => Sys2Proof.Machine.execWback r line s
  | .hbmActRefresh die row => Sys2Proof.Machine.execHbmActRefresh die row s
  | .actParityError die row => Sys2Proof.Machine.execActParityError die row s
  | .sealTimer => Sys2Proof.Machine.execSealTimer s
  | .sealRequest n => Sys2Proof.Machine.execSealRequest n s
  | .start n => Sys2Proof.Machine.execStart n s
  | .sealDrainDone => Sys2Proof.Machine.execSealDrainDone s
  | .vote chip n => Sys2Proof.Machine.execVote chip n s
  | .sealed n => Sys2Proof.Machine.execSealed n s
  | .voteTimeout chip => Sys2Proof.Machine.execVoteTimeout chip s
  | .rollback => Sys2Proof.Machine.execRollback s
  | .parityBuildDone => Sys2Proof.Machine.execParityBuildDone s
  | .parRbGo v => Sys2Proof.Machine.execParRbGo v s
  | .straitLinkTrain port peer dom ver lanes => Sys2Proof.Machine.execStraitLinkTrain port peer dom ver lanes s
  | .straitLinkDown port => Sys2Proof.Machine.execStraitLinkDown port s
  | .cwPortTrain port ver lanes => Sys2Proof.Machine.execCwPortTrain port ver lanes s
  | .cwPortDown port => Sys2Proof.Machine.execCwPortDown port s
  | .hostPostedWrite pa bytes => Sys2Proof.Machine.execHostPostedWrite pa bytes s
  | .hostRead pa n => Sys2Proof.Machine.execHostRead pa n s
  | .hostAtomic op w4 pa v => Sys2Proof.Machine.execHostAtomic op w4 pa v s
  | .errPop die => Sys2Proof.Machine.execErrPop die s
  | .errOvfClear die => Sys2Proof.Machine.execErrOvfClear die s
  | .fwUpdateGo v signed digest => Sys2Proof.Machine.execFwUpdateGo v signed digest s
  | .fwQuiesceDone => Sys2Proof.Machine.execFwQuiesceDone s
  | .fwQuiesceTimeout => Sys2Proof.Machine.execFwQuiesceTimeout s
  | .fwHandover => Sys2Proof.Machine.execFwHandover s
  | .fwHb v => Sys2Proof.Machine.execFwHb v s
  | .fwHbTimeout => Sys2Proof.Machine.execFwHbTimeout s
  | .debugUnlock token => Sys2Proof.Machine.execDebugUnlock token s
  | .negotiateAlgorithms sha3 ext => Sys2Proof.Machine.execNegotiateAlgorithms sha3 ext s
  | .getMeasurements sign nonce => Sys2Proof.Machine.execGetMeasurements sign nonce s
  | .rstCtlCold => Sys2Proof.Machine.execRstCtlCold s
  | .rstCtlWarm => Sys2Proof.Machine.execRstCtlWarm s
  | .resetInput cold => Sys2Proof.Machine.execResetInput cold s
  | .supplyFault => Sys2Proof.Machine.execSupplyFault s
  | .referenceLoss => Sys2Proof.Machine.execReferenceLoss s
  | .thermalThrottle die tj => Sys2Proof.Machine.execThermalThrottle die tj s
  | .thermalRecover die tj => Sys2Proof.Machine.execThermalRecover die tj s
  | .thermalTrip die tj => Sys2Proof.Machine.execThermalTrip die tj s
  | .mgmtRegisterWrite off v => Sys2Proof.Machine.execMgmtRegisterWrite off v s
  | .reservedEncoding w => Sys2Proof.Machine.execReservedEncoding w s
  | .powerUp => Sys2Proof.Machine.execPowerUp s
  | .rebuildDone => Sys2Proof.Machine.execRebuildDone s
  | .straitFlitReplay port => Sys2Proof.Machine.execStraitFlitReplay port s
  | .cwFlitReplay port => Sys2Proof.Machine.execCwFlitReplay port s
  | .frameForward dst cls body => Sys2Proof.Machine.execFrameForward dst cls body s
  | .add d a b => Sys2Proof.Machine.execAdd d a b s
  | .sub d a b => Sys2Proof.Machine.execSub d a b s
  | .and d a b => Sys2Proof.Machine.execAnd d a b s
  | .or d a b => Sys2Proof.Machine.execOr d a b s
  | .xor d a b => Sys2Proof.Machine.execXor d a b s
  | .andn d a b => Sys2Proof.Machine.execAndn d a b s
  | .shl d a b => Sys2Proof.Machine.execShl d a b s
  | .shr d a b => Sys2Proof.Machine.execShr d a b s
  | .sra d a b => Sys2Proof.Machine.execSra d a b s
  | .rotr d a b => Sys2Proof.Machine.execRotr d a b s
  | .slt d a b => Sys2Proof.Machine.execSlt d a b s
  | .sltu d a b => Sys2Proof.Machine.execSltu d a b s
  | .min d a b => Sys2Proof.Machine.execMin d a b s
  | .max d a b => Sys2Proof.Machine.execMax d a b s
  | .minu d a b => Sys2Proof.Machine.execMinu d a b s
  | .maxu d a b => Sys2Proof.Machine.execMaxu d a b s
  | .mul d a b => Sys2Proof.Machine.execMul d a b s
  | .mulh d a b => Sys2Proof.Machine.execMulh d a b s
  | .mulhu d a b => Sys2Proof.Machine.execMulhu d a b s
  | .div d a b => Sys2Proof.Machine.execDiv d a b s
  | .divu d a b => Sys2Proof.Machine.execDivu d a b s
  | .rem d a b => Sys2Proof.Machine.execRem d a b s
  | .remu d a b => Sys2Proof.Machine.execRemu d a b s
  | .clz d a => Sys2Proof.Machine.execClz d a s
  | .ctz d a => Sys2Proof.Machine.execCtz d a s
  | .popc d a => Sys2Proof.Machine.execPopc d a s
  | .sel d a b => Sys2Proof.Machine.execSel d a b s
  | .addi d a im => Sys2Proof.Machine.execAddi d a im s
  | .andi d a im => Sys2Proof.Machine.execAndi d a im s
  | .ori d a im => Sys2Proof.Machine.execOri d a im s
  | .xori d a im => Sys2Proof.Machine.execXori d a im s
  | .slti d a im => Sys2Proof.Machine.execSlti d a im s
  | .shli d a n => Sys2Proof.Machine.execShli d a n s
  | .shri d a n => Sys2Proof.Machine.execShri d a n s
  | .srai d a n => Sys2Proof.Machine.execSrai d a n s
  | .movi d im => Sys2Proof.Machine.execMovi d im s
  | .movhi d im => Sys2Proof.Machine.execMovhi d im s
  | .addpc d im => Sys2Proof.Machine.execAddpc d im s
  | .ldb d a im => Sys2Proof.Machine.execLdb d a im s
  | .ldbu d a im => Sys2Proof.Machine.execLdbu d a im s
  | .ldh d a im => Sys2Proof.Machine.execLdh d a im s
  | .ldhu d a im => Sys2Proof.Machine.execLdhu d a im s
  | .ldw d a im => Sys2Proof.Machine.execLdw d a im s
  | .ldwu d a im => Sys2Proof.Machine.execLdwu d a im s
  | .ldd d a im => Sys2Proof.Machine.execLdd d a im s
  | .ldp d a im => Sys2Proof.Machine.execLdp d a im s
  | .stb d a im => Sys2Proof.Machine.execStb d a im s
  | .sth d a im => Sys2Proof.Machine.execSth d a im s
  | .stw d a im => Sys2Proof.Machine.execStw d a im s
  | .std d a im => Sys2Proof.Machine.execStd d a im s
  | .stp d a im => Sys2Proof.Machine.execStp d a im s
  | .beq a b j => Sys2Proof.Machine.execBeq a b j s
  | .bne a b j => Sys2Proof.Machine.execBne a b j s
  | .blt a b j => Sys2Proof.Machine.execBlt a b j s
  | .bge a b j => Sys2Proof.Machine.execBge a b j s
  | .bltu a b j => Sys2Proof.Machine.execBltu a b j s
  | .bgeu a b j => Sys2Proof.Machine.execBgeu a b j s
  | .loop a j => Sys2Proof.Machine.execLoop a j s
  | .loopi n j => Sys2Proof.Machine.execLoopi n j s
  | .j j => Sys2Proof.Machine.execJ j s
  | .jal d im => Sys2Proof.Machine.execJal d im s
  | .jalr d a im => Sys2Proof.Machine.execJalr d a im s
  | .csrr d c => Sys2Proof.Machine.execCsrr d c s
  | .csrw d c => Sys2Proof.Machine.execCsrw d c s
  | .csrs d c => Sys2Proof.Machine.execCsrs d c s
  | .csrc d c => Sys2Proof.Machine.execCsrc d c s
  | .wbase im => Sys2Proof.Machine.execWbase im s
  | .mark im => Sys2Proof.Machine.execMark im s
  | .trap c => Sys2Proof.Machine.execTrap c s
  | .eret => Sys2Proof.Machine.execEret s
  | .yield => Sys2Proof.Machine.execYield s
  | .park n => Sys2Proof.Machine.execPark n s
  | .ozhash d => Sys2Proof.Machine.execOzhash d s
  | .ozvrfy d => Sys2Proof.Machine.execOzvrfy d s
  | .ozsign d => Sys2Proof.Machine.execOzsign d s
  | .ozkdf d => Sys2Proof.Machine.execOzkdf d s
  | .ozrand d => Sys2Proof.Machine.execOzrand d s
  | .ozwipe d => Sys2Proof.Machine.execOzwipe d s
  | .amoadd sc d a b => Sys2Proof.Machine.execAmoadd sc d a b s
  | .amoand sc d a b => Sys2Proof.Machine.execAmoand sc d a b s
  | .amoor sc d a b => Sys2Proof.Machine.execAmoor sc d a b s
  | .amoxor sc d a b => Sys2Proof.Machine.execAmoxor sc d a b s
  | .amomin sc d a b => Sys2Proof.Machine.execAmomin sc d a b s
  | .amomax sc d a b => Sys2Proof.Machine.execAmomax sc d a b s
  | .amominu sc d a b => Sys2Proof.Machine.execAmominu sc d a b s
  | .amomaxu sc d a b => Sys2Proof.Machine.execAmomaxu sc d a b s
  | .amoswap sc d a b => Sys2Proof.Machine.execAmoswap sc d a b s
  | .amoadd32 sc d a b => Sys2Proof.Machine.execAmoadd32 sc d a b s
  | .amoand32 sc d a b => Sys2Proof.Machine.execAmoand32 sc d a b s
  | .amoor32 sc d a b => Sys2Proof.Machine.execAmoor32 sc d a b s
  | .amoxor32 sc d a b => Sys2Proof.Machine.execAmoxor32 sc d a b s
  | .amomin32 sc d a b => Sys2Proof.Machine.execAmomin32 sc d a b s
  | .amomax32 sc d a b => Sys2Proof.Machine.execAmomax32 sc d a b s
  | .amominu32 sc d a b => Sys2Proof.Machine.execAmominu32 sc d a b s
  | .amomaxu32 sc d a b => Sys2Proof.Machine.execAmomaxu32 sc d a b s
  | .amoswap32 sc d a b => Sys2Proof.Machine.execAmoswap32 sc d a b s
  | .cas sc d a b => Sys2Proof.Machine.execCas sc d a b s
  | .casp sc d a b => Sys2Proof.Machine.execCasp sc d a b s
  | .lda d a sc w4 o => Sys2Proof.Machine.execLda d a sc w4 o s
  | .stl d a sc w4 o => Sys2Proof.Machine.execStl d a sc w4 o s
  | .fence sc => Sys2Proof.Machine.execFence sc s
  | .fenceSv sc => Sys2Proof.Machine.execFenceSv sc s
  | .fenceVs sc => Sys2Proof.Machine.execFenceVs sc s
  | .fenceVv sc => Sys2Proof.Machine.execFenceVv sc s
  | .monarm a => Sys2Proof.Machine.execMonarm a s
  | .monwait d b => Sys2Proof.Machine.execMonwait d b s
  | .cwb a b => Sys2Proof.Machine.execCwb a b s
  | .cinv a b => Sys2Proof.Machine.execCinv a b s
  | .cflush a b => Sys2Proof.Machine.execCflush a b s
  | .vsettype d v => Sys2Proof.Machine.execVsettype d v s
  | .vsetshape d a b => Sys2Proof.Machine.execVsetshape d a b s
  | .vsetl d a => Sys2Proof.Machine.execVsetl d a s
  | .vlq d => Sys2Proof.Machine.execVlq d s
  | .vadd d a b m => Sys2Proof.Machine.execVadd d a b m s
  | .vsub d a b m => Sys2Proof.Machine.execVsub d a b m s
  | .vmul d a b m => Sys2Proof.Machine.execVmul d a b m s
  | .vmulh d a b m => Sys2Proof.Machine.execVmulh d a b m s
  | .vmadd d a b m => Sys2Proof.Machine.execVmadd d a b m s
  | .vmin d a b m => Sys2Proof.Machine.execVmin d a b m s
  | .vmax d a b m => Sys2Proof.Machine.execVmax d a b m s
  | .vabsd d a b m => Sys2Proof.Machine.execVabsd d a b m s
  | .vminu d a b m => Sys2Proof.Machine.execVminu d a b m s
  | .vmaxu d a b m => Sys2Proof.Machine.execVmaxu d a b m s
  | .vadds d a b m => Sys2Proof.Machine.execVadds d a b m s
  | .vsubs d a b m => Sys2Proof.Machine.execVsubs d a b m s
  | .vavg d a b m => Sys2Proof.Machine.execVavg d a b m s
  | .vshl d a b m => Sys2Proof.Machine.execVshl d a b m s
  | .vshr d a b m => Sys2Proof.Machine.execVshr d a b m s
  | .vsra d a b m => Sys2Proof.Machine.execVsra d a b m s
  | .vwadd d a b m => Sys2Proof.Machine.execVwadd d a b m s
  | .vwmul d a b m => Sys2Proof.Machine.execVwmul d a b m s
  | .vcmpeq d a b m => Sys2Proof.Machine.execVcmpeq d a b m s
  | .vcmpne d a b m => Sys2Proof.Machine.execVcmpne d a b m s
  | .vcmplt d a b m => Sys2Proof.Machine.execVcmplt d a b m s
  | .vcmple d a b m => Sys2Proof.Machine.execVcmple d a b m s
  | .vcmpltu d a b m => Sys2Proof.Machine.execVcmpltu d a b m s
  | .vcmpleu d a b m => Sys2Proof.Machine.execVcmpleu d a b m s
  | .vfadd d a b m => Sys2Proof.Machine.execVfadd d a b m s
  | .vfsub d a b m => Sys2Proof.Machine.execVfsub d a b m s
  | .vfmul d a b m => Sys2Proof.Machine.execVfmul d a b m s
  | .vfma d a b m => Sys2Proof.Machine.execVfma d a b m s
  | .vfms d a b m => Sys2Proof.Machine.execVfms d a b m s
  | .vfnma d a b m => Sys2Proof.Machine.execVfnma d a b m s
  | .vfdiv d a b m => Sys2Proof.Machine.execVfdiv d a b m s
  | .vfmin d a b m => Sys2Proof.Machine.execVfmin d a b m s
  | .vfmax d a b m => Sys2Proof.Machine.execVfmax d a b m s
  | .vfabs d a m => Sys2Proof.Machine.execVfabs d a m s
  | .vfneg d a m => Sys2Proof.Machine.execVfneg d a m s
  | .vfclass d a m => Sys2Proof.Machine.execVfclass d a m s
  | .vfsqrt d a m => Sys2Proof.Machine.execVfsqrt d a m s
  | .vfrcp d a m => Sys2Proof.Machine.execVfrcp d a m s
  | .vfrsq d a m => Sys2Proof.Machine.execVfrsq d a m s
  | .vfexp2 d a m => Sys2Proof.Machine.execVfexp2 d a m s
  | .vflog2 d a m => Sys2Proof.Machine.execVflog2 d a m s
  | .vftanh d a m => Sys2Proof.Machine.execVftanh d a m s
  | .vfcmpeq d a b m => Sys2Proof.Machine.execVfcmpeq d a b m s
  | .vfcmplt d a b m => Sys2Proof.Machine.execVfcmplt d a b m s
  | .vfcmple d a b m => Sys2Proof.Machine.execVfcmple d a b m s
  | .vcvt d a c m => Sys2Proof.Machine.execVcvt d a c m s
  | .vnarrow d a b m => Sys2Proof.Machine.execVnarrow d a b m s
  | .vdq d a b m => Sys2Proof.Machine.execVdq d a b m s
  | .vand d a b m => Sys2Proof.Machine.execVand d a b m s
  | .vor d a b m => Sys2Proof.Machine.execVor d a b m s
  | .vxor d a b m => Sys2Proof.Machine.execVxor d a b m s
  | .vfshl d a b m => Sys2Proof.Machine.execVfshl d a b m s
  | .vfshr d a b m => Sys2Proof.Machine.execVfshr d a b m s
  | .vrot d a b m => Sys2Proof.Machine.execVrot d a b m s
  | .vpopc d a m => Sys2Proof.Machine.execVpopc d a m s
  | .vclz d a m => Sys2Proof.Machine.execVclz d a m s
  | .vlut3Tt71 t d a b => Sys2Proof.Machine.execVlut3Tt71 t d a b s
  | .vlut3Tt70 t d a b => Sys2Proof.Machine.execVlut3Tt70 t d a b s
  | .vslideup d a b m => Sys2Proof.Machine.execVslideup d a b m s
  | .vslidedn d a b m => Sys2Proof.Machine.execVslidedn d a b m s
  | .vgather d a b m => Sys2Proof.Machine.execVgather d a b m s
  | .vcompress d a => Sys2Proof.Machine.execVcompress d a s
  | .vexpand d a => Sys2Proof.Machine.execVexpand d a s
  | .vbcast d a m => Sys2Proof.Machine.execVbcast d a m s
  | .vtrans d a m => Sys2Proof.Machine.execVtrans d a m s
  | .vrowsh d a b m => Sys2Proof.Machine.execVrowsh d a b m s
  | .vredsum d a m => Sys2Proof.Machine.execVredsum d a m s
  | .vredmax d a m => Sys2Proof.Machine.execVredmax d a m s
  | .vredmin d a m => Sys2Proof.Machine.execVredmin d a m s
  | .vredand d a m => Sys2Proof.Machine.execVredand d a m s
  | .vredor d a m => Sys2Proof.Machine.execVredor d a m s
  | .vfredsum d a m => Sys2Proof.Machine.execVfredsum d a m s
  | .vfredmax d a m => Sys2Proof.Machine.execVfredmax d a m s
  | .mand d a b => Sys2Proof.Machine.execMand d a b s
  | .mor d a b => Sys2Proof.Machine.execMor d a b s
  | .mxor d a b => Sys2Proof.Machine.execMxor d a b s
  | .mnot d a => Sys2Proof.Machine.execMnot d a s
  | .mpopc d a => Sys2Proof.Machine.execMpopc d a s
  | .mfirst d a => Sys2Proof.Machine.execMfirst d a s
  | .mset d a b => Sys2Proof.Machine.execMset d a b s
  | .vchain n => Sys2Proof.Machine.execVchain n s
  | .vchrun a b => Sys2Proof.Machine.execVchrun a b s
  | .qset d a im => Sys2Proof.Machine.execQset d a im s
  | .qsetx d a b => Sys2Proof.Machine.execQsetx d a b s
  | .qbind d a k => Sys2Proof.Machine.execQbind d a k s
  | .qunbind d => Sys2Proof.Machine.execQunbind d s
  | .vld d a m => Sys2Proof.Machine.execVld d a m s
  | .vlds d a b m => Sys2Proof.Machine.execVlds d a b m s
  | .vldx d a b m => Sys2Proof.Machine.execVldx d a b m s
  | .vst d a m => Sys2Proof.Machine.execVst d a m s
  | .vsts d a b m => Sys2Proof.Machine.execVsts d a b m s
  | .vstx d a b m => Sys2Proof.Machine.execVstx d a b m s
  | .vstu d a m => Sys2Proof.Machine.execVstu d a m s
  | .vstn d a b m => Sys2Proof.Machine.execVstn d a b m s
  | .vstrc d a b m => Sys2Proof.Machine.execVstrc d a b m s
  | .vspill d a => Sys2Proof.Machine.execVspill d a s
  | .vfill d a => Sys2Proof.Machine.execVfill d a s
  | .kld n a c j => Sys2Proof.Machine.execKld n a c j s
  | .top t a b c r => Sys2Proof.Machine.execTop t a b c r s
  | .topi t a b c r => Sys2Proof.Machine.execTopi t a b c r s
  | .topq t a b c r => Sys2Proof.Machine.execTopq t a b c r s
  | .toph t a b c r => Sys2Proof.Machine.execToph t a b c r s
  | .tops t a b side c r => Sys2Proof.Machine.execTops t a b side c r s
  | .tmovv t d b => Sys2Proof.Machine.execTmovv t d b s
  | .tmovt t a b => Sys2Proof.Machine.execTmovt t a b s
  | .tepi t d b cb o u => Sys2Proof.Machine.execTepi t d b cb o u s
  | .tcfg d => Sys2Proof.Machine.execTcfg d s
  | .tzero d => Sys2Proof.Machine.execTzero d s
  | .tstat d c => Sys2Proof.Machine.execTstat d c s
  | .dadd d a b => Sys2Proof.Machine.execDadd d a b s
  | .dsub d a b => Sys2Proof.Machine.execDsub d a b s
  | .dmul d a b => Sys2Proof.Machine.execDmul d a b s
  | .dmax d a b => Sys2Proof.Machine.execDmax d a b s
  | .dmin d a b => Sys2Proof.Machine.execDmin d a b s
  | .dmix d a b => Sys2Proof.Machine.execDmix d a b s
  | .daff d a b => Sys2Proof.Machine.execDaff d a b s
  | .dmom d a k => Sys2Proof.Machine.execDmom d a k s
  | .dqnt d a b => Sys2Proof.Machine.execDqnt d a b s
  | .dcdf d a b => Sys2Proof.Machine.execDcdf d a b s
  | .dld d a c => Sys2Proof.Machine.execDld d a c s
  | .dst d a => Sys2Proof.Machine.execDst d a s
  | .dfromv d a c => Sys2Proof.Machine.execDfromv d a c s
  | .dbuild d a b => Sys2Proof.Machine.execDbuild d a b s
  | .dtag d a b => Sys2Proof.Machine.execDtag d a b s
  | .xcopy a b => Sys2Proof.Machine.execXcopy a b s
  | .xgath a b => Sys2Proof.Machine.execXgath a b s
  | .xcoll a b => Sys2Proof.Machine.execXcoll a b s
  | .binit a b => Sys2Proof.Machine.execBinit a b s
  | .barrive a n => Sys2Proof.Machine.execBarrive a n s
  | .bexpect a b => Sys2Proof.Machine.execBexpect a b s
  | .bwait d a b => Sys2Proof.Machine.execBwait d a b s
  | .btest d a => Sys2Proof.Machine.execBtest d a s
  | .dbar => Sys2Proof.Machine.execDbar s
  | .seal d w => Sys2Proof.Machine.execSeal d w s
  | .rinq d k => Sys2Proof.Machine.execRinq d k s
  | .extw d => Sys2Proof.Machine.execExtw d s
  | .awaitImm d im n => Sys2Proof.Machine.execAwaitImm d im n s
  | .awaitReg d a b => Sys2Proof.Machine.execAwaitReg d a b s
  | .apref l a e v => Sys2Proof.Machine.execApref l a e v s
  | .aplace a b g => Sys2Proof.Machine.execAplace a b g s
  | .aprio p => Sys2Proof.Machine.execAprio p s
  | .aorder p => Sys2Proof.Machine.execAorder p s
  | .ald d a im => Sys2Proof.Machine.execAld d a im s
  | .adrop p => Sys2Proof.Machine.execAdrop p s
  | .aend => Sys2Proof.Machine.execAend s

end Sys2Proof.Machine
end

