-- ==== Sys2Proof/Machine/Step.lean ====
section
/-! DEFINITION. Sys2Proof/Machine/Step.lean: one step of the machine, and the placing of one instruction where the next step fetches it (log 22). -/
namespace Sys2Proof.Machine

/-- One word of the current agent: fetched, decoded, executed (05 R108 to R115). -/
noncomputable def runAgent (s : State) : Host.Outcome State Fault Refusal :=
  match fetch s with
  | .ok r => exec (instrOf r.1) r.2
  | .error o => o

/-- One step: an event that is due, or one word of the agent that moves next. -/
noncomputable def step (s : State) : Host.Outcome State Fault Refusal :=
  match takeTurn s with
  | .event i t => exec i t
  | .run t => runAgent t
  | .idle t => .next t

/-- Launch header of the node that carries a placed instruction: one task, parts = 1, vregs = 8 (03 Table 3.8). -/
def placedHeader : List Byte := [0, 1, 1, 0, 64, 0, 0, 0, 0, 0, 1, 1, 1, 8, 0, 0, 1, 0, 0, 0] ++ List.replicate 44 0

/-- The leaf of the page that holds it: physical page 0 with RD, W and X, MT 0 (04 Table 4.2). -/
def placedLeaf : Word := 0x39

/-- A running KERNEL node of one task whose text is the page at 0x10000 and whose data is the same page. -/
def placedNode (num : Nat) (a : Agent) : Node :=
  { num := num, addr := 0, slot := 0, state := .running, raw := List.replicate 256 0, hdr := placedHeader, ranges := [], sem := [], digest := 0,
    readFail := 0, main := true, strand := 0, pos := 0, loops := [], sel := 8, nextWait := .none, cwWait := [], cwPage := false, arrivals := 1, readyNo := 0, readyAt := 0,
    occ := 1, iter := 0, capped := false, cause := 0, resWait := false, asked := [], lease := [⟨0x10000, 0x10000, true, true, true, 0⟩], asid := 0,
    pages := [(1, placedLeaf)], cores := [0], nextTask := [1], left := 0, endedTasks := 0, failedTasks := [], phase := 0, tags := [], writes := [], doneRin := 0, pinned := false,
    advText := if a = .advice then 0x10000 else 0, advSize := if a = .advice then 4 else 0, advPages := if a = .advice then [(1, placedLeaf)] else [] }

/-- The hart that runs it, with an advice context when the word is one that only the sequencer executes. -/
def placedHart (hid num : Nat) (a : Agent) : Hart :=
  { Hart.absent with
    hid := hid, status := .running, node := num, front := { Front.reset with pc := 0x10000 },
    adv := if a = .advice then
        { Advice.reset with status := .ready, front := { Front.reset with pc := 0x10000 }, wdog := 0x10000, text := 0x10000, textSize := 4 }
      else Advice.reset }

/-- The agent that executes a word: the sequencer for majors 0x52 to 0x57, Ozsis for major 0x17 with fn 8 to 13, else a hart. -/
def wordAgent (w : Nat) : Agent :=
  if 0x52 ≤ nbits w 25 7 ∧ nbits w 25 7 ≤ 0x57 then .advice
  else if nbits w 25 7 = 0x17 ∧ 8 ≤ nbits w 0 6 ∧ nbits w 0 6 ≤ 13 then .ozsis
  else .hart

/-- Physical address of the word that the current hart fetches next, when it can run. -/
def fetchPA (s : State) : Option Nat :=
  if s.hart.status = .running ∧ checkAccess s s.hart.node s.hart.front.pc.toNat 4 false false true = none then
    (nodeOf s s.hart.node).bind (fun nd => (nodePA nd s.hart.front.pc).map Prod.fst)
  else none

/-- The hart that runs steps aside for another one. -/
def asideHart (s : State) (h : Hart) (a : Agent) : State :=
  { s with agent := a, hart := h, others := if s.hart.status = .absent then s.others else s.hart :: s.others }

/-- Place a word at a physical address, not poisoned. -/
def placeAt (s : State) (pa w : Nat) : State :=
  { s with mem := Store.write memDefault s.mem pa (natBytes w 4), poison := Store.set zeroOf s.poison (pa / 64) 0, nc := [] }

/-- A word placed for a hart or an advice context of its own, which moves next. -/
def placed (s : State) (w : Nat) (a : Agent) : State :=
  placeAt (asideHart
    { s with nodes := placedNode s.nextNode a :: s.nodes, nextNode := s.nextNode + 1, nextHid := s.nextHid + 1, sched := [.run s.nextHid a] }
    (placedHart s.nextHid s.nextNode a) a) 0 w

/-- `s` with an instruction stored where the next step fetches (log 22): by the hart that runs, or, where none runs or the word belongs to another
agent, by an agent that is placed to run it. -/
noncomputable def State.withFetchWord (s : State) (nbits w : Nat) : State :=
  let v := w % 2 ^ nbits % 2 ^ 32
  let t := { s with pending := [], sched := [] }
  match wordAgent v with
  | .ozsis =>
    { t with agent := .ozsis, boot := .running,
             oz := { t.oz with front := { t.oz.front with pc := 0 }, mem := Store.write zeroOf t.oz.mem 0 (natBytes v 4) } }
  | .hart =>
    match fetchPA t with
    | some pa => placeAt { t with agent := .hart, sched := [.run t.hart.hid .hart] } pa v
    | none => placed t v .hart
  | .advice => placed t v .advice

end Sys2Proof.Machine
end

