-- ==== Sys2Proof/Safety.lean ====
section
/-! DEFINITION. Sys2Proof/Safety.lean: the terms the claims are stated in: completed steps, what a step leaves unchanged, the invariant of a sound state,
and tables of what families of instructions compute, written from the tables of the spec and not from the meanings. -/
namespace Sys2Proof.Machine

/-- A step that neither faults nor is refused. -/
def Completes (o : Host.Outcome State Fault Refusal) : Prop := ∃ t, o = .next t

/-- The invariant of every state: memory is in its canonical form. -/
def State.Inv (s : State) : Prop := Memory.wf s.mem

/-- The byte of physical memory at an address. -/
def State.byteAt (s : State) (a : Nat) : Byte := Store.get memDefault s.mem a

/-- Every byte of memory reads as before. -/
def SameBytes (s t : State) : Prop := ∀ a, t.byteAt a = s.byteAt a

/-- Every byte of memory outside `n` bytes from `pa` on reads as before. -/
def SameBytesOutside (s t : State) (pa n : Nat) : Prop := ∀ a, a < pa ∨ pa + n ≤ a → t.byteAt a = s.byteAt a

/-- Physical scalar register `p` of the current hart (05 R94). -/
def State.preg (s : State) (p : Nat) : Word := Store.get zeroOf s.hart.front.regs p

/-- Every physical scalar register of the current hart but those listed holds what it held. -/
def SameRegs (s t : State) (but : List Nat) : Prop := ∀ p, p ∉ but → t.preg p = s.preg p

/-- Physical register that a write of scalar name `d` reaches: none for s0 (05 R94). -/
def destRegs (s : State) (d : Nat) : List Nat := if d = 0 then [] else [s.hart.front.wbase.toNat + d]

/-- A hart with the front end (registers, pc, loop levels and counters, window base) and the counters of another one, and what the model notes of its being
served: rounds passed over, since when it is ready, when it last retired. -/
def Hart.ran (h g : Hart) : Hart :=
  { h with front := g.front, ctr := g.ctr, passed := g.passed, aged := g.aged, since := g.since, retiredAt := g.retiredAt }

/-- Nothing differs but the front end of the current hart, its counters, and the model's counter of free values. -/
def OnlyFront (s t : State) : Prop := t = { s with hart := s.hart.ran t.hart, free := t.free }

/-- Nothing differs but the current hart and the model's counter of free values: memory, caches, engines, nodes and every other hart stay. -/
def OnlyHart (s t : State) : Prop := t = { s with hart := t.hart, free := t.free }

/-- The instruction at pc has retired: the count of retired instructions rose by one (18 R400). -/
def Retired (s t : State) : Prop := t.hart.ctr.retired = s.hart.ctr.retired + 1

/-- Control fell through: outside the loops' bodies the next instruction in address order follows (06 R132). -/
def FellThrough (s t : State) : Prop := s.front.levels = [] → t.front.pc = s.front.pc + 4

/-- High half of a signed and of an unsigned product (06 Table 6.1). -/
def highSigned (a b : Word) : Word := (a.signExtend 128 * b.signExtend 128).extractLsb' 64 64
def highUnsigned (a b : Word) : Word := (a.setWidth 128 * b.setWidth 128).extractLsb' 64 64

/-- The number of one bits, of zero bits above the highest one, and of zero bits below the lowest one (06 Table 6.1). -/
def onesOf (a : Word) : Word := BitVec.ofNat 64 ((List.range 64).countP (fun k => a.getLsbD k))
def leadingZeros (a : Word) : Word := BitVec.ofNat 64 ((List.range 64).takeWhile (fun k => !a.getMsbD k)).length
def trailingZeros (a : Word) : Word := BitVec.ofNat 64 ((List.range 64).takeWhile (fun k => !a.getLsbD k)).length

/-- What the register and immediate ALU instructions compute (06 Table 6.1, R121 to R123): the fields of seven bits that must name scalar registers, the
destination, and the value; `r` reads the registers before the instruction. -/
def aluOf (i : Instr) (r : Nat → Word) (pc : Word) : Option (List (BitVec 7) × Nat × Word) :=
  match i with
  | .add d a b => some ([d, a, b], d.toNat, r a.toNat + r b.toNat)
  | .sub d a b => some ([d, a, b], d.toNat, r a.toNat - r b.toNat)
  | .and d a b => some ([d, a, b], d.toNat, r a.toNat &&& r b.toNat)
  | .or d a b => some ([d, a, b], d.toNat, r a.toNat ||| r b.toNat)
  | .xor d a b => some ([d, a, b], d.toNat, r a.toNat ^^^ r b.toNat)
  | .andn d a b => some ([d, a, b], d.toNat, r a.toNat &&& ~~~(r b.toNat))
  | .shl d a b => some ([d, a, b], d.toNat, r a.toNat <<< ((r b.toNat).toNat % 64))
  | .shr d a b => some ([d, a, b], d.toNat, r a.toNat >>> ((r b.toNat).toNat % 64))
  | .sra d a b => some ([d, a, b], d.toNat, (r a.toNat).sshiftRight ((r b.toNat).toNat % 64))
  | .rotr d a b => some ([d, a, b], d.toNat, (r a.toNat).rotateRight ((r b.toNat).toNat % 64))
  | .slt d a b => some ([d, a, b], d.toNat, if (r a.toNat).toInt < (r b.toNat).toInt then 1 else 0)
  | .sltu d a b => some ([d, a, b], d.toNat, if (r a.toNat).toNat < (r b.toNat).toNat then 1 else 0)
  | .min d a b => some ([d, a, b], d.toNat, if (r a.toNat).toInt ≤ (r b.toNat).toInt then r a.toNat else r b.toNat)
  | .max d a b => some ([d, a, b], d.toNat, if (r a.toNat).toInt ≤ (r b.toNat).toInt then r b.toNat else r a.toNat)
  | .minu d a b => some ([d, a, b], d.toNat, if (r a.toNat).toNat ≤ (r b.toNat).toNat then r a.toNat else r b.toNat)
  | .maxu d a b => some ([d, a, b], d.toNat, if (r a.toNat).toNat ≤ (r b.toNat).toNat then r b.toNat else r a.toNat)
  | .mul d a b => some ([d, a, b], d.toNat, r a.toNat * r b.toNat)
  | .mulh d a b => some ([d, a, b], d.toNat, highSigned (r a.toNat) (r b.toNat))
  | .mulhu d a b => some ([d, a, b], d.toNat, highUnsigned (r a.toNat) (r b.toNat))
  | .sel d a b => some ([d, a, b], d.toNat, if r d.toNat = 0 then r b.toNat else r a.toNat)
  | .addi d a j => some ([d, a], d.toNat, r a.toNat + j.signExtend 64)
  | .andi d a j => some ([d, a], d.toNat, r a.toNat &&& j.signExtend 64)
  | .ori d a j => some ([d, a], d.toNat, r a.toNat ||| j.signExtend 64)
  | .xori d a j => some ([d, a], d.toNat, r a.toNat ^^^ j.signExtend 64)
  | .slti d a j => some ([d, a], d.toNat, if (r a.toNat).toInt < (j.signExtend 64).toInt then 1 else 0)
  | .shli d a n => some ([], d.toNat, r a.toNat <<< n.toNat)
  | .shri d a n => some ([], d.toNat, r a.toNat >>> n.toNat)
  | .srai d a n => some ([], d.toNat, (r a.toNat).sshiftRight n.toNat)
  | .movi d j => some ([d], d.toNat, j.signExtend 64)
  | .movhi d j => some ([], d.toNat, (r d.toNat <<< 18) ||| j.setWidth 64)
  | .addpc d j => some ([], d.toNat, pc + 4 * j.signExtend 64)
  | .clz d a => some ([d, a], d.toNat, leadingZeros (r a.toNat))
  | .ctz d a => some ([d, a], d.toNat, trailingZeros (r a.toNat))
  | .popc d a => some ([d, a], d.toNat, onesOf (r a.toNat))
  | _ => none

/-- Comparison and offset of a conditional branch (06 R128). -/
def branchOf (i : Instr) (r : Nat → Word) : Option (Bool × BitVec 11) :=
  match i with
  | .beq a b j => some (decide (r a.toNat = r b.toNat), j)
  | .bne a b j => some (decide (r a.toNat ≠ r b.toNat), j)
  | .blt a b j => some (decide ((r a.toNat).toInt < (r b.toNat).toInt), j)
  | .bge a b j => some (decide ((r b.toNat).toInt ≤ (r a.toNat).toInt), j)
  | .bltu a b j => some (decide ((r a.toNat).toNat < (r b.toNat).toNat), j)
  | .bgeu a b j => some (decide ((r b.toNat).toNat ≤ (r a.toNat).toNat), j)
  | _ => none

/-- Target and link register of an unconditional jump (06 R129). -/
def jumpOf (i : Instr) (r : Nat → Word) (pc : Word) : Option (Word × Nat) :=
  match i with
  | .j o => some (pc + 4 * o.signExtend 64, 0)
  | .jal d o => some (pc + 4 * o.signExtend 64, d.toNat)
  | .jalr d a o => some (r a.toNat + o.signExtend 64, d.toNat)
  | _ => none

/-- Count and offset of a loop instruction (06 R131). -/
def loopOf (i : Instr) (r : Nat → Word) : Option (Word × BitVec 11) :=
  match i with
  | .loop a j => some (r a.toNat, j)
  | .loopi n j => some (n.setWidth 64, j)
  | _ => none

/-- A hart with the note of a sleeping BWAIT set that the PHASE of its object has changed (15 R351): what a store leaves of another hart. -/
def Hart.still (h : Hart) : Hart := { h with wait := h.wait.phaseMoved }

/-- No other hart differs, but for that note. -/
def SameOthers (s t : State) : Prop := t.others.map Hart.still = s.others.map Hart.still

/-- Nothing of the hart differs but its front end and counters, and no other hart differs, each but for that note. -/
def SameHart (s t : State) : Prop := t.agent = s.agent ∧ SameOthers s t ∧ t.hart.still = (s.hart.ran t.hart).still

/-- Nothing differs but front end, counters and what a read of a coherent line moves: directory, RDC lines, the recall counter (11 R236, R237),
and the RIN of a die that receives data of a later interval (19 R403). -/
def OnlyFrontAndCaches (s t : State) : Prop :=
  t = { s with hart := s.hart.ran t.hart, free := t.free, dir := t.dir, rdc := t.rdc, mgmt := t.mgmt, rin := t.rin }

/-- Physical address and leaf that the node of the current hart keeps for an address (04 R72). -/
def State.pageOf (s : State) (va : Nat) : Option (Nat × Word) := (nodeOf s s.hart.node).bind (fun nd => nodePA nd (BitVec.ofNat 64 va))

/-- No transfer of the current hart is under way (15 R341). -/
def State.noTransfers (s : State) : Bool := s.transfers.all (fun t => decide (t.hid ≠ s.hart.hid))

/-- An access at `va` reaches device memory at `pa` through a page of memory type 0 that is not NC, and the sector is not poisoned. -/
def State.plainAt (s : State) (va pa : Nat) : Bool :=
  match s.pageOf va with
  | some (q, e) => decide (q = pa) && decide (leafMT e = 0) && !leafNC e && isDeviceMem pa && !poisonAt s pa
  | none => false

/-- A hart's read of `n` bytes at `va` that meets nothing in its way: within one sector, its checks pass (04 R73), no transfer, no injected fault, no
deterministic mode, no counted line, and the line can be had. -/
def State.plainLoad (s : State) (va n pa : Nat) : Bool :=
  (s.agent == .hart) && decide (s.hart.det = 0) && s.noTransfers && s.counted.isEmpty && decide (0 < n ∧ va % 64 + n ≤ 64)
    && decide (checkAccess s s.hart.node va n true false false = none) && s.plainAt va pa && (cohRead s s.die (pa / 256)).isSome
    && decide (injKind s.hart.inj.tinject ≠ 4)

/-- A hart's store of `n` bytes at `va` that meets nothing in its way: the same, and the version store has room (19 R406). -/
def State.plainStore (s : State) (va n pa : Nat) : Bool :=
  (s.agent == .hart) && decide (s.hart.det = 0) && s.noTransfers && decide (0 < n ∧ va % 64 + n ≤ 64)
    && decide (checkAccess s s.hart.node va n false true false = none) && s.plainAt va pa && !vsFull s (homeDie pa)
    && (cohWrite s s.die (pa / 256) (pa / 64)).isSome

/-- An atomic on `n` bytes at `va` that meets nothing in its way; it acts at the line's home (16 R362). -/
def State.plainAtomic (s : State) (va n pa : Nat) : Bool :=
  (s.agent == .hart) && s.noTransfers && s.counted.isEmpty && decide (0 < n ∧ va % 64 + n ≤ 64)
    && decide (checkAccess s s.hart.node va n true true false = none) && s.plainAt va pa && !vsFull s (homeDie pa)
    && (cohWrite s (homeDie pa) (pa / 256) (pa / 64)).isSome && (cohRead s (homeDie pa) (pa / 256)).isSome

/-- The hart after the load at its pc has taken its number among the events of KIND 4 (18 R399): none is counted while no such fault is armed, nor again when
the load is executed once more after its handler. -/
def State.numbered (s : State) : State :=
  match xLoadNo 1 s with
  | .ok r => r.2
  | .error _ => s

/-- Width and sign of the scalar loads, with destination, base and offset (06 Table 6.3). -/
def loadOf (i : Instr) : Option (Nat × Bool × BitVec 6 × BitVec 6 × BitVec 11) :=
  match i with
  | .ldb d a j => some (1, true, d, a, j)
  | .ldbu d a j => some (1, false, d, a, j)
  | .ldh d a j => some (2, true, d, a, j)
  | .ldhu d a j => some (2, false, d, a, j)
  | .ldw d a j => some (4, true, d, a, j)
  | .ldwu d a j => some (4, false, d, a, j)
  | .ldd d a j => some (8, false, d, a, j)
  | _ => none

/-- Bytes stored by the scalar stores, with base and offset (06 Table 6.3). -/
def storeOf (i : Instr) (r : Nat → Word) : Option (List Byte × BitVec 6 × BitVec 11) :=
  match i with
  | .stb d a j => some (natBytes (r d.toNat).toNat 1, a, j)
  | .sth d a j => some (natBytes (r d.toNat).toNat 2, a, j)
  | .stw d a j => some (natBytes (r d.toNat).toNat 4, a, j)
  | .std d a j => some (natBytes (r d.toNat).toNat 8, a, j)
  | .stp d a j => if d.toNat % 2 = 0 then some (natBytes (r d.toNat).toNat 8 ++ natBytes (r (d.toNat + 1)).toNat 8, a, j) else none
  | _ => none

/-- A loaded number of n bytes in a register (06 Table 6.3). -/
def loadValue (n : Nat) (signed : Bool) (v : Nat) : Word :=
  if signed then (BitVec.ofNat (8 * n) v).signExtend 64 else (BitVec.ofNat (8 * n) v).setWidth 64

/-- Width, operands and function of the atomics (16 Table of R362): F(old, b) on numbers of the width. -/
def amoOf (i : Instr) : Option (Nat × BitVec 6 × BitVec 6 × BitVec 6 × ((w : Nat) → BitVec w → BitVec w → BitVec w)) :=
  match i with
  | .amoadd _ d a b => some (8, d, a, b, fun _ x y => x + y)
  | .amoand _ d a b => some (8, d, a, b, fun _ x y => x &&& y)
  | .amoor _ d a b => some (8, d, a, b, fun _ x y => x ||| y)
  | .amoxor _ d a b => some (8, d, a, b, fun _ x y => x ^^^ y)
  | .amomin _ d a b => some (8, d, a, b, fun _ x y => if x.toInt ≤ y.toInt then x else y)
  | .amomax _ d a b => some (8, d, a, b, fun _ x y => if x.toInt ≤ y.toInt then y else x)
  | .amominu _ d a b => some (8, d, a, b, fun _ x y => if x.toNat ≤ y.toNat then x else y)
  | .amomaxu _ d a b => some (8, d, a, b, fun _ x y => if x.toNat ≤ y.toNat then y else x)
  | .amoswap _ d a b => some (8, d, a, b, fun _ _ y => y)
  | .amoadd32 _ d a b => some (4, d, a, b, fun _ x y => x + y)
  | .amoand32 _ d a b => some (4, d, a, b, fun _ x y => x &&& y)
  | .amoor32 _ d a b => some (4, d, a, b, fun _ x y => x ||| y)
  | .amoxor32 _ d a b => some (4, d, a, b, fun _ x y => x ^^^ y)
  | .amomin32 _ d a b => some (4, d, a, b, fun _ x y => if x.toInt ≤ y.toInt then x else y)
  | .amomax32 _ d a b => some (4, d, a, b, fun _ x y => if x.toInt ≤ y.toInt then y else x)
  | .amominu32 _ d a b => some (4, d, a, b, fun _ x y => if x.toNat ≤ y.toNat then x else y)
  | .amomaxu32 _ d a b => some (4, d, a, b, fun _ x y => if x.toNat ≤ y.toNat then y else x)
  | .amoswap32 _ d a b => some (4, d, a, b, fun _ _ y => y)
  | _ => none

/-- A fence that waits for no transfer: FENCE.SV, scope .h, or no transfer of the hart under way (16 R365). -/
def fenceOf (i : Instr) : Option (Bool × BitVec 3) :=
  match i with
  | .fence sc => some (true, sc)
  | .fenceSv sc => some (false, sc)
  | .fenceVs sc => some (true, sc)
  | .fenceVv sc => some (true, sc)
  | _ => none

/-- No other hart of the core waits for its lane slot (05 R103). -/
def State.noneReady (s : State) : Bool := s.others.all (fun h => !(sameCore s.hart h && h.readyParked))

/-- A barrier operand of the current hart that passes the checks of 15 R344, with no transfer in the way. -/
def State.barrierOpen (s : State) (op : Word) : Bool :=
  (s.agent == .hart) && s.noTransfers && decide (op.toNat % 16 = 0)
    && (if barSpad op then decide (nbits op.toNat 22 41 = 0)
        else decide (checkAccess s s.hart.node op.toNat 16 true true false = none) &&
          (match s.pageOf op.toNat with
           | some (_, e) => decide (leafMT e = 0) && !leafNC e && !leafEPH e && isDeviceMem (leafPA e)
           | none => false))

/-- The object of a barrier operand can be written: for one in memory its home has version-store room (19 R402) and the line can be had (11 R235). -/
def State.barrierRoom (s : State) (op : Word) : Bool :=
  barSpad op || (match s.pageOf op.toNat with
    | some (pa, _) => !vsFull s (homeDie pa) && (cohWrite s (homeDie pa) (pa / 256) (pa / 64)).isSome
    | none => false)

/-- It holds the object `o`, not poisoned, with its reserved bits clear (15 R347). -/
def State.barrierAt (s : State) (op : Word) (o : Nat) : Bool :=
  s.barrierOpen op
    && (match barRead s s.who op with
        | some (x, bad, _) => decide (x = o) && !bad && barRzClear o
        | none => false)

/-- The CSRs of 05 Table 5.5 with the values they read as, but for lstate (06 R135). -/
def csrTable (s : State) : List (Nat × Word) :=
  let h := s.hart
  [(0x000, h.vec.vtype.setWidth 64), (0x001, h.vec.vshape.setWidth 64), (0x002, h.vec.vl.setWidth 64), (0x003, h.vec.vstart.setWidth 64),
   (0x004, h.vregs.setWidth 64), (0x005, BitVec.ofNat 64 (h.parts.toNat * 98304 / h.vregs.toNat)),
   (0x006, BitVec.ofNat 64 (h.slots.toNat * 256 + 32 / h.slots.toNat)), (0x007, BitVec.ofNat 64 (h.pfirst.toNat * 256 + h.parts.toNat)),
   (0x010, h.front.wbase.setWidth 64), (0x011, Store.get zeroOf h.front.lc 0), (0x012, Store.get zeroOf h.front.lc 1),
   (0x013, Store.get zeroOf h.front.lc 2), (0x020, h.vec.fflags.setWidth 64), (0x021, h.vec.frm.setWidth 64),
   (0x030, BitVec.ofNat 64 (h.pmId.toNat * 2 ^ 48 + h.pmOcc.toNat)), (0x031, h.wid), (0x032, h.widf), (0x033, h.lcore.setWidth 64),
   (0x034, h.ctx.setWidth 64), (0x040, h.mat.tshape), (0x041, h.mat.tfmt), (0x042, h.mat.tstat), (0x043, h.mat.tgrp),
   (0x060, (rinOf s s.die).setWidth 64), (0x061, ((nodeOf s h.node).elim 0 (fun nd => nd.phase)).setWidth 64), (0x062, h.det.setWidth 64),
   (0x070, h.trap.tcause.setWidth 64), (0x071, h.trap.tval), (0x072, h.trap.tepc), (0x073, h.trap.tstatus.setWidth 64), (0x074, h.trap.tvec),
   (0x080, h.ctr.cycle), (0x081, h.ctr.acycle), (0x082, h.ctr.retired), (0x083, h.ctr.vstall)]

/-- CSRs that a write changes, but lstate and tstatus (05 Table 5.5). -/
def writableCsrs : List Nat := [0x000, 0x001, 0x002, 0x003, 0x010, 0x011, 0x012, 0x013, 0x020, 0x021, 0x040, 0x041, 0x043, 0x070, 0x071, 0x072, 0x074]

/-- Operand, CSR and value written by CSRW, CSRS and CSRC (06 R137); `r` reads the registers, `old` is what the CSR reads as. -/
def csrOpOf (i : Instr) (r : Nat → Word) (old : Word) : Option (BitVec 7 × BitVec 12 × Word) :=
  match i with
  | .csrw d c => some (d, c, r d.toNat)
  | .csrs d c => some (d, c, old ||| r d.toNat)
  | .csrc d c => some (d, c, old &&& ~~~(r d.toNat))
  | _ => none

/-- Trap registers and pc after trap entry of a delivered cause (18 R387 step 3). -/
def Entered (s t : State) (code : Nat) (value tepc : Word) (vec : Bool) : Prop :=
  t.hart.trap.tcause = BitVec.ofNat 8 code ∧ t.hart.trap.tval = value ∧ t.hart.trap.tepc = tepc ∧ t.hart.trap.tvec = s.hart.trap.tvec ∧
  t.hart.trap.tstatus = (s.hart.front.wbase.setWidth 16 <<< 8) ||| (if vec then 4 else 0) ||| (if code = 8 then 2 else 0) ||| 1 ∧
  t.hart.front = { s.hart.front with pc := s.hart.trap.tvec }

/-- A permute takes no register that is bound to a stream (09 R209). -/
def unbound (h : Hart) (o : Option EInstr) : Option EInstr :=
  o.filter (fun i => !(i.srcs ++ i.writes).any (fun r => h.vec.isBound r))

/-- The element-wise instructions (08 R172 to R185; 10 R218 to R222): their operation on one element, or none for operands that fail their checks. -/
def elementOf (i : Instr) (h : Hart) : Option (Option EInstr) :=
  match i with
  | .vadd d a b m => some (eVadd h d a b m)
  | .vsub d a b m => some (eVsub h d a b m)
  | .vmul d a b m => some (eVmul h d a b m)
  | .vmulh d a b m => some (eVmulh h d a b m)
  | .vmadd d a b m => some (eVmadd h d a b m)
  | .vmin d a b m => some (eVmin h d a b m)
  | .vmax d a b m => some (eVmax h d a b m)
  | .vabsd d a b m => some (eVabsd h d a b m)
  | .vminu d a b m => some (eVminu h d a b m)
  | .vmaxu d a b m => some (eVmaxu h d a b m)
  | .vadds d a b m => some (eVadds h d a b m)
  | .vsubs d a b m => some (eVsubs h d a b m)
  | .vavg d a b m => some (eVavg h d a b m)
  | .vshl d a b m => some (eVshl h d a b m)
  | .vshr d a b m => some (eVshr h d a b m)
  | .vsra d a b m => some (eVsra h d a b m)
  | .vwadd d a b m => some (eVwadd h d a b m)
  | .vwmul d a b m => some (eVwmul h d a b m)
  | .vcmpeq d a b m => some (eVcmpeq h d a b m)
  | .vcmpne d a b m => some (eVcmpne h d a b m)
  | .vcmplt d a b m => some (eVcmplt h d a b m)
  | .vcmple d a b m => some (eVcmple h d a b m)
  | .vcmpltu d a b m => some (eVcmpltu h d a b m)
  | .vcmpleu d a b m => some (eVcmpleu h d a b m)
  | .vfadd d a b m => some (eVfadd h d a b m)
  | .vfsub d a b m => some (eVfsub h d a b m)
  | .vfmul d a b m => some (eVfmul h d a b m)
  | .vfma d a b m => some (eVfma h d a b m)
  | .vfms d a b m => some (eVfms h d a b m)
  | .vfnma d a b m => some (eVfnma h d a b m)
  | .vfdiv d a b m => some (eVfdiv h d a b m)
  | .vfmin d a b m => some (eVfmin h d a b m)
  | .vfmax d a b m => some (eVfmax h d a b m)
  | .vfcmpeq d a b m => some (eVfcmpeq h d a b m)
  | .vfcmplt d a b m => some (eVfcmplt h d a b m)
  | .vfcmple d a b m => some (eVfcmple h d a b m)
  | .vnarrow d a b m => some (eVnarrow h d a b m)
  | .vdq d a b m => some (eVdq h d a b m)
  | .vand d a b m => some (eVand h d a b m)
  | .vor d a b m => some (eVor h d a b m)
  | .vxor d a b m => some (eVxor h d a b m)
  | .vfshl d a b m => some (eVfshl h d a b m)
  | .vfshr d a b m => some (eVfshr h d a b m)
  | .vrot d a b m => some (eVrot h d a b m)
  | .vfabs d a m => some (eVfabs h d a m)
  | .vfneg d a m => some (eVfneg h d a m)
  | .vfclass d a m => some (eVfclass h d a m)
  | .vfsqrt d a m => some (eVfsqrt h d a m)
  | .vfrcp d a m => some (eVfrcp h d a m)
  | .vfrsq d a m => some (eVfrsq h d a m)
  | .vfexp2 d a m => some (eVfexp2 h d a m)
  | .vflog2 d a m => some (eVflog2 h d a m)
  | .vftanh d a m => some (eVftanh h d a m)
  | .vpopc d a m => some (eVpopc h d a m)
  | .vclz d a m => some (eVclz h d a m)
  | .vcvt d a c m => some (eVcvt h d a c m)
  | .vlut3Tt71 t d a b => some (eVlut3Tt71 h t d a b)
  | .vlut3Tt70 t d a b => some (eVlut3Tt70 h t d a b)
  | .vslideup d a b m => some (unbound h (eVslideup h d a b m))
  | .vslidedn d a b m => some (unbound h (eVslidedn h d a b m))
  | .vgather d a b m => some (unbound h (eVgather h d a b m))
  | .vrowsh d a b m => some (unbound h (eVrowsh h d a b m))
  | .vbcast d a m => some (unbound h (eVbcast h d a m))
  | .vtrans d a m => some (unbound h (eVtrans h d a m))
  | _ => none

/-- No fault that a checked instruction could meet is armed (18 R399), and the lanes compute right (08 R187; input log 20). -/
def State.noLaneFault (s : State) : Bool := decide (injKind s.hart.inj.tinject ≠ 2 ∧ injKind s.hart.inj.tinject ≠ 3 ∧ s.hart.lane = 0)

/-- The recompute check has stepped its LFSR n times (08 R186). -/
def Vec.checked (v : Vec) (n : Nat) : Vec := { v with lfsr := (List.range n).foldl (fun x _ => lfsrStep x) v.lfsr }

/-- Two register files agree on a register but for the elements listed. -/
def SameElements (v u : Vec) (reg w : Nat) (but : List Nat) : Prop := ∀ e, e ∉ but → (e + 1) * w ≤ 98304 * 8 → getEl u.vrf reg w e = getEl v.vrf reg w e

/-- Every other register below 64 agrees whole. -/
def OtherRegisters (v u : Vec) (reg : Nat) : Prop := ∀ r, r ≠ reg → ∀ k, k < 98304 → Store.get zeroOf u.vrf (r * 98304 + k) = Store.get zeroOf v.vrf (r * 98304 + k)

/-- The integer that w bits name (07 R146). -/
def elemInt (w : Nat) (signed : Bool) (v : Nat) : Int := if signed = true ∧ 2 ^ (w - 1) ≤ v then (v : Int) - (2 ^ w : Nat) else (v : Int)

/-- Integer operations by their exact results (08 Table 8.5): fields, whether the row is marked "range" and then whether it always clamps, and the exact result for
a width, a signedness and the patterns of a, b and the old d. -/
def vintOf (i : Instr) : Option (BitVec 7 × BitVec 7 × BitVec 7 × Bool × Option Bool × (Nat → Bool → Nat → Nat → Nat → Int)) :=
  match i with
  | .vadd d a b m => some (d, a, b, m, some false, fun w g x y _ => elemInt w g x + elemInt w g y)
  | .vsub d a b m => some (d, a, b, m, some false, fun w g x y _ => elemInt w g x - elemInt w g y)
  | .vmul d a b m => some (d, a, b, m, some false, fun w g x y _ => elemInt w g x * elemInt w g y)
  | .vmulh d a b m => some (d, a, b, m, none, fun w g x y _ => elemInt w g x * elemInt w g y / (2 ^ w : Nat))
  | .vmadd d a b m => some (d, a, b, m, some false, fun w g x y z => elemInt w g z + elemInt w g x * elemInt w g y)
  | .vmin d a b m => some (d, a, b, m, none, fun w _ x y _ => min (elemInt w true x) (elemInt w true y))
  | .vmax d a b m => some (d, a, b, m, none, fun w _ x y _ => max (elemInt w true x) (elemInt w true y))
  | .vabsd d a b m => some (d, a, b, m, none, fun w g x y _ => ((elemInt w g x - elemInt w g y).natAbs : Int))
  | .vminu d a b m => some (d, a, b, m, none, fun _ _ x y _ => (min x y : Nat))
  | .vmaxu d a b m => some (d, a, b, m, none, fun _ _ x y _ => (max x y : Nat))
  | .vadds d a b m => some (d, a, b, m, some true, fun w g x y _ => elemInt w g x + elemInt w g y)
  | .vsubs d a b m => some (d, a, b, m, some true, fun w g x y _ => elemInt w g x - elemInt w g y)
  | .vavg d a b m => some (d, a, b, m, none, fun w g x y _ => (elemInt w g x + elemInt w g y + 1) / 2)
  | .vshl d a b m => some (d, a, b, m, some false, fun w g x y _ => elemInt w g x * (2 ^ (y % w) : Nat))
  | .vshr d a b m => some (d, a, b, m, none, fun w _ x y _ => (x / 2 ^ (y % w) : Nat))
  | .vsra d a b m => some (d, a, b, m, none, fun w _ x y _ => elemInt w true x / (2 ^ (y % w) : Nat))
  | _ => none

/-- The integer compares (08 R178). -/
def vcmpOf (i : Instr) : Option (BitVec 7 × BitVec 7 × BitVec 7 × Bool × (Nat → Nat → Nat → Bool)) :=
  match i with
  | .vcmpeq d a b m => some (d, a, b, m, fun _ x y => decide (x = y))
  | .vcmpne d a b m => some (d, a, b, m, fun _ x y => decide (x ≠ y))
  | .vcmplt d a b m => some (d, a, b, m, fun w x y => decide (elemInt w true x < elemInt w true y))
  | .vcmple d a b m => some (d, a, b, m, fun w x y => decide (elemInt w true x ≤ elemInt w true y))
  | .vcmpltu d a b m => some (d, a, b, m, fun _ x y => decide (x < y))
  | .vcmpleu d a b m => some (d, a, b, m, fun _ x y => decide (x ≤ y))
  | _ => none

/-- The widening operations (08 R177). -/
def vwideOf (i : Instr) : Option (BitVec 7 × BitVec 7 × BitVec 7 × Bool × (Int → Int → Int)) :=
  match i with
  | .vwadd d a b m => some (d, a, b, m, fun x y => x + y)
  | .vwmul d a b m => some (d, a, b, m, fun x y => x * y)
  | _ => none

/-- Bit j of the result of the logic instructions (10 Table 10.1), for a width and the patterns of a, b and the old d; the flag says whether FMT must be integer or
grouped. -/
def vbitOf (i : Instr) : Option (BitVec 7 × BitVec 7 × BitVec 7 × Bool × Bool × (Nat → Nat → Nat → Nat → Nat → Bool)) :=
  match i with
  | .vand d a b m => some (d, a, b, m, false, fun _ x y _ j => x.testBit j && y.testBit j)
  | .vor d a b m => some (d, a, b, m, false, fun _ x y _ j => x.testBit j || y.testBit j)
  | .vxor d a b m => some (d, a, b, m, false, fun _ x y _ j => xor (x.testBit j) (y.testBit j))
  | .vfshl d a b m => some (d, a, b, m, true, fun w x y z j => if j < y % w then z.testBit (w - y % w + j) else x.testBit (j - y % w))
  | .vfshr d a b m => some (d, a, b, m, true, fun w x y z j => if j + y % w < w then x.testBit (j + y % w) else z.testBit (j + y % w - w))
  | .vrot d a b m => some (d, a, b, m, true, fun w x y _ j => x.testBit ((j + y % w) % w))
  | _ => none

/-- The magnitudes of a float format in ascending order, with the exponent unbounded above (07 R145, R149): the bits below the sign, as a number, name this value. -/
def magnitude (F : FFmt) (c : Nat) : Frac :=
  fracShift ((if c / 2 ^ F.fb = 0 then (c % 2 ^ F.fb : Nat) else (2 ^ F.fb + c % 2 ^ F.fb : Nat) : Int), 1)
    ((if c / 2 ^ F.fb = 0 then 1 else ((c / 2 ^ F.fb : Nat) : Int)) - (2 ^ (F.eb - 1) - 1 : Nat) - F.fb)

/-- c names the magnitude that Round(x, fmt, mode) of 07 R149 takes for a number of magnitude x, not zero: RNE the nearest, on a tie the one with even last bit; RTZ,
RUP of a negative number and RDN of a positive one the nearest that is not above; else the nearest that is not below. -/
def RoundsTo (F : FFmt) (mode : Nat) (neg : Bool) (x : Frac) (c : Nat) : Prop :=
  if mode = 0 then
    (fracLt (fracMul x (2, 1)) (fracAdd (magnitude F c) (magnitude F (c + 1))) = true ∨
      (fracEq (fracMul x (2, 1)) (fracAdd (magnitude F c) (magnitude F (c + 1))) = true ∧ c % 2 = 0)) ∧
    (c = 0 ∨ fracLt (fracAdd (magnitude F (c - 1)) (magnitude F c)) (fracMul x (2, 1)) = true ∨
      (fracEq (fracAdd (magnitude F (c - 1)) (magnitude F c)) (fracMul x (2, 1)) = true ∧ c % 2 = 0))
  else if mode = 1 ∨ (mode = 2 ∧ neg = false) ∨ (mode = 3 ∧ neg = true) then
    fracLt x (magnitude F c) = false ∧ fracLt x (magnitude F (c + 1)) = true
  else fracLt (magnitude F c) x = false ∧ fracLt (magnitude F (c - 1)) x = true

/-- The bits below the sign of an overflowed result (07 Table 7.5). -/
def overflowed (F : FFmt) (mode : Nat) (clamp neg : Bool) : Nat :=
  let largest := if F.inf then (2 ^ F.eb - 1) * 2 ^ F.fb - 1 else 2 ^ (F.eb + F.fb) - 2
  let infinity := (2 ^ F.eb - 1) * 2 ^ F.fb
  if F.inf = false ∨ clamp = true then largest
  else if mode = 0 ∨ (mode = 2 ∧ neg = true) ∨ (mode = 3 ∧ neg = false) then infinity else largest

/-- The float operations on two or three finite operands (08 Table 8.6): fields, whether the old d is an operand, and the exact result; that of a division by zero
has the numerator zero. -/
def vexactOf (i : Instr) : Option (BitVec 7 × BitVec 7 × BitVec 7 × Bool × Bool × (Frac → Frac → Frac → Frac)) :=
  match i with
  | .vfadd d a b m => some (d, a, b, m, false, fun x y _ => fracAdd x y)
  | .vfsub d a b m => some (d, a, b, m, false, fun x y _ => fracAdd x (fracNeg y))
  | .vfmul d a b m => some (d, a, b, m, false, fun x y _ => fracMul x y)
  | .vfma d a b m => some (d, a, b, m, true, fun x y z => fracAdd (fracMul x y) z)
  | .vfms d a b m => some (d, a, b, m, true, fun x y z => fracAdd (fracMul x y) (fracNeg z))
  | .vfnma d a b m => some (d, a, b, m, true, fun x y z => fracAdd z (fracNeg (fracMul x y)))
  | .vfdiv d a b m => some (d, a, b, m, false, fun x y _ => (x.1 * y.2 * y.1.sign, x.2 * y.1.natAbs))
  | _ => none

/-- An infinity. -/
def FVal.isInf (v : FVal) : Bool :=
  match v with
  | .inf _ => true
  | _ => false

/-- What an element of a float operation is and the flags it sets (08 R179; 07 R149, R154): rounded once from the exact result where that is not zero; a NaN for a
NaN operand; NV for zero times an infinity, for a sum of infinities of opposite sign, for 0 / 0 and for an infinity by an infinity; DZ and an infinity for a
finite value by zero; +0.0, in RDN -0.0, for a sum of zero of operands of opposite sign. -/
def FloatElement (i : Instr) (three : Bool) (f : Frac → Frac → Frac → Frac) (F : FFmt) (mode : Nat) (sat : Bool) (x y z : FVal) (r : Res) : Prop :=
  let product := match i with
    | .vfmul _ _ _ _ => true
    | _ => three
  let sum : Option Bool := match i with
    | .vfadd _ _ _ _ => some false
    | .vfsub _ _ _ _ => some true
    | _ => none
  let quotient := match i with
    | .vfdiv _ _ _ _ => true
    | _ => false
  (∀ a p b q c o, x = .fin a p → y = .fin b q → (three = true → z = .fin c o) → (f p q o).1 ≠ 0 → r = roundF F mode sat false (f p q o)) ∧
  (x = .nan ∨ y = .nan → (three = true ∧ x.isZero = false ∧ y.isZero = false) ∨ three = false → r = ⟨F.nan, 0, false⟩) ∧
  (three = true → z = .nan → x.isFin = true → y.isFin = true → r = ⟨F.nan, 0, false⟩) ∧
  (product = true → (x.isInf = true ∧ y.isZero = true) ∨ (x.isZero = true ∧ y.isInf = true) → r = ⟨F.nan, 16, false⟩) ∧
  (∀ a b, x = .inf a → y = .inf b → sum = some (a == b) → r = ⟨F.nan, 16, false⟩) ∧
  (quotient = true → (x.isInf = true ∧ y.isInf = true) ∨ (x.isZero = true ∧ y.isZero = true) → r = ⟨F.nan, 16, false⟩) ∧
  (quotient = true → x.isFin = true → x.isZero = false → y.isZero = true → r = ⟨F.infinity false, 8, false⟩ ∨ r = ⟨F.infinity true, 8, false⟩) ∧
  (∀ a p b q, x = .fin a p → y = .fin b q → sum = some (a == b) → (f p q p).1 = 0 → r = ⟨if mode = 2 then 2 ^ (F.eb + F.fb) else 0, 0, false⟩)

/-- Place of an encoding that is no NaN in the order of 08 R180, where -0.0 is below +0.0, and in the order of numbers, where they are equal. -/
def floatRank (w b : Nat) : Int := if 2 ^ (w - 1) ≤ b then -((b % 2 ^ (w - 1) : Nat) : Int) - 1 else b
def floatOrder (w b : Nat) : Int := if 2 ^ (w - 1) ≤ b then -((b % 2 ^ (w - 1) : Nat) : Int) else b

/-- The bit of VFCLASS (08 R181) in a format with infinities. -/
def classBit (F : FFmt) (b : Nat) : Nat :=
  let neg := decide (2 ^ (F.eb + F.fb) ≤ b)
  let e := b / 2 ^ F.fb % 2 ^ F.eb
  let f := b % 2 ^ F.fb
  if e = 2 ^ F.eb - 1 then (if f ≠ 0 then 8 else if neg then 0 else 7)
  else if e = 0 then (if f = 0 then (if neg then 3 else 4) else if neg then 2 else 5)
  else if neg then 1 else 6

/-- A fraction rounded to an integer (07 R149): the nearest, on a tie the even one; towards zero; the floor; the ceiling. -/
def toInteger (mode : Nat) (x : Frac) : Int :=
  if mode = 0 then
    let q := (2 * x.1 + x.2) / (2 * x.2)
    if (2 * x.1 + x.2) % (2 * x.2) = 0 ∧ q % 2 = 1 then q - 1 else q
  else if mode = 1 then x.1.tdiv x.2
  else if mode = 2 then x.1 / x.2
  else -(-x.1 / x.2)

/-- Range of a format of width w, and an integer clamped to it (07 R153). -/
def rangeLo (w : Nat) (signed : Bool) : Int := if signed then -(2 ^ (w - 1) : Nat) else 0
def rangeHi (w : Nat) (signed : Bool) : Int := if signed then (2 ^ (w - 1) : Nat) - 1 else (2 ^ w : Nat) - 1
def heldTo (w : Nat) (signed : Bool) (x : Int) : Int := max (rangeLo w signed) (min x (rangeHi w signed))
def fitsIn (w : Nat) (signed : Bool) (x : Int) : Bool := decide (rangeLo w signed ≤ x ∧ x ≤ rangeHi w signed)

/-- The w bits of an integer. -/
def bitsOf (w : Nat) (x : Int) : Nat := (x % ((2 ^ w : Nat) : Int)).toNat

/-- What VCVT makes of an element and the flags it sets (08 R183; 07 R151, R152), from FMT `c` to `c'` under a rounding mode. -/
def ConvertsTo (c c' mode : Nat) (sat : Bool) (b : Nat) (r : Res) : Prop :=
  let isF := fun x => fmtClass x == .float || fmtClass x == .narrow
  let g := fmtClass c == .sint
  let g' := fmtClass c' == .sint
  let v := (fmtFloat c).val b
  (isF c = false → isF c' = false → ∀ n, n = elemInt (fmtEW c) g b →
    r = ⟨bitsOf (fmtEW c') (heldTo (fmtEW c') g' n), if fitsIn (fmtEW c') g' n then 0 else 32, !fitsIn (fmtEW c') g' n⟩) ∧
  (isF c = true → isF c' = false →
    (v = .nan → r = ⟨0, 16, true⟩) ∧
    (∀ a, v = .inf a → r = ⟨bitsOf (fmtEW c') (if a then rangeLo (fmtEW c') g' else rangeHi (fmtEW c') g'), 48, true⟩) ∧
    (∀ a x, v = .fin a x →
      r = ⟨bitsOf (fmtEW c') (heldTo (fmtEW c') g' (toInteger mode x)),
        if fitsIn (fmtEW c') g' (toInteger mode x) then (if toInteger mode x * x.2 = x.1 then 0 else 1) else 48, !fitsIn (fmtEW c') g' (toInteger mode x)⟩)) ∧
  (isF c = false → isF c' = true → fmtEW c' ≠ fmtEW c → ∀ n, n = elemInt (fmtEW c) g b → n ≠ 0 →
    r = roundF (fmtFloat c') mode (sat || decide (fmtEW c' < fmtEW c)) false (n, 1)) ∧
  (isF c = true → isF c' = true →
    (v = .nan → r = ⟨(fmtFloat c').nan, 0, false⟩) ∧
    (∀ a, v = .inf a → r = (if c' = 3 then ⟨(fmtFloat c').maxFin a, 32, true⟩ else ⟨(fmtFloat c').infinity a, 0, false⟩)) ∧
    (∀ a x, v = .fin a x → (c = c' → r = ⟨b, 0, false⟩) ∧ (x.1 ≠ 0 → r = roundF (fmtFloat c') mode true false x)))

/-- The reductions with their class check and their function of the leaves (10 R223, R224). -/
def reductionOf (i : Instr) : Option ((Vec → Bool) × (Vec → List (Option Nat) → Res) × BitVec 7 × BitVec 7 × Bool) :=
  match i with
  | .vredsum d a m => some (Vec.isInt, redSum, d, a, m)
  | .vredmax d a m => some (Vec.isInt, redBits (fun v x y => if readI v.ew v.signed x ≤ readI v.ew v.signed y then y else x)
      (fun v => wrapI v.ew (intMin v.ew v.signed)), d, a, m)
  | .vredmin d a m => some (Vec.isInt, redBits (fun v x y => if readI v.ew v.signed x ≤ readI v.ew v.signed y then x else y)
      (fun v => wrapI v.ew (intMax v.ew v.signed)), d, a, m)
  | .vredand d a m => some (Vec.isInt, redBits (fun _ x y => x &&& y) (fun v => 2 ^ v.ew - 1), d, a, m)
  | .vredor d a m => some (Vec.isInt, redBits (fun _ x y => x ||| y) (fun _ => 0), d, a, m)
  | .vfredsum d a m => some (Vec.isFloat, redFloat (fun v x y => fAdd v.ff v.mode v.sat (v.ff.val x) (v.ff.val y)) (fun _ => 0), d, a, m)
  | .vfredmax d a m => some (Vec.isFloat, redFloat (fun v x y => Res.pure (fPick v.ff true x y)) (fun v => v.ff.infinity true), d, a, m)
  | _ => none

/-- The mask instructions that write mask bits (10 Table 10.4): their mask operands, and the bit of element e. -/
def maskOf (i : Instr) (v : Vec) (r : Nat → Word) : Option (BitVec 7 × Bool × (Nat → Bool)) :=
  match i with
  | .mand d a b => some (d, decide (a.toNat < 16 ∧ b.toNat < 16), fun e => v.mask a.toNat e && v.mask b.toNat e)
  | .mor d a b => some (d, decide (a.toNat < 16 ∧ b.toNat < 16), fun e => v.mask a.toNat e || v.mask b.toNat e)
  | .mxor d a b => some (d, decide (a.toNat < 16 ∧ b.toNat < 16), fun e => xor (v.mask a.toNat e) (v.mask b.toNat e))
  | .mnot d a => some (d, decide (a.toNat < 16), fun e => !v.mask a.toNat e)
  | .mset d a b => some (d, decide (a.toNat < 64 ∧ b.toNat < 64), fun e => decide ((r a.toNat).toNat ≤ e ∧ e < (r b.toNat).toNat))
  | _ => none

/-- A read that meets nothing in its way and moves no line: the line is at its home with nothing to recall, or its sector held already, and no RIN rises. -/
def State.localLoad (s : State) (va n : Nat) : Bool :=
  match s.pageOf va with
  | some (pa, e) => decide (s.hart.det = 0) && s.noTransfers && s.counted.isEmpty && decide (0 < n ∧ va % 64 + n ≤ 64)
      && decide (checkAccess s s.hart.node va n true false false = none) && decide (leafMT e = 0) && !leafNC e && isDeviceMem pa
      && !poisonAt s pa && decide (cohFetch s s.die (pa / 64) = some s)
  | none => false

/-- The vector loads: destination, stream, mask bit, walk (09 R193, R198). -/
def vloadOf (i : Instr) (s : State) : Option (BitVec 7 × BitVec 7 × Bool × Walkway × Bool) :=
  match i with
  | .vld d a m => some (d, a, m, .unit, true)
  | .vlds d a b m => some (d, a, m, .rows (s.sreg b.toNat), isS b)
  | .vldx d a b m => some (d, a, m, .index (vnum b), isV s.hart b)
  | _ => none

/-- The vector stores: data register, stream, mask bit, walk, the further operand's check, a reader count, a progress word (09 R193, R201 to R207). -/
def vstoreOf (i : Instr) (s : State) : Option (BitVec 7 × BitVec 7 × Bool × Walkway × Bool × Option Nat × Option Word) :=
  match i with
  | .vst d a m => some (d, a, m, .unit, true, none, none)
  | .vstu d a m => some (d, a, m, .unit, true, none, none)
  | .vsts d a b m => some (d, a, m, .rows (s.sreg b.toNat), isS b, none, none)
  | .vstx d a b m => some (d, a, m, .index (vnum b), isV s.hart b, none, none)
  | .vstrc d a b m => some (d, a, m, .unit, isS b && decide (1 ≤ (s.sreg b.toNat).toNat ∧ (s.sreg b.toNat).toNat ≤ 255), some (s.sreg b.toNat).toNat, none)
  | .vstn d a b m => some (d, a, m, .unit, isS b, none, some (s.sreg b.toNat))
  | _ => none

/-- A vector store has written its elements: packed ones by nibbles, others as runs of bytes, and the poison of each sector that it has written whole is gone (09
R192, R202; 18 R395). -/
def ElementsStored (rc : Option Nat) (nibbles : List (Nat × Option Byte × Option Byte)) (runs : List (Nat × List Byte)) (s u : State) : Prop :=
  (s.hart.vec.ew = 4 → ∃ v, xPackedWrites rc nibbles s = .ok ((), v) ∧
    u = clearFull true v (joinRuns ((nibbles.filter (fun p => p.2.1.isSome && p.2.2.isSome)).map (fun p => (p.1, [0]))))) ∧
  (s.hart.vec.ew ≠ 4 → ∃ v, xWriteRuns rc runs s = .ok ((), v) ∧ u = clearFull false v runs)

/-- VSTN has then written its stream's new position to its progress word (09 R206). -/
def ProgressStored (q : Nat) (k : Walkway) (p : Word) (u y : State) : Prop :=
  (endWalk u.loadDone q k).noTransfers = true ∧
  xWriteBytes false p.toNat (natBytes ((endWalk u.loadDone q k).hart.vec.stream q).pos.toNat 8) (endWalk u.loadDone q k) = .ok ((), y)

/-- Cell (i, j) of a tile of the current hart (13 R272). -/
def State.cell (s : State) (t i j : Nat) : BitVec 32 := Store.get zeroOf s.hart.mat.tiles ((t * 128 + i) * 256 + j)

/-- The outer products (13 Table 13.5): the form that the word fixes, the side of a scratchpad operand, and the fields. -/
def outerOf (i : Instr) : Option (Option TForm × Option Bool × BitVec 4 × BitVec 7 × BitVec 7 × BitVec 3 × BitVec 3) :=
  match i with
  | .top t a b c r => some (some .top, none, t, a, b, c, r)
  | .topi t a b c r => some (some .topi, none, t, a, b, c, r)
  | .topq t a b c r => some (some .topq, none, t, a, b, c, r)
  | .toph t a b c r => some (some .toph, none, t, a, b, c, r)
  | .tops t a b side c r => some (none, some side, t, a, b, c, r)
  | _ => none

/-- No chunk of the scratchpad that an outer product reads is poisoned. -/
def State.cleanChunks (s : State) (o : TOp) : Prop :=
  (∀ a ∈ o.a.chunks 128 (fmtEW s.hart.mat.afmt) o.steps (activeBelow s.hart.vec s.hart.mat.rows o.rmk), spadPoisonAt s (spadKey s.hart.lcore a) = false) ∧
  (∀ a ∈ o.b.chunks 256 (fmtEW s.hart.mat.bfmt) o.steps (activeBelow s.hart.vec s.hart.mat.cols o.cmk), spadPoisonAt s (spadKey s.hart.lcore a) = false)

/-- Distribution instructions that write a distribution register from registers (14 R315 to R329): operands accepted, checked instructions, destination,
tag, and new points and flags of an element. -/
def distOf (i : Instr) (s : State) : Option (Bool × Nat × BitVec 7 × BitVec 16 × (Nat → Points × Nat)) :=
  let x := s.hart.dist
  let pair : Nat → BitVec 7 → BitVec 7 → Nat → Points × Nat := fun fn a b e =>
    condense (if x.tag a.toNat &&& x.tag b.toNat = 0 then pairIndep fn (x.points a.toNat e) (x.points b.toNat e)
      else pairRank fn (x.points a.toNat e) (x.points b.toNat e))
  match i with
  | .dadd d a b => some (isX d && isX a && isX b, 1, d, x.tag a.toNat ||| x.tag b.toNat, pair 0 a b)
  | .dsub d a b => some (isX d && isX a && isX b, 1, d, x.tag a.toNat ||| x.tag b.toNat, pair 1 a b)
  | .dmul d a b => some (isX d && isX a && isX b, 1, d, x.tag a.toNat ||| x.tag b.toNat, pair 2 a b)
  | .dmax d a b => some (isX d && isX a && isX b, 1, d, x.tag a.toNat ||| x.tag b.toNat, pair 3 a b)
  | .dmin d a b => some (isX d && isX a && isX b, 1, d, x.tag a.toNat ||| x.tag b.toNat, pair 4 a b)
  | .dmix d a b => some (isX d && isX a && isS b && decide ((s.sreg b.toNat).toNat ≤ 2 ^ 24), 1, d, x.tag a.toNat ||| x.tag d.toNat,
      fun e => condense (mixPairs (s.sreg b.toNat).toNat (x.points a.toNat e) (x.points d.toNat e)))
  | .daff d a b => some (isX d && isX a && isS b, 1, d, x.tag a.toNat,
      fun e => affPoints s.hart.vec.sat (nbits (s.sreg b.toNat).toNat 0 32) (nbits (s.sreg b.toNat).toNat 32 32) (x.points a.toNat e))
  | .dfromv d a c => some (isX d && distV s.hart a && decide (c.toNat ≤ 16), 0, d, tagCode c.toNat, fun e =>
      (List.replicate 8 (if f32F.val (getEl s.hart.vec.vrf (vnum a) 32 e) = .nan then 0x7FC00000 else getEl s.hart.vec.vrf (vnum a) 32 e, 2 ^ 21), 0))
  | .dbuild d a b => some (isX d && distV s.hart a && distV s.hart b && decide (8 * s.hart.vec.vl.toNat ≤ s.hart.vlmaxe), 0, d, 0, fun e =>
      validPoints ((List.range 8).map (fun p => (getEl s.hart.vec.vrf (vnum a) 32 (8 * e + p), getEl s.hart.vec.vrf (vnum b) 32 (8 * e + p)))))
  | _ => none

/-- Distribution instructions that write a vector register (14 R321 to R324): operands accepted, destination, source, and the result of an element. -/
def distReadOf (i : Instr) (s : State) : Option (Bool × BitVec 7 × BitVec 7 × (Points → Res)) :=
  match i with
  | .dmom d a k => some (decide (1 ≤ k.toNat ∧ k.toNat ≤ 4), d, a, momentOf s.hart.vec.sat k.toNat)
  | .dqnt d a b => some (isS b && decide ((s.sreg b.toNat).toNat < 2 ^ 16), d, a, fun ps => Res.pure (quantOf (s.sreg b.toNat).toNat ps))
  | .dcdf d a b => some (isS b && decide ((s.sreg b.toNat).toNat < 2 ^ 32), d, a, fun ps => Res.pure (cdfOf (s.sreg b.toNat).toNat ps))
  | _ => none

/-- Total mass of pairs. -/
def pairMass (ps : Pairs) : Nat := (ps.map Prod.snd).sum

/-- The engine commands (15 R333): kind, fields, and what a block of bytes says. -/
def commandOf (i : Instr) (s : State) : Option (EngineKind × BitVec 7 × BitVec 7 × (List Byte → Option (List Extent × Nat))) :=
  match i with
  | .xcopy a b => some (.copy, a, b, copyFields)
  | .xgath a b => some (.gather, a, b, gatherFields)
  | .xcoll a b => some (.coll, a, b, fun bs => collFields bs (mgmtGet s 0x90010))
  | _ => none

/-- First event of a transfer: counting, or for a collective the match (15 R338, R339). -/
def firstEvent (k : EngineKind) (x : Nat) : Instr :=
  match k with
  | .coll => .collMatch x
  | _ => .engineCount x

/-- A barrier object has been written: it reads as `o`, and nothing else of memory, the scratchpads or the hart's registers changes. -/
def BarrierIs (s t : State) (op : Word) (o : Nat) : Prop :=
  (barRead t s.who op).map Prod.fst = some o ∧ SameRegs s t [] ∧ t.hart.vec = s.hart.vec ∧ t.hart.mat = s.hart.mat ∧
  (barSpad op = true → SameBytes s t ∧ ∀ k, k < spadKey s.hart.lcore op.toNat ∨ spadKey s.hart.lcore op.toNat + 16 ≤ k →
    Store.get zeroOf t.spad k = Store.get zeroOf s.spad k) ∧
  (barSpad op = false → t.spad = s.spad ∧ ∀ pa e, s.pageOf op.toNat = some (pa, e) → SameBytesOutside s t pa 16)

/-- Words that only the sequencer executes (12 R269) and words that only Ozsis executes (22 R444). -/
def adviceWord (i : Instr) : Bool := decide (0x52 ≤ (encode i).toNat / 2 ^ 25 ∧ (encode i).toNat / 2 ^ 25 ≤ 0x57)
def ozsisWordOf (i : Instr) : Option (BitVec 7) :=
  match i with
  | .ozhash d => some d
  | .ozvrfy d => some d
  | .ozsign d => some d
  | .ozkdf d => some d
  | .ozrand d => some d
  | .ozwipe d => some d
  | _ => none

/-- Words that the sequencer executes (05 R111), by their major and, for 0x11, the high bit of sel2, which the two loop words have set. -/
def sequencerWord (i : Instr) : Bool :=
  let w := (encode i).toNat
  let m := w / 2 ^ 25
  decide ((1 ≤ m ∧ m ≤ 0x0B) ∨ m = 0x10 ∨ (m = 0x11 ∧ w / 2 ^ 24 % 2 = 0) ∨ m = 0x12 ∨ m = 0x13 ∨ (0x52 ≤ m ∧ m ≤ 0x57))

/-- The event that runs a node that is no KERNEL (03 R49 to R53). -/
def controlEvent (kind n : Nat) : Instr :=
  match kind with
  | 2 => .evalCond n
  | 3 => .evalLoop n
  | 4 => .evalSwitch n
  | 6 => .signalWrite n
  | _ => .nodeDone n

/-- Actions an advice context may take between two AWAITs (12 R261). -/
def State.lead (s : State) : Nat := max 1 ((mgmtGet s 0x50010).toNat % 256)

end Sys2Proof.Machine
end

