-- ==== Sys2Proof/Certificates/Slice0/Obligations.lean ====
section
/-! DEFINITION. Sys2Proof/Certificates/Slice0/Obligations.lean: the statements for the provers.
Where a docstring says "the model's", that clause rests on the named entry of the assumption log and on no rule of spec/. -/
open Sys2Proof Sys2Proof.Machine

/-- 06 R119 to R123: an ALU instruction whose 7-bit fields name scalar registers writes its result to its destination and retires; every agent that
executes scalar words runs it so.
05 R96, R110, R111: an ALU instruction one of whose 7-bit fields names no scalar register raises ILLEGAL_OPERAND with tval 0 on a hart, is dropped and
counted on the sequencer, and stops Ozsis.
05 R96, R110, R111: the same of DIV, DIVU, REM and REMU.
Frame of the register instructions on a hart (06 R116 to R123, 05 R94): nothing changes but the destination, the program counter and the counters.
The stop of Ozsis at an operand that is no register is the model's (log 60). -/
def Obligations.AluResults : Prop :=
  (∀ (i : Instr) (s : State) (fs : List (BitVec 7)) (d : Nat) (v : Word),
    aluOf i s.sreg s.front.pc = some (fs, d, v) → (∀ f ∈ fs, f.toNat < 64) → exec i s = .next (s.setSreg d v).retire)
  ∧ (∀ (i : Instr) (s : State) (fs : List (BitVec 7)) (d : Nat) (v : Word),
    aluOf i s.sreg s.front.pc = some (fs, d, v) → (∃ f ∈ fs, 64 ≤ f.toNat) →
      (s.agent = .hart → exec i s = .next (takeTrap s .illegalOperand 0)) ∧
      (s.agent = .advice → exec i s = .next (dropWord s)) ∧
      (s.agent = .ozsis → exec i s = .fault .ozsisWord))
  ∧ (∀ (i : Instr) (s : State) (d a b : BitVec 7), i ∈ [.div d a b, .divu d a b, .rem d a b, .remu d a b] →
    (64 ≤ d.toNat ∨ 64 ≤ a.toNat ∨ 64 ≤ b.toNat) →
      (s.agent = .hart → exec i s = .next (takeTrap s .illegalOperand 0)) ∧
      (s.agent = .advice → exec i s = .next (dropWord s)) ∧
      (s.agent = .ozsis → exec i s = .fault .ozsisWord))
  ∧ (∀ (i : Instr) (s t : State) (fs : List (BitVec 7)) (d : Nat) (v : Word),
    s.agent = .hart → aluOf i s.sreg s.front.pc = some (fs, d, v) → (∀ f ∈ fs, f.toNat < 64) → exec i s = .next t →
      OnlyFront s t ∧ Retired s t ∧ SameBytes s t ∧ SameRegs s t (destRegs s d) ∧
      (d ≠ 0 → t.preg (s.hart.front.wbase.toNat + d) = v) ∧
      t.hart.front.wbase = s.hart.front.wbase ∧ FellThrough s t)

/-- 06 R120, Table 6.2: division never traps; every quotient and remainder, with the edge cases of Table 6.2. -/
def Obligations.DivisionNeverTraps : Prop :=
  ∀ (s : State) (d a b : BitVec 7), d.toNat < 64 → a.toNat < 64 → b.toNat < 64 →
    ∃ q r qu ru : Word,
      exec (.div d a b) s = .next (s.setSreg d.toNat q).retire ∧ exec (.rem d a b) s = .next (s.setSreg d.toNat r).retire ∧
      exec (.divu d a b) s = .next (s.setSreg d.toNat qu).retire ∧ exec (.remu d a b) s = .next (s.setSreg d.toNat ru).retire ∧
      (s.sreg b.toNat = 0 → q = BitVec.allOnes 64 ∧ r = s.sreg a.toNat ∧ qu = BitVec.allOnes 64 ∧ ru = s.sreg a.toNat) ∧
      (s.sreg a.toNat = BitVec.intMin 64 → s.sreg b.toNat = BitVec.allOnes 64 → q = BitVec.intMin 64 ∧ r = 0 ∧ qu = 0 ∧ ru = s.sreg a.toNat) ∧
      (s.sreg b.toNat ≠ 0 → (s.sreg a.toNat ≠ BitVec.intMin 64 ∨ s.sreg b.toNat ≠ BitVec.allOnes 64) →
        (s.sreg a.toNat).toInt = q.toInt * (s.sreg b.toNat).toInt + r.toInt ∧ |r.toInt| < |(s.sreg b.toNat).toInt| ∧
        (0 ≤ (s.sreg a.toNat).toInt → 0 ≤ r.toInt) ∧ ((s.sreg a.toNat).toInt ≤ 0 → r.toInt ≤ 0)) ∧
      (s.sreg b.toNat ≠ 0 → (s.sreg a.toNat).toNat = qu.toNat * (s.sreg b.toNat).toNat + ru.toNat ∧ ru.toNat < (s.sreg b.toNat).toNat)

/-- 06 R128: a conditional branch goes to PC + 4 SExt(off, 11) when its comparison holds, else falls through.
06 R129: J, JAL and JALR go to their target and write PC + 4 to the link register; JALR reads S[ra] before it writes the link. A target that is not a
multiple of 4 raises MISALIGNED with tval the target, and no link is written.
Frame of branches and jumps on a hart (06 R128, R129, R133): memory and every special register stay, and every register but the link of a jump; a jump
goes to its target, a taken branch to its own. -/
def Obligations.ControlTransfers : Prop :=
  (∀ (i : Instr) (s : State) (c : Bool) (j : BitVec 11),
    branchOf i s.sreg = some (c, j) →
      exec i s = .next (if c then s.jumpTo (s.front.pc + 4 * j.signExtend 64) else s.retire))
  ∧ (∀ (i : Instr) (s : State) (target : Word) (d : Nat),
    jumpOf i s.sreg s.front.pc = some (target, d) → s.front.pc.toNat % 4 = 0 →
      (target.toNat % 4 = 0 → exec i s = .next ((s.setSreg d (s.front.pc + 4)).jumpTo target)) ∧
      (target.toNat % 4 ≠ 0 → s.agent = .hart → exec i s = .next (takeTrap s .misaligned target)) ∧
      (target.toNat % 4 ≠ 0 → s.agent = .advice → exec i s = .next (dropWord s)))
  ∧ (∀ (i : Instr) (s t : State), s.agent = .hart → exec i s = .next t →
    (∀ target d, jumpOf i s.sreg s.front.pc = some (target, d) → target.toNat % 4 = 0 →
      OnlyFront s t ∧ Retired s t ∧ t.hart.front.pc = target ∧ SameBytes s t ∧ SameRegs s t (destRegs s d) ∧
      (d ≠ 0 → t.preg (s.hart.front.wbase.toNat + d) = s.front.pc + 4) ∧ t.hart.front.wbase = s.hart.front.wbase) ∧
    (∀ c j, branchOf i s.sreg = some (c, j) →
      OnlyFront s t ∧ Retired s t ∧ SameBytes s t ∧ SameRegs s t [] ∧ t.hart.front.wbase = s.hart.front.wbase ∧
      (c = true → t.hart.front.pc = s.front.pc + 4 * j.signExtend 64) ∧ (c = false → FellThrough s t)))

/-- 06 R131: a loop whose body starts after the instruction, ends inside the innermost level, and is at most the third level, is entered with its count;
a count of 0 skips the body, as if the instruction at its end had retired. A hart and Ozsis execute it so.
06 R131: where a loop instruction traps, in the order of the rule, and on the sequencer it is dropped (05 R111). -/
def Obligations.LoopInstructions : Prop :=
  (∀ (i : Instr) (s : State) (c : Word) (j : BitVec 11),
    loopOf i s.sreg = some (c, j) → s.agent ≠ .advice → s.inHandler = false → 1 ≤ j.toInt → s.front.levels.length < 3 →
    (∀ l ∈ s.front.levels.head?, (s.front.pc + 4 * j.signExtend 64).toNat ≤ l.stop.toNat) →
      ∃ t, exec i s = .next t ∧
        (c ≠ 0 → t.front = { s.front with lc := Store.set zeroOf s.front.lc s.front.levels.length c,
                                          levels := ⟨s.front.pc + 4, s.front.pc + 4 * j.signExtend 64⟩ :: s.front.levels, pc := s.front.pc + 4 }) ∧
        (c = 0 → t.front = { s.front with
          lc := (loopRule s.front.lc s.front.levels (s.front.pc + 4 * j.signExtend 64)).1,
          levels := (loopRule s.front.lc s.front.levels (s.front.pc + 4 * j.signExtend 64)).2.1,
          pc := (loopRule s.front.lc s.front.levels (s.front.pc + 4 * j.signExtend 64)).2.2 }) ∧
        (c = 0 → (∀ l ∈ s.front.levels.head?, l.stop ≠ s.front.pc + 4 * j.signExtend 64) →
          t.front = { s.front with pc := s.front.pc + 4 * j.signExtend 64 + 4 }) ∧
        (s.agent = .hart → OnlyFront s t ∧ Retired s t))
  ∧ (∀ (i : Instr) (s : State) (c : Word) (j : BitVec 11),
    loopOf i s.sreg = some (c, j) →
      (s.agent = .advice → exec i s = .next (dropWord s)) ∧
      (s.agent = .hart → j.toInt < 1 → exec i s = .next (takeTrap s .illegalOperand 0)) ∧
      (s.agent = .hart → 1 ≤ j.toInt → (∃ l ∈ s.front.levels.head?, l.stop.toNat < (s.front.pc + 4 * j.signExtend 64).toNat) →
        exec i s = .next (takeTrap s .illegalOperand 0)) ∧
      (s.agent = .hart → 1 ≤ j.toInt → (∀ l ∈ s.front.levels.head?, (s.front.pc + 4 * j.signExtend 64).toNat ≤ l.stop.toNat) →
        s.hart.trap.tstatus.getLsbD 0 = true → exec i s = .next (takeTrap s .loopNest 0)) ∧
      (s.agent = .hart → 1 ≤ j.toInt → (∀ l ∈ s.front.levels.head?, (s.front.pc + 4 * j.signExtend 64).toNat ≤ l.stop.toNat) →
        s.hart.trap.tstatus.getLsbD 0 = false → 3 ≤ s.front.levels.length → exec i s = .next (takeTrap s .loopNest 3)))

/-- 06 R132: the instruction at the end of the innermost body that retires without a transfer. With more than one iteration to run it counts down and goes
back to the start; else the level ends, its count is 0, and the rule goes on with the next level out, if that level ends at the same instruction; if it does
not, or no level is left, control goes to the next instruction. A hart
outside a handler (18 R387 and 06 R134 freeze the levels in one) and Ozsis apply it.
06 R133: a transfer to a target outside the innermost body ends that level and sets its counter to 0, and so on outward; a target inside ends none. -/
def Obligations.LoopLevels : Prop :=
  (∀ (s : State) (l : Level) (r : List Level),
    s.agent ≠ .advice → s.inHandler = false → s.front.levels = l :: r → l.stop = s.front.pc →
      (1 < (Store.get zeroOf s.front.lc r.length).toNat →
        s.retire.front = { s.front with lc := Store.set zeroOf s.front.lc r.length (Store.get zeroOf s.front.lc r.length - 1), pc := l.start }) ∧
      ((Store.get zeroOf s.front.lc r.length).toNat ≤ 1 →
        s.retire.front = (s.setFront { s.front with lc := Store.set zeroOf s.front.lc r.length 0, levels := r }).retire.front) ∧
      ((Store.get zeroOf s.front.lc r.length).toNat ≤ 1 → (∀ m ∈ r.head?, m.stop ≠ s.front.pc) →
        s.retire.front = { s.front with lc := Store.set zeroOf s.front.lc r.length 0, levels := r, pc := s.front.pc + 4 }))
  ∧ (∀ (s : State) (target : Word), s.agent ≠ .advice → s.inHandler = false →
    (s.front.levels = [] → (s.jumpTo target).front = { s.front with pc := target }) ∧
    (∀ l r, s.front.levels = l :: r → l.start.toNat ≤ target.toNat → target.toNat ≤ l.stop.toNat →
      (s.jumpTo target).front = { s.front with pc := target }) ∧
    (∀ l r, s.front.levels = l :: r → (target.toNat < l.start.toNat ∨ l.stop.toNat < target.toNat) →
      (s.jumpTo target).front = ((s.setFront { s.front with lc := Store.set zeroOf s.front.lc r.length 0, levels := r }).jumpTo target).front))

/-- 06 R124, R125, Table 6.3: a scalar load of a hart that meets nothing in its way writes the bytes at its address, extended, to its destination and
retires; no byte of memory, no other register and nothing else of the hart changes. A load into s0 still reads.
06 R124, R125, Table 6.3: LDP writes the sixteen bytes to the pair rd, rd + 1; into s0 it writes only s1.
06 R125, 16 R361: LDA reads four or eight bytes at S[ra] + 4 o: eight when the word says so and the address is a multiple of 8. -/
def Obligations.ScalarLoadsRead : Prop :=
  (∀ (i : Instr) (s : State) (n : Nat) (sg : Bool) (d a : BitVec 6) (j : BitVec 11) (pa : Nat),
    loadOf i = some (n, sg, d, a, j) → (s.sreg a.toNat + j.signExtend 64).toNat % n = 0 →
    s.plainLoad (s.sreg a.toNat + j.signExtend 64).toNat n pa = true →
      ∃ t, exec i s = .next t ∧ OnlyFrontAndCaches s t ∧ Retired s t ∧ FellThrough s t ∧ SameBytes s t ∧ SameRegs s t (destRegs s d.toNat) ∧
        (d.toNat ≠ 0 → t.preg (s.hart.front.wbase.toNat + d.toNat) = loadValue n sg (memNat s pa n)) ∧
        t.hart.front.wbase = s.hart.front.wbase)
  ∧ (∀ (s : State) (d a : BitVec 6) (j : BitVec 11) (pa : Nat),
    d.toNat % 2 = 0 → (s.sreg a.toNat + j.signExtend 64).toNat % 16 = 0 → s.plainLoad (s.sreg a.toNat + j.signExtend 64).toNat 16 pa = true →
      ∃ t, exec (.ldp d a j) s = .next t ∧ OnlyFrontAndCaches s t ∧ Retired s t ∧ FellThrough s t ∧ SameBytes s t ∧
        SameRegs s t (destRegs s d.toNat ++ destRegs s (d.toNat + 1)) ∧
        (d.toNat ≠ 0 → t.preg (s.hart.front.wbase.toNat + d.toNat) = BitVec.ofNat 64 (memNat s pa 8)) ∧
        t.preg (s.hart.front.wbase.toNat + (d.toNat + 1)) = BitVec.ofNat 64 (memNat s (pa + 8) 8) ∧
        t.hart.front.wbase = s.hart.front.wbase)
  ∧ (∀ (s : State) (d a : BitVec 6) (sc : BitVec 3) (w4 : Bool) (o : BitVec 7) (addr n pa : Nat),
    addr = (s.sreg a.toNat + BitVec.ofNat 64 (4 * o.toNat)).toNat → n = (if w4 = true ∨ addr % 8 ≠ 0 then 4 else 8) → addr % n = 0 →
      (s.plainLoad addr n pa = true →
        ∃ t, exec (.lda d a sc w4 o) s = .next t ∧ OnlyFrontAndCaches s t ∧ Retired s t ∧ SameBytes s t ∧ SameRegs s t (destRegs s d.toNat) ∧
          (d.toNat ≠ 0 → t.preg (s.hart.front.wbase.toNat + d.toNat) = BitVec.ofNat 64 (memNat s pa n))))

/-- 06 R124, R125, Table 6.3; 19 R404: a scalar store of a hart that meets nothing in its way puts its bytes at its address, leaves every other byte, every
register and the rest of the hart as they were, retires, and leaves an undo entry for the sector tagged with the current interval.
16 R361: STL writes four or eight bytes at S[ra] + 4 o in the same way. -/
def Obligations.ScalarStoresWrite : Prop :=
  (∀ (i : Instr) (s : State) (bs : List Byte) (a : BitVec 6) (j : BitVec 11) (pa : Nat),
    storeOf i s.sreg = some (bs, a, j) → (s.sreg a.toNat + j.signExtend 64).toNat % bs.length = 0 →
    s.plainStore (s.sreg a.toNat + j.signExtend 64).toNat bs.length pa = true →
      ∃ t, exec i s = .next t ∧ memBytes t pa bs.length = bs ∧ SameBytesOutside s t pa bs.length ∧ SameRegs s t [] ∧ SameHart s t ∧
        Retired s t ∧ FellThrough s t ∧ t.hart.front.wbase = s.hart.front.wbase ∧ hasUndo t (pa / 64) (rinOf t s.die) = true)
  ∧ (∀ (s : State) (d a : BitVec 6) (sc : BitVec 3) (w4 : Bool) (o : BitVec 7) (addr n pa : Nat),
    addr = (s.sreg a.toNat + BitVec.ofNat 64 (4 * o.toNat)).toNat → n = (if w4 = true ∨ addr % 8 ≠ 0 then 4 else 8) → addr % n = 0 →
      (s.plainStore addr n pa = true →
        ∃ t, exec (.stl d a sc w4 o) s = .next t ∧ memBytes t pa n = natBytes (s.sreg d.toNat).toNat n ∧ SameBytesOutside s t pa n ∧
          SameRegs s t [] ∧ SameHart s t ∧ Retired s t ∧ hasUndo t (pa / 64) (rinOf t s.die) = true))

/-- 06 R125, 16 R361, 04 R73: the first check of a scalar load or store, of LDA or of STL that fails decides: an odd register of LDP or STP traps as
ILLEGAL_OPERAND; then an address that is no multiple of the size as MISALIGNED with the address; then the lease and the leaf rights decide, with the first
failing byte, and for LDA and STL a page of memory type 1 traps as PERMISSION with the address. The instruction has no effect, but that a load has taken its
number (18 R399).
Which byte of the access is named is the model's reading (log 14). -/
def Obligations.ScalarAccessTraps : Prop :=
  (∀ (i : Instr) (s : State), s.agent = .hart →
    (∀ n sg d a j, loadOf i = some (n, sg, d, a, j) →
      ((s.sreg a.toNat + j.signExtend 64).toNat % n ≠ 0 →
        exec i s = .next (takeTrap s.numbered .misaligned (s.sreg a.toNat + j.signExtend 64))) ∧
      ((s.sreg a.toNat + j.signExtend 64).toNat % n = 0 →
        ∀ c v, checkAccess s s.hart.node (s.sreg a.toNat + j.signExtend 64).toNat n true false false = some (c, v) →
          exec i s = .next (takeTrap s.numbered c v))) ∧
    (∀ bs a j, storeOf i s.sreg = some (bs, a, j) →
      ((s.sreg a.toNat + j.signExtend 64).toNat % bs.length ≠ 0 → exec i s = .next (takeTrap s .misaligned (s.sreg a.toNat + j.signExtend 64))) ∧
      ((s.sreg a.toNat + j.signExtend 64).toNat % bs.length = 0 →
        ∀ c v, checkAccess s s.hart.node (s.sreg a.toNat + j.signExtend 64).toNat bs.length false true false = some (c, v) →
          exec i s = .next (takeTrap s c v))))
  ∧ (∀ (s : State) (d a : BitVec 6) (j : BitVec 11), s.agent = .hart →
    (d.toNat % 2 = 1 → exec (.ldp d a j) s = .next (takeTrap s.numbered .illegalOperand 0) ∧ exec (.stp d a j) s = .next (takeTrap s .illegalOperand 0)) ∧
    (d.toNat % 2 = 0 → (s.sreg a.toNat + j.signExtend 64).toNat % 16 ≠ 0 →
      exec (.ldp d a j) s = .next (takeTrap s.numbered .misaligned (s.sreg a.toNat + j.signExtend 64))) ∧
    (d.toNat % 2 = 0 → (s.sreg a.toNat + j.signExtend 64).toNat % 16 = 0 →
      ∀ c v, checkAccess s s.hart.node (s.sreg a.toNat + j.signExtend 64).toNat 16 true false false = some (c, v) →
        exec (.ldp d a j) s = .next (takeTrap s.numbered c v)))
  ∧ (∀ (s : State) (d a : BitVec 6) (sc : BitVec 3) (w4 : Bool) (o : BitVec 7) (addr : Word) (n : Nat), s.agent = .hart →
    addr = s.sreg a.toNat + BitVec.ofNat 64 (4 * o.toNat) → n = (if w4 = true ∨ addr.toNat % 8 ≠ 0 then 4 else 8) →
    (addr.toNat % n ≠ 0 →
      exec (.lda d a sc w4 o) s = .next (takeTrap s.numbered .misaligned addr) ∧ exec (.stl d a sc w4 o) s = .next (takeTrap s .misaligned addr)) ∧
    (addr.toNat % n = 0 →
      (∀ c v, checkAccess s s.hart.node addr.toNat n true false false = some (c, v) → exec (.lda d a sc w4 o) s = .next (takeTrap s.numbered c v)) ∧
      (∀ c v, checkAccess s s.hart.node addr.toNat n false true false = some (c, v) → exec (.stl d a sc w4 o) s = .next (takeTrap s c v)) ∧
      (∀ nd, nodeOf s s.hart.node = some nd → leafMT (leafAt nd addr.toNat) = 1 →
        (checkAccess s s.hart.node addr.toNat n true false false = none → exec (.lda d a sc w4 o) s = .next (takeTrap s.numbered .permission addr)) ∧
        (checkAccess s s.hart.node addr.toNat n false true false = none → exec (.stl d a sc w4 o) s = .next (takeTrap s .permission addr)))))

/-- 22 R443, 05 R111: Ozsis loads from and stores to its private memory of 512 KiB; the sequencer drops the words.
22 R444, Table 22.6: the commands of Ozsis answer a status: 0 when done, 1 for a block that does not fit, 2 for a signature that does not verify, 3 for
an empty slot, 4 for a slot that may not change; OZHASH stores the digest, OZSIGN the signature of the message with the slot's key, 2,420 bytes whose values are
those of a free function of key and message (ozSignature, log 10), OZKDF and OZWIPE change the key store.
The model's: the stop at an address outside the memory (log 60), the signature function (log 10), SHA3-256 as FIPS 202 has it (log 11), entropy (log
13), three corners of the statuses (log 38). -/
def Obligations.OzsisExecutes : Prop :=
  (∀ (i : Instr) (s : State),
    (∀ n sg d a j, loadOf i = some (n, sg, d, a, j) →
      (s.agent = .advice → exec i s = .next (dropWord s)) ∧
      (s.agent = .ozsis → (s.sreg a.toNat + j.signExtend 64).toNat % n = 0 → (s.sreg a.toNat + j.signExtend 64).toNat + n ≤ 0x80000 →
        exec i s = .next (s.setSreg d.toNat
          (loadValue n sg (bytesNat (Store.read zeroOf s.oz.mem (s.sreg a.toNat + j.signExtend 64).toNat n)))).retire)) ∧
    (∀ bs a j, storeOf i s.sreg = some (bs, a, j) →
      (s.agent = .advice → exec i s = .next (dropWord s)) ∧
      (s.agent = .ozsis → (s.sreg a.toNat + j.signExtend 64).toNat % bs.length = 0 →
        (s.sreg a.toNat + j.signExtend 64).toNat + bs.length ≤ 0x80000 →
        exec i s = .next ({ s with oz := { s.oz with mem := Store.write zeroOf s.oz.mem (s.sreg a.toNat + j.signExtend 64).toNat bs } } : State).retire)))
  ∧ (∀ (s : State) (d : BitVec 7), s.agent = .ozsis → d.toNat < 64 →
    (∀ src len dst, ozBlock s d 3 = some [src, len, dst] → src + len ≤ 0x80000 → dst + 32 ≤ 0x80000 → exec (.ozhash d) s =
      .next ((({ s with oz := { s.oz with mem := Store.write zeroOf s.oz.mem dst (sha3 (Store.read zeroOf s.oz.mem src len)) } } : State).setSreg d.toNat 0).retire)) ∧
    (∀ msg len sig key, ozBlock s d 4 = some [msg, len, sig, key] → msg + len ≤ 0x80000 → sig + 2420 ≤ 0x80000 →
      (key ≤ 15 → exec (.ozvrfy d) s = .next (s.setSreg d.toNat
        (if ozVerify s key (Store.read zeroOf s.oz.mem msg len) (Store.read zeroOf s.oz.mem sig 2420) then 0 else 2)).retire) ∧
      (1 ≤ key → key ≤ 15 → ozFull s key = true → ∃ t, exec (.ozsign d) s = .next t ∧ t.oz.keys = s.oz.keys ∧
        Store.read zeroOf t.oz.mem sig 2420 = ozSignature (ozKey s key) (Store.read zeroOf s.oz.mem msg len) ∧
        (∀ a, a < sig ∨ sig + 2420 ≤ a → Store.get zeroOf t.oz.mem a = Store.get zeroOf s.oz.mem a) ∧
        t.oz.front = (s.setSreg d.toNat 0).retire.oz.front) ∧
      (1 ≤ key → key ≤ 15 → ozFull s key = false → exec (.ozsign d) s = .next (s.setSreg d.toNat 3).retire)) ∧
    (∀ ctx len slot, ozBlock s d 3 = some [ctx, len, slot] → ctx + len ≤ 0x80000 → 1 ≤ slot → slot ≤ 15 →
      (slot = 1 → exec (.ozkdf d) s = .next (s.setSreg d.toNat 4).retire) ∧
      (slot ≠ 1 → ∃ t, exec (.ozkdf d) s = .next t ∧ ozFull t slot = true ∧ t.oz.mem = s.oz.mem ∧
        Store.get zeroOf t.oz.keys slot = digestOf (natBytes s.oz.secret.toNat 32 ++ Store.read zeroOf s.oz.mem ctx len) ∧
        (∀ k, k ≠ slot → Store.get zeroOf t.oz.keys k = Store.get zeroOf s.oz.keys k) ∧ t.oz.front = (s.setSreg d.toNat 0).retire.oz.front)) ∧
    (∀ dst len, ozBlock s d 2 = some [dst, len] → dst + len ≤ 0x80000 → ∃ t, exec (.ozrand d) s = .next t ∧
      (∀ a, a < dst ∨ dst + len ≤ a → Store.get zeroOf t.oz.mem a = Store.get zeroOf s.oz.mem a) ∧ t.oz.keys = s.oz.keys ∧
      t.oz.front = (s.setSreg d.toNat 0).retire.oz.front) ∧
    (∀ mask, ozBlock s d 1 = some [mask] →
      (mask < 2 ^ 16 → mask % 4 = 0 → ∃ t, exec (.ozwipe d) s = .next t ∧ t.oz.mem = s.oz.mem ∧ t.oz.front = (s.setSreg d.toNat 0).retire.oz.front ∧
        (∀ k, 2 ≤ k → k ≤ 15 → ozFull t k = (ozFull s k && !nbit mask k)) ∧
        (∀ k, 2 ≤ k → k ≤ 15 → nbit mask k = true → Store.get zeroOf t.oz.keys k = 0)) ∧
      (mask < 2 ^ 16 → mask % 4 ≠ 0 → exec (.ozwipe d) s = .next (s.setSreg d.toNat 4).retire)) ∧
    (∀ (i : Instr) (n : Nat), (i, n) ∈ [(Instr.ozhash d, 3), (.ozvrfy d, 4), (.ozsign d, 4), (.ozkdf d, 3), (.ozrand d, 2), (.ozwipe d, 1)] → ozBlock s d n = none →
      exec i s = .next (s.setSreg d.toNat 1).retire) ∧
    (∀ src len dst, ozBlock s d 3 = some [src, len, dst] → 0x80000 < src + len ∨ 0x80000 < dst + 32 → exec (.ozhash d) s = .next (s.setSreg d.toNat 1).retire) ∧
    (∀ msg len sig key, ozBlock s d 4 = some [msg, len, sig, key] →
      (0x80000 < msg + len ∨ 0x80000 < sig + 2420 ∨ 15 < key → exec (.ozvrfy d) s = .next (s.setSreg d.toNat 1).retire) ∧
      (0x80000 < msg + len ∨ 0x80000 < sig + 2420 ∨ key = 0 ∨ 15 < key → exec (.ozsign d) s = .next (s.setSreg d.toNat 1).retire)) ∧
    (∀ ctx len slot, ozBlock s d 3 = some [ctx, len, slot] → 0x80000 < ctx + len ∨ slot = 0 ∨ 15 < slot → exec (.ozkdf d) s = .next (s.setSreg d.toNat 1).retire) ∧
    (∀ dst len, ozBlock s d 2 = some [dst, len] → 0x80000 < dst + len → exec (.ozrand d) s = .next (s.setSreg d.toNat 1).retire) ∧
    (∀ mask, ozBlock s d 1 = some [mask] → 2 ^ 16 ≤ mask → exec (.ozwipe d) s = .next (s.setSreg d.toNat 1).retire))

/-- 16 R362: an atomic that meets nothing in its way writes F(old, b) to memory and the old value, zero extended, to S[rd]; every other byte, register and
part of the hart stays. All scopes act alike (model of one core at a time; log 1).
16 R362: CAS compares the old value with the old S[rd] and writes S[rb] when they are equal, else nothing; S[rd] gets the old value.
16 R362: CASP does the same on sixteen bytes and on the pairs rd and rb, which must be even. -/
def Obligations.AtomicsModify : Prop :=
  (∀ (i : Instr) (s : State) (n : Nat) (d a b : BitVec 6) (f : (w : Nat) → BitVec w → BitVec w → BitVec w) (pa : Nat),
    amoOf i = some (n, d, a, b, f) → (s.sreg a.toNat).toNat % n = 0 → s.plainAtomic (s.sreg a.toNat).toNat n pa = true →
      ∃ t, exec i s = .next t ∧
        memNat t pa n = (f (8 * n) (BitVec.ofNat (8 * n) (memNat s pa n)) ((s.sreg b.toNat).setWidth (8 * n))).toNat ∧
        SameBytesOutside s t pa n ∧ SameRegs s t (destRegs s d.toNat) ∧
        (d.toNat ≠ 0 → t.preg (s.hart.front.wbase.toNat + d.toNat) = BitVec.ofNat 64 (memNat s pa n)) ∧
        SameHart s t ∧ Retired s t ∧ FellThrough s t ∧ t.hart.front.wbase = s.hart.front.wbase ∧ hasUndo t (pa / 64) (rinOf t s.die) = true)
  ∧ (∀ (s : State) (sc : BitVec 3) (d a b : BitVec 6) (pa : Nat),
    (s.sreg a.toNat).toNat % 8 = 0 → s.plainAtomic (s.sreg a.toNat).toNat 8 pa = true →
      ∃ t, exec (.cas sc d a b) s = .next t ∧
        (memNat s pa 8 = (s.sreg d.toNat).toNat → memNat t pa 8 = (s.sreg b.toNat).toNat ∧ SameBytesOutside s t pa 8) ∧
        (memNat s pa 8 ≠ (s.sreg d.toNat).toNat → SameBytes s t) ∧ SameRegs s t (destRegs s d.toNat) ∧
        (d.toNat ≠ 0 → t.preg (s.hart.front.wbase.toNat + d.toNat) = BitVec.ofNat 64 (memNat s pa 8)) ∧ SameHart s t ∧ Retired s t ∧ FellThrough s t)
  ∧ (∀ (s : State) (sc : BitVec 3) (d a b : BitVec 6) (pa : Nat),
    d.toNat % 2 = 0 → b.toNat % 2 = 0 → (s.sreg a.toNat).toNat % 16 = 0 → s.plainAtomic (s.sreg a.toNat).toNat 16 pa = true →
      ∃ t, exec (.casp sc d a b) s = .next t ∧
        (memNat s pa 16 = (s.front.rdPair d.toNat).toNat → memNat t pa 16 = (s.front.rdPair b.toNat).toNat ∧ SameBytesOutside s t pa 16) ∧
        (memNat s pa 16 ≠ (s.front.rdPair d.toNat).toNat → SameBytes s t) ∧
        SameRegs s t (destRegs s d.toNat ++ destRegs s (d.toNat + 1)) ∧
        (d.toNat ≠ 0 → t.preg (s.hart.front.wbase.toNat + d.toNat) = BitVec.ofNat 64 (memNat s pa 8)) ∧
        t.preg (s.hart.front.wbase.toNat + (d.toNat + 1)) = BitVec.ofNat 64 (memNat s (pa + 8) 8) ∧ SameHart s t ∧ Retired s t ∧ FellThrough s t)

/-- 16 R364, R365: a fence retires at once when no transfer of the hart is under way, when its first class is scalar, and at scope .h.
11 R242, R243, R248: CWB, CFLUSH and CINV over a range that their checks admit, all of whose lines are stable, retire. Coherent lines: after CWB no RDC line of
the range of the issuing die is M, and the directory stays; after CFLUSH and CINV the die has no RDC line of the range, and the entry of one that it owned is free;
CWB and CFLUSH end the count of a counted line. NC lines: afterwards the die holds no dirty NC copy of the range, after CFLUSH and CINV no NC copy at all. CINV
writes no byte of memory. -/
def Obligations.FencesAndCacheMaintenance : Prop :=
  (∀ (i : Instr) (s : State) (v : Bool) (sc : BitVec 3),
    fenceOf i = some (v, sc) → s.agent = .hart → (v = false ∨ sc = 0 ∨ s.noTransfers = true) → exec i s = .next s.retire)
  ∧ (∀ (s : State) (a b : BitVec 7) (nd : Node) (held : Nat → Bool),
    s.agent = .hart → a.toNat < 64 → b.toNat < 64 → s.noTransfers = true → nodeOf s s.hart.node = some nd →
    0 < (s.sreg b.toNat).toNat → (s.sreg b.toNat).toNat ≤ 2 ^ 32 → cacheCheck nd (s.sreg a.toNat).toNat (s.sreg b.toNat).toNat = none →
    cacheWaits s s.die nd (s.sreg a.toNat).toNat (s.sreg b.toNat).toNat = false →
    held = lineInRange s nd (s.sreg a.toNat).toNat (s.sreg b.toNat).toNat →
      (∃ t, exec (.cwb a b) s = .next t ∧ Retired s t ∧ SameRegs s t [] ∧ SameHart s t ∧
        (∀ r ∈ t.rdc, r.agent.toNat = s.die → held r.line = true → r.st ≠ .m) ∧ t.dir = s.dir ∧ (∀ c ∈ t.counted, held c.line = false) ∧
        ∀ c ∈ t.nc, c.die.toNat = s.die → held (c.sector / 4) = true → c.dirty = 0) ∧
      (∃ t, exec (.cflush a b) s = .next t ∧ Retired s t ∧ SameRegs s t [] ∧ SameHart s t ∧
        (∀ r ∈ t.rdc, r.agent.toNat = s.die → held r.line = false) ∧ (∀ c ∈ t.counted, held c.line = false) ∧
        (∀ r ∈ s.rdc, r.agent.toNat = s.die → held r.line = true → r.st = .e ∨ r.st = .m → isHost (r.line * 256) = false → dirOf t r.line = none) ∧
        ∀ c ∈ t.nc, c.die.toNat = s.die → held (c.sector / 4) = false) ∧
      (∃ t, exec (.cinv a b) s = .next t ∧ Retired s t ∧ SameRegs s t [] ∧ SameHart s t ∧ SameBytes s t ∧
        (∀ r ∈ t.rdc, r.agent.toNat = s.die → held r.line = false) ∧
        (∀ r ∈ s.rdc, r.agent.toNat = s.die → held r.line = true → r.st = .e ∨ r.st = .m → isHost (r.line * 256) = false → dirOf t r.line = none) ∧
        ∀ c ∈ t.nc, c.die.toNat = s.die → held (c.sector / 4) = false))

/-- 16 R367: MONARM arms the monitor on the 64 bytes that hold the address, of device memory or of a host page whose lines are cached; of any other page it
traps as PERMISSION with the address. MONWAIT without an armed monitor writes 0 and retires; with one, the hart retires the instruction (that it retires before
it sleeps is the model's choice, log 78) and sleeps without its lane slot from this round on (the bound is counted in rounds, log 7); a bound of 0 has run out
at once.
16 R367: MONITOR_WAKE ends the wait of a resident hart with status 0 and MONWAIT_TIMEOUT with status 1; both disarm the monitor. -/
def Obligations.MonitorWaits : Prop :=
  (∀ (s : State) (d a b : BitVec 7) (pa : Nat) (e : Word),
    s.agent = .hart → d.toNat < 64 → a.toNat < 64 → b.toNat < 64 →
      (checkAccess s s.hart.node (s.sreg a.toNat).toNat 1 true false false = none → s.pageOf (s.sreg a.toNat).toNat = some (pa, e) →
        (leafMT e ≠ 1 → leafNC e = false → leafEPH e = false → (isHost (leafPA e) = false ∨ (leafHOSTC e = true ∧ hostCoherent s = true)) →
          exec (.monarm a) s = .next ({ s with hart := { s.hart with monitor := some (pa / 64) } } : State).retire) ∧
        (leafMT e = 1 ∨ leafNC e = true ∨ leafEPH e = true ∨ (isHost (leafPA e) = true ∧ (leafHOSTC e = false ∨ hostCoherent s = false)) →
          exec (.monarm a) s = .next (takeTrap s .permission (s.sreg a.toNat)))) ∧
      (s.hart.monitor = none → exec (.monwait d b) s = .next (s.setSreg d.toNat 0).retire) ∧
      (∀ k, s.hart.monitor = some k → s.noneReady = true →
        ∃ t h, exec (.monwait d b) s = .next t ∧
          t = { s.retire with hart := h, pending := if s.sreg b.toNat = 0 then s.retire.pending ++ [.monwaitTimeout s.hart.hid] else s.retire.pending } ∧
          h = { s.retire.hart with
            status := .waiting, wait := .monwait (s.front.dest d.toNat) (s.sreg b.toNat), since := s.clock, parkedAt := s.clock }))
  ∧ (∀ (s : State) (rd : Nat) (bound : Word),
    s.hart.wait = .monwait rd bound → s.hart.out = false →
      exec (.monitorWake s.hart.hid) s =
        .next (endWait (updHart s s.hart.hid (fun h => { h.setPhys rd 0 with monitor := none })) s.hart.hid) ∧
      exec (.monwaitTimeout s.hart.hid) s =
        .next (endWait (updHart s s.hart.hid (fun h => { h.setPhys rd 1 with monitor := none })) s.hart.hid))

/-- 05 Table 5.5, R112; 06 R137: CSRR reads a listed CSR into S[rd] and retires.
05 Table 5.5, R112; 06 R137: CSRW, CSRS and CSRC of a value that the CSR accepts retire. A writable CSR then reads as the value written, every other
one but the counters as before; a read-only CSR keeps its value; no register and no byte of memory changes. (A hart's VLMAXE is below 2^18 by 05 R92: a
value of vl is 18 bits wide.)
That a write of a read-only CSR raises ILLEGAL_OPERAND where it sets an RZ field is how the model reads 00 R8 beside R112 (log 68). -/
def Obligations.CsrReadsAndWrites : Prop :=
  (∀ (s : State) (d : BitVec 7) (p : Nat × Word), s.agent = .hart → d.toNat < 64 → p ∈ csrTable s →
    exec (.csrr d (BitVec.ofNat 12 p.1)) s = .next (s.setSreg d.toNat p.2).retire)
  ∧ (∀ (i : Instr) (s : State) (d : BitVec 7) (c : BitVec 12) (old v : Word) (h : Hart),
    s.agent = .hart → d.toNat < 64 → csrRead s c.toNat = some old → csrOpOf i s.sreg old = some (d, c, v) → c.toNat ≠ 0x014 →
    csrWrite s.hart c.toNat v = some h → s.front.levels = [] → s.hart.vlmaxe < 2 ^ 18 →
      ∃ t, exec i s = .next t ∧ OnlyHart s t ∧ Retired s t ∧ SameRegs s t [] ∧
        (c.toNat ∈ writableCsrs → csrRead t c.toNat = some v) ∧
        (c.toNat = 0x073 → t.hart.trap.tstatus.toNat = v.toNat / 256 * 256 + s.hart.trap.tstatus.toNat % 8) ∧
        (∀ k, k ∉ [0x014, 0x073, 0x080, 0x081, 0x082, 0x083] → (k ≠ c.toNat ∨ c.toNat ∉ writableCsrs) →
          (c.toNat = 0x000 → k ∉ [0x001, 0x002, 0x003]) → csrRead t k = csrRead s k))

/-- 06 R135: a value that lstate accepts sets the loop levels it describes, relative to the writing instruction or, in a handler, to tepc.
05 R110, R112: a CSR that Table 5.5 does not list raises ILLEGAL_INSTR with the word, a value that a CSR does not accept and a field that names no scalar
register raise ILLEGAL_OPERAND with tval 0 (18 R388: ILLEGAL_INSTR is decided first); the sequencer drops the words.
That an unlisted CSR decides before the operand's class, which no description orders (log 32), lstate in a handler and in a save area (log 28), and
lstate modulo 2^10 (log 37) are the model's readings. -/
def Obligations.LstateAndCsrTraps : Prop :=
  (∀ (i : Instr) (s : State) (d : BitVec 7) (c : BitVec 12) (v : Word),
    s.agent = .hart → d.toNat < 64 → c.toNat = 0x014 → csrOpOf i s.sreg s.hart.lstate = some (d, c, v) →
      exec (.csrr d c) s = .next (s.setSreg d.toNat s.hart.lstate).retire ∧
      (lstateOk v.toNat = true → ∃ t, exec i s = .next t ∧ OnlyHart s t ∧ Retired s t ∧ SameRegs s t [] ∧
        t.hart.front.levels = (levelsOf (if s.hart.trap.tstatus.getLsbD 0 then s.hart.trap.tepc else s.hart.front.pc) v.toNat).reverse) ∧
      (lstateOk v.toNat = false → exec i s = .next (takeTrap s .illegalOperand 0)))
  ∧ (∀ (i : Instr) (s : State) (d : BitVec 7) (c : BitVec 12) (old v : Word), csrOpOf i s.sreg old = some (d, c, v) →
    (s.agent = .hart → 64 ≤ d.toNat → (csrRead s c.toNat).isSome = true → exec i s = .next (takeTrap s .illegalOperand 0)) ∧
    (s.agent = .hart → csrRead s c.toNat = none → exec i s = .next (takeTrap s .illegalInstr ((encode i).setWidth 64))) ∧
    (s.agent = .hart → d.toNat < 64 → c.toNat ≠ 0x014 → csrRead s c.toNat = some old → csrWrite s.hart c.toNat v = none →
      exec i s = .next (takeTrap s .illegalOperand 0)) ∧
    (s.agent = .advice → exec i s = .next (dropWord s)))

/-- 06 R136, R139: WBASE of a multiple of 8 from 0 to 192 sets the window base, any other value raises ILLEGAL_OPERAND; no physical register changes.
MARK sets pm.id and counts pm.occ; nothing else of the hart's registers changes. -/
def Obligations.WindowAndMark : Prop :=
  ∀ (s : State) (n : BitVec 11) (m : BitVec 16), s.agent = .hart →
    (n.toNat % 8 = 0 → n.toNat ≤ 192 →
      ∃ t, exec (.wbase n) s = .next t ∧ OnlyFront s t ∧ Retired s t ∧ SameRegs s t [] ∧ t.hart.front.wbase.toNat = n.toNat ∧ FellThrough s t) ∧
    (n.toNat % 8 ≠ 0 ∨ 192 < n.toNat → exec (.wbase n) s = .next (takeTrap s .illegalOperand 0)) ∧
    (∃ t, exec (.mark m) s = .next t ∧ Retired s t ∧ SameBytes s t ∧ t.hart.pmId = m ∧ t.hart.pmOcc = s.hart.pmOcc + 1 ∧
      t.hart.front = s.retire.hart.front ∧ t.hart.vec = s.hart.vec ∧ t.hart.mat = s.hart.mat ∧ t.hart.trap = s.hart.trap ∧ t.others = s.others)

/-- 18 R386, R387: a delivered cause (any but CHECK_MISMATCH and DATA_UNCORRECTABLE, which Table 18.1 escalates) taken outside a handler while tvec is not 0: the trap registers, the status and the pc become what R387 says, and
memory, every other register of the hart and every other hart stay.
06 R140, R141: TRAP retires and then takes BREAK with its code; tepc is the address that would have followed it. -/
def Obligations.TrapEntry : Prop :=
  (∀ (s : State) (c : Cause) (v : Word), s.agent = .hart → c ≠ .leaseViolation → c ≠ .watchdog → c ≠ .checkMismatch → c ≠ .dataUncorrectable → s.hart.trap.tstatus.getLsbD 0 = false →
    s.hart.trap.tvec ≠ 0 →
      Entered s (takeTrap s c v) c.code v s.hart.front.pc false ∧
      takeTrap s c v = { s with hart := { s.hart with trap := (takeTrap s c v).hart.trap, front := (takeTrap s c v).hart.front,
                                                      monitor := none, wait := .none } })
  ∧ (∀ (s : State) (c : BitVec 12), s.agent = .hart → s.hart.trap.tstatus.getLsbD 0 = false → s.hart.trap.tvec ≠ 0 →
    ∃ t, exec (.trap c) s = .next t ∧ Retired s t ∧ Entered s.retire t 6 (c.setWidth 64) s.retire.hart.front.pc false ∧ SameRegs s t [] ∧
      SameBytes s t ∧ t.hart.front.wbase = s.hart.front.wbase)

/-- 18 R389, R47: any delivered cause in a handler, LEASE_VIOLATION and WATCHDOG, end the task failed: the hart runs no more, and its node is FAILED with the
cause.
That the trap registers are written where tvec is 0, or no handler runs, is the model's reading (log 15). -/
def Obligations.TrapEndsTask : Prop :=
  ∀ (s : State) (c : Cause) (v : Word) (nd : Node), s.agent = .hart → nodeOf s s.hart.node = some nd →
    ((s.hart.trap.tstatus.getLsbD 0 = true ∧ c ≠ .checkMismatch ∧ c ≠ .dataUncorrectable) ∨ c = .leaseViolation ∨ c = .watchdog) →
      (takeTrap s c v).hart.alive = false ∧
      ∃ x, nodeOf (takeTrap s c v) s.hart.node = some x ∧ x.state = .failed ∧ x.cause = BitVec.ofNat 8 c.code ∧ x.lease = [] ∧
        (s.hart.task, BitVec.ofNat 8 c.code) ∈ x.failedTasks

/-- 18 R390, 06 R133: ERET in a handler whose END is 0 goes back to tepc with the saved window base and IH clear, the loop levels leaving by R133. -/
def Obligations.ReturnFromTrap : Prop :=
  ∀ (s : State), s.agent = .hart →
    (s.hart.trap.tstatus.getLsbD 0 = true → s.hart.trap.tstatus.getLsbD 1 = false →
      ∃ t, exec .eret s = .next t ∧ OnlyHart s t ∧ Retired s t ∧ SameRegs s t [] ∧ t.hart.vec = s.hart.vec ∧ t.hart.mat = s.hart.mat ∧
        t.hart.dist = s.hart.dist ∧ t.hart.front.pc = s.hart.trap.tepc ∧
        t.hart.front.wbase = s.hart.trap.tstatus.extractLsb' 8 8 ∧ t.hart.trap = { s.hart.trap with tstatus := s.hart.trap.tstatus &&& 0xFFFE } ∧
        (t.hart.front.lc, t.hart.front.levels) = leaveLoops s.hart.front.lc s.hart.front.levels s.hart.trap.tepc) ∧
    (∀ nd, s.hart.trap.tstatus.getLsbD 0 = true → s.hart.trap.tstatus.getLsbD 1 = true → nodeOf s s.hart.node = some nd →
      ∃ t x, exec .eret s = .next t ∧ t.hart.alive = false ∧ nodeOf t s.hart.node = some x ∧ x.state = .failed ∧ x.cause = s.hart.trap.tcause) ∧
    (s.hart.trap.tstatus.getLsbD 0 = false → exec .eret s = .next (takeTrap s .illegalInstr 0x2E000001))

/-- 06 R142, 05 R103: YIELD of a hart retires, in every state; with no other hart of the core that is parked, ready and of at least this priority it has no other effect, else this
hart is parked and ready and the best ranked of them runs. That the hart that yields does not compete for the slot is the model's choice (log 75).
06 R143: PARK n of a hart with n not 0 retires and parks the hart, in every state, not ready for n times 64 control cycles; PARK_EXPIRY ends that wait, and
the hart is ready. PARK 0 ends the task, in every state: the next task of its group begins on the freed context (04 R81); with no further task of its group,
the hart's context is released, and at the node's last task NODE_DONE is due (log 6). That the next task goes on in the lane slot that its context holds is the
model's choice (log 75).
That a control cycle is a round is the model's (log 7). -/
def Obligations.YieldParkAndEnd : Prop :=
  (∀ (s : State), s.agent = .hart →
    (∃ t, exec .yield s = .next t ∧ Retired s t ∧ SameRegs s t []) ∧
    ((∀ h ∈ s.others, sameCore h s.hart = true → h.readyParked = true → h.prio.toNat < s.hart.prio.toNat) → exec .yield s = .next s.retire) ∧
    (∀ h, h ∈ s.others → (∀ g ∈ s.others, g.hid ≠ s.hart.hid) → sameCore h s.hart = true → h.readyParked = true →
      s.hart.prio.toNat ≤ h.prio.toNat →
        ∃ t, exec .yield s = .next t ∧ Retired s t ∧ SameRegs s t [] ∧ t.hart.status = .parked ∧ t.hart.wait = s.hart.wait ∧
          (∃ g ∈ t.others, g.status = .running ∧ s.hart.prio.toNat ≤ g.prio.toNat)))
  ∧ ((∀ (s : State) (n : BitVec 12), s.agent = .hart → n ≠ 0 →
    ∃ t, exec (.park n) s = .next t ∧ Retired s t ∧ SameRegs s t [] ∧ t.hart.wait = .park (64 * n.toNat) ∧
      (s.noneReady = true → t = { s.retire with hart := { s.retire.hart with status := .parked, wait := .park (64 * n.toNat),
                                                                             since := s.clock, parkedAt := s.clock } }))
  ∧ (∀ (s : State) (h k : Nat) (x : Hart), hartOf s h = some x → x.wait = .park k →
    ∃ t y, exec (.parkExpiry h) s = .next t ∧ t = endWait s h ∧ hartOf t h = some y ∧ y.wait = .none ∧ (y.status = .parked ∨ y.status = .running))
  ∧ (∀ (s : State), s.agent = .hart → ∃ t, exec (.park 0) s = .next t)
  ∧ (∀ (s : State) (nd : Node) (g nx : Nat), s.agent = .hart → nodeOf s s.hart.node = some nd → g = s.hart.task.toNat / hdrGroupSize nd.hdr →
    nx = nd.nextTask.getD g 0 →
      (nx < min (hdrTasks nd.hdr) ((g + 1) * hdrGroupSize nd.hdr) → s.hart.status = .running → s.hart.out = false →
        ∃ t x, exec (.park 0) s = .next t ∧ t.hart.status = .running ∧ t.hart.task = BitVec.ofNat 24 nx ∧
          t.hart.front.pc = BitVec.ofNat 64 (fieldAt nd.raw 0x40 8 + 64) ∧ t.hart.vec.vl = 0 ∧ t.hart.trap.tvec = 0 ∧ nodeOf t s.hart.node = some x ∧
          x.endedTasks = nd.endedTasks + 1) ∧
      (min (hdrTasks nd.hdr) ((g + 1) * hdrGroupSize nd.hdr) ≤ nx → s.noneReady = true →
        ∃ t x, exec (.park 0) s = .next t ∧ t.hart.status = .ended ∧ Retired s t ∧ nodeOf t s.hart.node = some x ∧
          x.endedTasks = nd.endedTasks + 1 ∧ (nd.endedTasks + 1 = hdrTasks nd.hdr → .nodeDone nd.num ∈ t.pending))))

/-- 08 R162, R165, R169 to R171: the configuration instructions set vtype, vshape, vl and vstart, and answer VLMAXE, vl, or the size of a spill frame. -/
def Obligations.VectorConfiguration : Prop :=
  ∀ (s : State) (d a b : BitVec 7) (x : BitVec 13), s.agent = .hart → d.toNat < 64 → a.toNat < 64 → b.toNat < 64 →
    (vtypeOk x.toNat = true → ∃ t, exec (.vsettype d x) s = .next t ∧ Retired s t ∧ t.hart.vec.vtype = x ∧ t.hart.vec.vstart = 0 ∧
      t.hart.vec.vl = BitVec.ofNat 18 (min s.hart.vec.vl.toNat (s.hart.vlmaxeOf (x.toNat % 32))) ∧
      t.hart.vec.vshape = (if s.hart.vec.nrow * s.hart.vec.ncol > s.hart.vlmaxeOf (x.toNat % 32) then BitVec.ofNat 40 (2 ^ 20 + s.hart.vlmaxeOf (x.toNat % 32))
        else s.hart.vec.vshape) ∧
      t.hart.vec.vrf = s.hart.vec.vrf ∧ t.hart.vec.masks = s.hart.vec.masks ∧
      (d.toNat ≠ 0 → t.preg (s.hart.front.wbase.toNat + d.toNat) = BitVec.ofNat 64 (s.hart.vlmaxeOf (x.toNat % 32))) ∧
      SameRegs s t (destRegs s d.toNat)) ∧
    (s.hart.shapeOk (s.sreg a.toNat).toNat (s.sreg b.toNat).toNat = true →
      ∃ t, exec (.vsetshape d a b) s = .next t ∧ Retired s t ∧ OnlyHart s t ∧ SameRegs s t (destRegs s d.toNat) ∧
        t.hart.vec = { s.hart.vec with vshape := BitVec.ofNat 40 ((s.sreg a.toNat).toNat * 2 ^ 20 + (s.sreg b.toNat).toNat),
                                       vl := BitVec.ofNat 18 ((s.sreg a.toNat).toNat * (s.sreg b.toNat).toNat), vstart := 0 } ∧
        (d.toNat ≠ 0 → t.preg (s.hart.front.wbase.toNat + d.toNat) = BitVec.ofNat 64 ((s.sreg a.toNat).toNat * (s.sreg b.toNat).toNat))) ∧
    (∃ t, exec (.vsetl d a) s = .next t ∧ Retired s t ∧ OnlyHart s t ∧ SameRegs s t (destRegs s d.toNat) ∧
      t.hart.vec = { s.hart.vec with vl := BitVec.ofNat 18 (min (s.sreg a.toNat).toNat s.hart.vlmaxe), vstart := 0 } ∧
      (d.toNat ≠ 0 → t.preg (s.hart.front.wbase.toNat + d.toNat) = BitVec.ofNat 64 (min (s.sreg a.toNat).toNat s.hart.vlmaxe))) ∧
    exec (.vlq d) s = .next (s.setSreg d.toNat
      (BitVec.ofNat 64 (64 + ((s.hart.vec.vl.toNat * s.hart.vec.ew + 7) / 8 + 63) / 64 * 64))).retire

/-- 08 R172, R173, R175; 09 R208, R209; 10 R216: every element-wise instruction. When its operands pass their checks, no register it writes is bound, and its
bound reads go through, it completes: results come from the old registers, then destinations, flags and overflow-mask bits are written, bound streams move on,
vstart is 0, and the recompute check steps once.
08 R172, 05 R110: an element-wise instruction whose operands fail their checks, that writes a register bound to a stream (09 R209), or that
reads one bound to a stream of another width (09 R190), raises ILLEGAL_OPERAND with tval 0.
That the LFSR steps only once the bound reads have passed (log 66), and that only a wrong lane or an injected fault makes the two computations differ
(log 20), is the model's. -/
def Obligations.ElementwiseCompletes : Prop :=
  (∀ (i : Instr) (s u : State) (e : EInstr) (view : Store 8 × List BoundEls),
    s.agent = .hart → elementOf i s.hart = some (some e) → (∀ r ∈ e.writes, s.hart.vec.isBound r = false) →
    boundWidths s.hart.vec (boundSources s.hart.vec e.srcs) = true →
    xBoundReads (s.hart.vec.active e.masked ((boundSources s.hart.vec e.srcs).map (fun p => s.hart.vec.stream p.1))) [] (boundSources s.hart.vec e.srcs)
      s.hart.vec.vrf s = .ok (view, u) → u.noLaneFault = true →
        exec i s = .next (retireBound (({ u with hart := { u.hart with vec := u.hart.vec.checked 1 } } : State).modVec (fun v =>
          { elemLoop s.hart.vlmax e (s.hart.vec.active e.masked ((boundSources s.hart.vec e.srcs).map (fun p => s.hart.vec.stream p.1))) view.1 v
            with vstart := 0 })) view.2).retire)
  ∧ (∀ (i : Instr) (s : State) (o : Option EInstr), s.agent = .hart → elementOf i s.hart = some o →
    (∀ e, o = some e → (∃ r ∈ e.writes, s.hart.vec.isBound r = true) ∨ boundWidths s.hart.vec (boundSources s.hart.vec e.srcs) = false) → exec i s = .next (takeTrap s .illegalOperand 0))

/-- 08 R172 to R175, 07 R146: frame and result of an element-wise instruction without bound streams that writes one register: each active element holds
the result of its operation on the old registers, every other element of it, every other register and all of memory stay, and the sticky flags take the
results' flags. -/
def Obligations.ElementwiseFrame : Prop :=
  ∀ (i : Instr) (s : State) (e : EInstr) (reg w : Nat),
    s.agent = .hart → elementOf i s.hart = some (some e) → (∀ r ∈ e.srcs ++ e.writes, s.hart.vec.isBound r = false) → s.noLaneFault = true →
    e.dst = .vec reg w → w ∈ [4, 8, 16, 32, 64] → s.hart.vec.vl.toNat * w ≤ 98304 * 8 →
      ∃ t, exec i s = .next t ∧ OnlyHart s t ∧ Retired s t ∧ SameRegs s t [] ∧
        (∀ k ∈ s.hart.vec.active e.masked [], getEl t.hart.vec.vrf reg w k = (e.op s.hart.vec s.hart.vec.vrf k).val % 2 ^ w) ∧
        SameElements s.hart.vec t.hart.vec reg w (s.hart.vec.active e.masked []) ∧ OtherRegisters s.hart.vec t.hart.vec reg ∧
        t.hart.vec.fflags = ((s.hart.vec.active e.masked []).map (fun k => BitVec.ofNat 6 (e.op s.hart.vec s.hart.vec.vrf k).fl)).foldl
          (fun x y => x ||| y) s.hart.vec.fflags ∧
        t.hart.vec.vstart = 0 ∧ t.hart.vec.vtype = s.hart.vec.vtype ∧ t.hart.vec.vl = s.hart.vec.vl ∧ t.hart.vec.vshape = s.hart.vec.vshape ∧
        t.hart.vec.streams = s.hart.vec.streams ∧ t.hart.mat = s.hart.mat ∧ t.hart.dist = s.hart.dist ∧ t.hart.trap = s.hart.trap

/-- 08 R178, R182; 10 R218: an element-wise instruction that writes a mask register sets the bit of each active element to its result and keeps the others.
08 R174, R177, R183, R185: an element-wise instruction that writes a group of registers puts element e in register e / n of the group, n elements to
a register. -/
def Obligations.ElementwiseMasksAndGroups : Prop :=
  (∀ (i : Instr) (s : State) (e : EInstr) (m : Nat),
    s.agent = .hart → elementOf i s.hart = some (some e) → (∀ r ∈ e.srcs ++ e.writes, s.hart.vec.isBound r = false) → s.noLaneFault = true →
    e.dst = .mask m →
      ∃ t, exec i s = .next t ∧ OnlyHart s t ∧ Retired s t ∧ SameRegs s t [] ∧ t.hart.vec.vrf = s.hart.vec.vrf ∧ t.hart.vec.vstart = 0 ∧
        (∀ k ∈ s.hart.vec.active e.masked [], (e.op s.hart.vec s.hart.vec.vrf k).ovm = false →
          t.hart.vec.mask m k = decide ((e.op s.hart.vec s.hart.vec.vrf k).val ≠ 0)) ∧
        (∀ k, k ∉ s.hart.vec.active e.masked [] → k < 2 ^ 18 → t.hart.vec.mask m k = s.hart.vec.mask m k))
  ∧ (∀ (i : Instr) (s : State) (e : EInstr) (reg w : Nat),
    s.agent = .hart → elementOf i s.hart = some (some e) → (∀ r ∈ e.srcs ++ e.writes, s.hart.vec.isBound r = false) → s.noLaneFault = true →
    e.dst = .group reg w → w ∈ [8, 16, 32, 64] → 0 < s.hart.vlmax * 8 / w → s.hart.vlmax ≤ 98304 → s.hart.vec.vl.toNat ≤ 16 * (s.hart.vlmax * 8 / w) →
      ∃ t, exec i s = .next t ∧ OnlyHart s t ∧ Retired s t ∧ SameRegs s t [] ∧ t.hart.vec.vstart = 0 ∧
        ∀ k ∈ s.hart.vec.active e.masked [],
          getEl t.hart.vec.vrf (reg + k / (s.hart.vlmax * 8 / w)) w (k % (s.hart.vlmax * 8 / w)) = (e.op s.hart.vec s.hart.vec.vrf k).val % 2 ^ w)

/-- 08 R176 to R178, Table 8.5; 07 R152, R153: the integer instructions of two operands. Each active element is the exact result of the operands; where the row is
marked "range" and the result does not fit, it is held to the format's range, with SAT set, where SAT or the instruction says so and else taken modulo 2^w, and its
bit of the overflow-mask register is set. The widening ones write the exact result to the group. The compares write the mask bit of their test. -/
def Obligations.VectorIntegerArithmetic : Prop :=
  ∀ (i : Instr) (s : State) (d a b : BitVec 7) (m : Bool) (w : Nat) (sg : Bool),
    s.agent = .hart → s.hart.vec.isInt = true → isV s.hart a = true → isV s.hart b = true → w = s.hart.vec.ew → sg = s.hart.vec.signed →
    (∀ r, s.hart.vec.isBound r = false) → s.noLaneFault = true → s.hart.vec.vl.toNat * w ≤ 98304 * 8 →
      (∀ range f, vintOf i = some (d, a, b, m, range, f) → isV s.hart d = true →
        ∃ t, exec i s = .next t ∧ Retired s t ∧ ∀ k ∈ s.hart.vec.active m [], ∀ x,
          x = f w sg (getEl s.hart.vec.vrf (vnum a) w k) (getEl s.hart.vec.vrf (vnum b) w k) (getEl s.hart.vec.vrf (vnum d) w k) →
          getEl t.hart.vec.vrf (vnum d) w k = (if range.isSome = true ∧ (range = some true ∨ s.hart.vec.sat = true) then bitsOf w (heldTo w sg x) else bitsOf w x) ∧
          (range.isSome = true → fitsIn w sg x = false → s.hart.vec.ovm ≠ 0 → t.hart.vec.mask s.hart.vec.ovm k = true) ∧
          (range.isSome = true → fitsIn w sg x = false → range = some true ∨ s.hart.vec.sat = true → t.hart.vec.fflags.getLsbD 5 = true) ∧
          (s.hart.vec.active m [] = [k] → (range = none ∨ fitsIn w sg x = true) → t.hart.vec.fflags = s.hart.vec.fflags ∧ t.hart.vec.masks = s.hart.vec.masks)) ∧
      (∀ f, vwideOf i = some (d, a, b, m, f) → isV s.hart d = true → w ≤ 32 → vnum d % 2 = 0 → vnum d + 2 ≤ s.hart.vregs.toNat →
        vnum a ≠ vnum d → vnum a ≠ vnum d + 1 → vnum b ≠ vnum d → vnum b ≠ vnum d + 1 → s.hart.vlmax ≤ 98304 → ∀ n, n = s.hart.vlmax * 8 / (2 * w) → 0 < n →
        s.hart.vec.vl.toNat ≤ 2 * n →
          ∃ t, exec i s = .next t ∧ Retired s t ∧ t.hart.vec.fflags = s.hart.vec.fflags ∧ ∀ k ∈ s.hart.vec.active m [],
            getEl t.hart.vec.vrf (vnum d + k / n) (2 * w) (k % n) =
              bitsOf (2 * w) (f (elemInt w sg (getEl s.hart.vec.vrf (vnum a) w k)) (elemInt w sg (getEl s.hart.vec.vrf (vnum b) w k)))) ∧
      (∀ f, vcmpOf i = some (d, a, b, m, f) → d.toNat < 16 →
        ∃ t, exec i s = .next t ∧ Retired s t ∧ t.hart.vec.fflags = s.hart.vec.fflags ∧ ∀ k ∈ s.hart.vec.active m [],
          t.hart.vec.mask d.toNat k = f w (getEl s.hart.vec.vrf (vnum a) w k) (getEl s.hart.vec.vrf (vnum b) w k))

/-- 10 R218 to R220, R222, Tables 10.1 and 10.2: the logic instructions, funnel shifts, rotations and truth tables bit by bit, the counts, and where each element of a
permute comes from. -/
def Obligations.VectorLogicAndPermutes : Prop :=
  ∀ (s : State) (d a b : BitVec 7) (m : Bool) (w : Nat),
    s.agent = .hart → w = s.hart.vec.ew → w ≠ 0 → (∀ r, s.hart.vec.isBound r = false) → s.noLaneFault = true → s.hart.vec.vl.toNat * w ≤ 98304 * 8 →
      (∀ i code f, vbitOf i = some (d, a, b, m, code, f) → isV s.hart d = true → isV s.hart a = true → isV s.hart b = true →
        (code = true → s.hart.vec.cls ∈ [.sint, .uint, .grouped]) →
          ∃ t, exec i s = .next t ∧ Retired s t ∧ ∀ k ∈ s.hart.vec.active m [], ∀ j, j < w → (getEl t.hart.vec.vrf (vnum d) w k).testBit j =
            f w (getEl s.hart.vec.vrf (vnum a) w k) (getEl s.hart.vec.vrf (vnum b) w k) (getEl s.hart.vec.vrf (vnum d) w k) j) ∧
      (∀ (i : Instr) (c : BitVec 7) (tt : Nat) (x y z : BitVec 6), (i = .vlut3Tt71 c x y z ∧ tt = 128 + c.toNat) ∨ (i = .vlut3Tt70 c x y z ∧ tt = c.toNat) →
        x.toNat < s.hart.vregs.toNat → y.toNat < s.hart.vregs.toNat → z.toNat < s.hart.vregs.toNat →
          ∃ t, exec i s = .next t ∧ Retired s t ∧ ∀ k ∈ s.hart.vec.active false [], ∀ j, j < w → (getEl t.hart.vec.vrf x.toNat w k).testBit j =
            tt.testBit (4 * ((getEl s.hart.vec.vrf x.toNat w k).testBit j).toNat + 2 * ((getEl s.hart.vec.vrf y.toNat w k).testBit j).toNat +
              ((getEl s.hart.vec.vrf z.toNat w k).testBit j).toNat)) ∧
      (isV s.hart d = true → isV s.hart a = true → s.hart.vec.cls ∈ [.sint, .uint, .grouped] →
        (∃ t, exec (.vpopc d a m) s = .next t ∧ Retired s t ∧ ∀ k ∈ s.hart.vec.active m [], getEl t.hart.vec.vrf (vnum d) w k =
          (List.range w).countP (fun j => (getEl s.hart.vec.vrf (vnum a) w k).testBit j)) ∧
        (∃ t, exec (.vclz d a m) s = .next t ∧ Retired s t ∧ ∀ k ∈ s.hart.vec.active m [], getEl t.hart.vec.vrf (vnum d) w k =
          ((List.range w).takeWhile (fun j => !(getEl s.hart.vec.vrf (vnum a) w k).testBit (w - 1 - j))).length)) ∧
      (isV s.hart d = true → isV s.hart a = true →
        (b.toNat < 64 →
          (∃ t, exec (.vslideup d a b m) s = .next t ∧ Retired s t ∧ ∀ k ∈ s.hart.vec.active m [], getEl t.hart.vec.vrf (vnum d) w k =
            getEl s.hart.vec.vrf (vnum a) w (((k : Int) - (s.sreg b.toNat).toNat) % (s.hart.vec.vl.toNat : Int)).toNat) ∧
          (∃ t, exec (.vslidedn d a b m) s = .next t ∧ Retired s t ∧ ∀ k ∈ s.hart.vec.active m [], getEl t.hart.vec.vrf (vnum d) w k =
            getEl s.hart.vec.vrf (vnum a) w ((k + (s.sreg b.toNat).toNat) % s.hart.vec.vl.toNat)) ∧
          (∃ t, exec (.vrowsh d a b m) s = .next t ∧ Retired s t ∧ ∀ k ∈ s.hart.vec.active m [], ∀ c' : Int,
            c' = ((k % s.hart.vec.ncol : Nat) : Int) - (s.sreg b.toNat).toInt → getEl t.hart.vec.vrf (vnum d) w k =
              (if 0 ≤ c' ∧ c' < s.hart.vec.ncol ∧ k / s.hart.vec.ncol * s.hart.vec.ncol + c'.toNat < s.hart.vlmaxe then
                getEl s.hart.vec.vrf (vnum a) w (k / s.hart.vec.ncol * s.hart.vec.ncol + c'.toNat) else 0))) ∧
        (isV s.hart b = true → ∃ t, exec (.vgather d a b m) s = .next t ∧ Retired s t ∧ ∀ k ∈ s.hart.vec.active m [], ∀ n,
          n = getEl s.hart.vec.vrf (vnum b) w k → getEl t.hart.vec.vrf (vnum d) w k = (if n < s.hart.vlmaxe then getEl s.hart.vec.vrf (vnum a) w n else 0)) ∧
        (s.hart.vec.vl.toNat = s.hart.vec.nrow * s.hart.vec.ncol → s.hart.vec.vstart = 0 →
          ∃ t, exec (.vtrans d a m) s = .next t ∧ Retired s t ∧ ∀ r c, r < s.hart.vec.nrow → c < s.hart.vec.ncol →
            c * s.hart.vec.nrow + r ∈ s.hart.vec.active m [] →
              getEl t.hart.vec.vrf (vnum d) w (c * s.hart.vec.nrow + r) = getEl s.hart.vec.vrf (vnum a) w (r * s.hart.vec.ncol + c))) ∧
      (isV s.hart d = true → a.toNat < 64 → ∃ t, exec (.vbcast d a m) s = .next t ∧ Retired s t ∧ ∀ k ∈ s.hart.vec.active m [],
        getEl t.hart.vec.vrf (vnum d) w k = (s.sreg a.toNat).toNat % 2 ^ w)

/-- 07 R149, R151: rounding a fraction that is not zero takes the magnitude that the mode picks among those of the format with the exponent unbounded above; one above
the largest finite value overflows as Table 7.5 has it, with OF and NX, with SAT where it is clamped, and with its overflow-mask bit; another sets NX just where it is
not exact, and UF where it is inexact and below the smallest normal, never where the number itself is no smaller than that. -/
def Obligations.RoundingIsCorrect : Prop :=
  ∀ (F : FFmt) (mode : Nat) (clamp zneg neg : Bool) (x y : Frac), F ∈ [f32F, f16F, bf16F, f8aF, f8bF] → mode < 4 → x.1 ≠ 0 → 0 < x.2 → neg = decide (x.1 < 0) →
    y = ((x.1.natAbs : Int), x.2) →
      ∃ c, RoundsTo F mode neg y c ∧
        (c ≤ F.maxFin false → (roundF F mode clamp zneg x).val = (if neg then 2 ^ (F.eb + F.fb) else 0) + c ∧ (roundF F mode clamp zneg x).ovm = false ∧
          (fracEq (magnitude F c) y = true → (roundF F mode clamp zneg x).fl = 0) ∧
          (fracEq (magnitude F c) y = false → (roundF F mode clamp zneg x).fl = 1 ∨ (roundF F mode clamp zneg x).fl = 3) ∧
          (fracEq (magnitude F c) y = false → c < 2 ^ F.fb → (roundF F mode clamp zneg x).fl = 3) ∧
          (fracLt y (magnitude F (2 ^ F.fb)) = false → (roundF F mode clamp zneg x).fl ≠ 3)) ∧
        (F.maxFin false < c → (roundF F mode clamp zneg x).val = (if neg then 2 ^ (F.eb + F.fb) else 0) + overflowed F mode clamp neg ∧
          (roundF F mode clamp zneg x).ovm = true ∧ (roundF F mode clamp zneg x).fl = (if F.inf = false ∨ clamp = true then 37 else 5))

/-- 08 R179 to R182, Table 8.6; 07 R149, R154: the float instructions on operands that are not bound. Sums, products, fused operations and quotients by FloatElement;
VFMIN and VFMAX by the order of R180; VFABS, VFNEG and VFCLASS bit by bit; the compares, to which NaN operands give 0, with NV but for VFCMPEQ; the square root
of a number that is no square is not stated here. -/
def Obligations.VectorFloatResults : Prop :=
  ∀ (s : State) (d a b : BitVec 7) (m : Bool) (w : Nat) (F : FFmt) (x y z : Nat → Nat),
    s.agent = .hart → s.hart.vec.fmt ≤ 2 → w = s.hart.vec.ew → F = fmtFloat s.hart.vec.fmt → isV s.hart a = true → isV s.hart b = true →
    (∀ r, s.hart.vec.isBound r = false) → s.noLaneFault = true → s.hart.vec.vl.toNat * w ≤ 98304 * 8 →
    x = getEl s.hart.vec.vrf (vnum a) w → y = getEl s.hart.vec.vrf (vnum b) w → z = getEl s.hart.vec.vrf (vnum d) w →
      (isV s.hart d = true →
        (∀ i three f, vexactOf i = some (d, a, b, m, three, f) → ∃ t, exec i s = .next t ∧ Retired s t ∧ ∀ k ∈ s.hart.vec.active m [], ∃ r,
          FloatElement i three f F s.hart.vec.frm.toNat s.hart.vec.sat (F.val (x k)) (F.val (y k)) (F.val (z k)) r ∧
          getEl t.hart.vec.vrf (vnum d) w k = r.val % 2 ^ w ∧ (r.ovm = true → s.hart.vec.ovm ≠ 0 → t.hart.vec.mask s.hart.vec.ovm k = true) ∧
          (s.hart.vec.active m [] = [k] → t.hart.vec.fflags = s.hart.vec.fflags ||| BitVec.ofNat 6 r.fl)) ∧
        (∃ t, exec (.vfmin d a b m) s = .next t ∧ Retired s t ∧ t.hart.vec.fflags = s.hart.vec.fflags ∧ ∀ k ∈ s.hart.vec.active m [],
          getEl t.hart.vec.vrf (vnum d) w k = (if F.val (x k) = .nan ∨ F.val (y k) = .nan then F.nan else if floatRank w (x k) ≤ floatRank w (y k) then x k else y k)) ∧
        (∃ t, exec (.vfmax d a b m) s = .next t ∧ Retired s t ∧ t.hart.vec.fflags = s.hart.vec.fflags ∧ ∀ k ∈ s.hart.vec.active m [],
          getEl t.hart.vec.vrf (vnum d) w k = (if F.val (x k) = .nan ∨ F.val (y k) = .nan then F.nan else if floatRank w (x k) ≤ floatRank w (y k) then y k else x k)) ∧
        (∃ t, exec (.vfabs d a m) s = .next t ∧ Retired s t ∧ t.hart.vec.fflags = s.hart.vec.fflags ∧ ∀ k ∈ s.hart.vec.active m [],
          getEl t.hart.vec.vrf (vnum d) w k = (if F.val (x k) = .nan then F.nan else x k % 2 ^ (w - 1))) ∧
        (∃ t, exec (.vfneg d a m) s = .next t ∧ Retired s t ∧ t.hart.vec.fflags = s.hart.vec.fflags ∧ ∀ k ∈ s.hart.vec.active m [],
          getEl t.hart.vec.vrf (vnum d) w k = (if F.val (x k) = .nan then F.nan else (x k + 2 ^ (w - 1)) % 2 ^ w)) ∧
        (∃ t, exec (.vfclass d a m) s = .next t ∧ Retired s t ∧ t.hart.vec.fflags = s.hart.vec.fflags ∧ ∀ k ∈ s.hart.vec.active m [],
          getEl t.hart.vec.vrf (vnum d) w k = 2 ^ classBit F (x k)) ∧
        (∃ t, exec (.vfsqrt d a m) s = .next t ∧ Retired s t ∧ ∀ k ∈ s.hart.vec.active m [],
          (F.val (x k) = .nan → getEl t.hart.vec.vrf (vnum d) w k = F.nan) ∧ ((F.val (x k)).isZero = true → getEl t.hart.vec.vrf (vnum d) w k = x k) ∧
          (F.val (x k) = .inf false → getEl t.hart.vec.vrf (vnum d) w k = x k) ∧
          (floatOrder w (x k) < 0 → F.val (x k) ≠ .nan → getEl t.hart.vec.vrf (vnum d) w k = F.nan ∧ t.hart.vec.fflags.getLsbD 4 = true))) ∧
      (d.toNat < 16 → ∀ (i : Instr) (nv : Bool) (f : Int → Int → Bool),
        (i = .vfcmpeq d a b m ∧ nv = false ∧ f = (fun p q => decide (p = q))) ∨ (i = .vfcmplt d a b m ∧ nv = true ∧ f = (fun p q => decide (p < q))) ∨
          (i = .vfcmple d a b m ∧ nv = true ∧ f = (fun p q => decide (p ≤ q))) →
          ∃ t, exec i s = .next t ∧ Retired s t ∧ ∀ k ∈ s.hart.vec.active m [],
            (F.val (x k) = .nan ∨ F.val (y k) = .nan → t.hart.vec.mask d.toNat k = false ∧ (nv = true → t.hart.vec.fflags.getLsbD 4 = true)) ∧
            (F.val (x k) ≠ .nan → F.val (y k) ≠ .nan → t.hart.vec.mask d.toNat k = f (floatOrder w (x k)) (floatOrder w (y k)) ∧
              (s.hart.vec.active m [] = [k] → t.hart.vec.fflags = s.hart.vec.fflags)))

/-- 08 R183 to R185; 07 R147, R148, R151 to R153: VCVT converts by ConvertsTo, into a group where the destination is wider; VNARROW divides by its group's scale, rounds,
adds the zero point and holds the sum to the code's range; VDQ gives the exact product of the scale with the code less the zero point. (An integer that
overflows a float format of its own width is left out: log 77.) -/
def Obligations.VectorConversions : Prop :=
  ∀ (s : State) (d a : BitVec 7) (m : Bool) (w w' : Nat) (x : Nat → Nat) (out : State → Nat → Nat),
    s.agent = .hart → w = s.hart.vec.ew → isV s.hart d = true → isV s.hart a = true → (∀ r, s.hart.vec.isBound r = false) → s.noLaneFault = true →
    s.hart.vec.vl.toNat * w ≤ s.hart.vlmax * 8 → s.hart.vlmax ≤ 98304 → x = getEl s.hart.vec.vrf (vnum a) w →
    (w < w' → w' % w = 0 ∧ vnum d % (w' / w) = 0 ∧ vnum d + w' / w ≤ s.hart.vregs.toNat ∧ (vnum a < vnum d ∨ vnum d + w' / w ≤ vnum a) ∧
      s.hart.vlmax * 8 % w' = 0 ∧ 0 < s.hart.vlmax) →
    out = (fun t k => if w' ≤ w then getEl t.hart.vec.vrf (vnum d) w' k
      else getEl t.hart.vec.vrf (vnum d + k / (s.hart.vlmax * 8 / w')) w' (k % (s.hart.vlmax * 8 / w'))) →
      (∀ c : BitVec 5, s.hart.vec.cls ∈ [.float, .narrow, .sint, .uint] → fmtClass c.toNat ∈ [.float, .narrow, .sint, .uint] → w' = fmtEW c.toNat →
        ∃ t, exec (.vcvt d a c m) s = .next t ∧ Retired s t ∧ ∀ k ∈ s.hart.vec.active m [], ∃ r,
          ConvertsTo s.hart.vec.fmt c.toNat s.hart.vec.frm.toNat s.hart.vec.sat (x k) r ∧ out t k = r.val % 2 ^ w' ∧
          (r.ovm = true → s.hart.vec.ovm ≠ 0 → t.hart.vec.mask s.hart.vec.ovm k = true) ∧
          (s.hart.vec.active m [] = [k] → t.hart.vec.fflags = s.hart.vec.fflags ||| BitVec.ofNat 6 r.fl)) ∧
      (∀ (b : BitVec 7) (n q : Nat), b.toNat < 64 → n = (s.sreg b.toNat).toNat → n < 2 ^ 13 → n / 1024 % 4 = 0 → s.hart.vec.fmt ≤ 2 → s.hart.vec.blk ∈ [5, 6, 7] →
        n % 1024 + (s.hart.vec.vl.toNat - 1) / 2 ^ s.hart.vec.blk ≤ 1023 → w' = (if n / 4096 = 1 then 4 else 8) → q = 2 ^ w' - 1 →
          ∃ t, exec (.vnarrow d a b m) s = .next t ∧ Retired s t ∧ ∀ k ∈ s.hart.vec.active m [], ∀ entry g p h o,
            entry = (Store.get zeroOf s.hart.vec.scale (n % 1024 + k / 2 ^ s.hart.vec.blk)).toNat → (fmtFloat s.hart.vec.fmt).val (x k) = .fin g p →
            f16F.val (entry % 65536) = .fin h o → o.1 ≠ 0 → ∀ v : Int,
              v = toInteger s.hart.vec.frm.toNat (p.1 * o.2 * o.1.sign, p.2 * o.1.natAbs) + (entry / 65536 % 256 : Nat) →
              out t k = (max 0 (min v q)).toNat) ∧
      (∀ (b : BitVec 7) (n : Nat), b.toNat < 64 → n = (s.sreg b.toNat).toNat → n < 1024 → s.hart.vec.cls = .grouped → s.hart.vec.blk ∈ [5, 6, 7] →
        n + (s.hart.vec.vl.toNat - 1) / 2 ^ s.hart.vec.blk ≤ 1023 → w' = 32 →
          ∃ t, exec (.vdq d a b m) s = .next t ∧ Retired s t ∧ ∀ k ∈ s.hart.vec.active m [], ∀ entry h o,
            entry = (Store.get zeroOf s.hart.vec.scale (n + k / 2 ^ s.hart.vec.blk)).toNat → f16F.val (entry % 65536) = .fin h o →
            ∀ p, p = fracMul o (((x k : Nat) : Int) - (entry / 65536 % 256 : Nat), 1) → p.1 ≠ 0 → ∃ g y, f32F.val (out t k) = .fin g y ∧ fracEq y p = true)

/-- 10 R221: VCOMPRESS packs the elements that the mask selects into the lowest elements in ascending order; VEXPAND spreads the lowest elements over
them. The rest of the destination stays. -/
def Obligations.CompressAndExpand : Prop :=
  ∀ (s : State) (d a : BitVec 7), s.agent = .hart → isV s.hart d = true → isV s.hart a = true → s.hart.vec.vstart = 0 →
    s.hart.vec.isBound (vnum d) = false → s.hart.vec.isBound (vnum a) = false → s.noLaneFault = true → s.hart.vec.ew ≠ 0 →
    s.hart.vec.vl.toNat * s.hart.vec.ew ≤ 98304 * 8 →
      (∃ t, exec (.vcompress d a) s = .next t ∧ OnlyHart s t ∧ Retired s t ∧ SameRegs s t [] ∧
        (∀ k e, (s.hart.vec.active true [])[k]? = some e →
          getEl t.hart.vec.vrf (vnum d) s.hart.vec.ew k = getEl s.hart.vec.vrf (vnum a) s.hart.vec.ew e) ∧
        SameElements s.hart.vec t.hart.vec (vnum d) s.hart.vec.ew (List.range (s.hart.vec.active true []).length)) ∧
      (∃ t, exec (.vexpand d a) s = .next t ∧ OnlyHart s t ∧ Retired s t ∧ SameRegs s t [] ∧
        (∀ k e, (s.hart.vec.active true [])[k]? = some e →
          getEl t.hart.vec.vrf (vnum d) s.hart.vec.ew e = getEl s.hart.vec.vrf (vnum a) s.hart.vec.ew k) ∧
        SameElements s.hart.vec t.hart.vec (vnum d) s.hart.vec.ew (s.hart.vec.active true []))

/-- 10 R223, R224: a reduction over the leaves below vl writes element 0 of its destination, whatever the mask holds; its flags are sticky.
10 R224, Table 10.3: VREDSUM is the exact sum of the active elements, brought to the format once: modulo 2^w, or held to the range with SAT.
That only a wrong lane or an injected fault makes the two trees differ is the model's (log 20). -/
def Obligations.Reductions : Prop :=
  (∀ (i : Instr) (s : State) (ok : Vec → Bool) (f : Vec → List (Option Nat) → Res) (d a : BitVec 7) (m : Bool),
    s.agent = .hart → reductionOf i = some (ok, f, d, a, m) → ok s.hart.vec = true → isV s.hart d = true → isV s.hart a = true →
    s.hart.vec.vstart = 0 → s.hart.vec.isBound (vnum d) = false → s.hart.vec.isBound (vnum a) = false → s.noLaneFault = true →
      ∃ t, exec i s = .next t ∧ OnlyHart s t ∧ Retired s t ∧ SameRegs s t [] ∧
        getEl t.hart.vec.vrf (vnum d) s.hart.vec.ew 0 = (f s.hart.vec (leaves s.hart.vec m (vnum a))).val % 2 ^ s.hart.vec.ew ∧
        SameElements s.hart.vec t.hart.vec (vnum d) s.hart.vec.ew [0] ∧ OtherRegisters s.hart.vec t.hart.vec (vnum d) ∧
        t.hart.vec.fflags = s.hart.vec.fflags ||| BitVec.ofNat 6 (f s.hart.vec (leaves s.hart.vec m (vnum a))).fl ∧ t.hart.vec.vstart = 0)
  ∧ (∀ (s : State) (d a : BitVec 7) (m : Bool), s.agent = .hart → s.hart.vec.isInt = true → isV s.hart d = true → isV s.hart a = true → s.hart.vec.vstart = 0 →
    s.hart.vec.isBound (vnum d) = false → s.hart.vec.isBound (vnum a) = false → s.noLaneFault = true →
      ∃ t, exec (.vredsum d a m) s = .next t ∧
        getEl t.hart.vec.vrf (vnum d) s.hart.vec.ew 0 =
          let w := s.hart.vec.ew
          let x := ((s.hart.vec.active m []).map (fun e => readI w s.hart.vec.signed (getEl s.hart.vec.vrf (vnum a) w e))).sum
          if s.hart.vec.sat then (heldTo w s.hart.vec.signed x % ((2 ^ w : Nat) : Int)).toNat else (x % ((2 ^ w : Nat) : Int)).toNat)

/-- 10 R225, Table 10.4: the mask instructions write the bits from vstart up to vl and keep the others; MPOPC counts set bits and MFIRST finds the lowest,
all ones when there is none. -/
def Obligations.MaskInstructions : Prop :=
  ∀ (i : Instr) (s : State), s.agent = .hart →
    (∀ d f, maskOf i s.hart.vec s.sreg = some (d, true, f) → d.toNat < 16 →
      ∃ t, exec i s = .next t ∧ OnlyHart s t ∧ Retired s t ∧ SameRegs s t [] ∧ t.hart.vec.vstart = 0 ∧ t.hart.vec.vrf = s.hart.vec.vrf ∧
        (∀ e, s.hart.vec.vstart.toNat ≤ e → e < s.hart.vec.vl.toNat → t.hart.vec.mask d.toNat e = f e) ∧
        (∀ k e, k < 16 → e < 2 ^ 18 → (k ≠ d.toNat ∨ e < s.hart.vec.vstart.toNat ∨ s.hart.vec.vl.toNat ≤ e) → t.hart.vec.mask k e = s.hart.vec.mask k e)) ∧
    (∀ d a, d.toNat < 64 → a.toNat < 16 →
      exec (.mpopc d a) s = .next (({ s with hart := { s.hart with vec := { s.hart.vec with vstart := 0 } } } : State).setSreg d.toNat
        (BitVec.ofNat 64 ((List.range s.hart.vec.vl.toNat).countP (fun e => decide (s.hart.vec.vstart.toNat ≤ e) && s.hart.vec.mask a.toNat e)))).retire ∧
      exec (.mfirst d a) s = .next (({ s with hart := { s.hart with vec := { s.hart.vec with vstart := 0 } } } : State).setSreg d.toNat
        (((List.range s.hart.vec.vl.toNat).find? (fun e => decide (s.hart.vec.vstart.toNat ≤ e) && s.hart.vec.mask a.toNat e)).elim (BitVec.allOnes 64)
          (BitVec.ofNat 64))).retire)

/-- 10 R226, R227, R229: VCHAIN jumps over its n recorded words; VCHRUN runs the recorded words one after another under the captured configuration, and
then every register that S[rb] names holds in every byte what it held. Where the fetch of the chain fails its trap is taken at the word (06 R130). -/
def Obligations.Chains : Prop :=
  ∀ (s : State), s.agent = .hart →
    (∀ n : BitVec 4, exec (.vchain n) s = .next (s.jumpTo (s.front.pc + 4 + BitVec.ofNat 64 (4 * (n.toNat + 1))))) ∧
    (∀ (a b : BitVec 7) (w : Nat) (l : List EInstr) (u v : State), a.toNat < 64 → b.toNat < 64 → (s.sreg a.toNat).toNat % 4 = 0 →
      xFetch (s.sreg a.toNat).toNat s = .ok (w, u) → nbits w 25 7 = 0x36 → nbits w 22 3 = 0 → nbits w 0 18 = 0 →
      xChainWords ((s.sreg a.toNat).toNat + 4) (nbits w 18 4 + 1) u = .ok (l, v) → v.noLaneFault = true →
        ∃ t, exec (.vchrun a b) s = .next t ∧
          t = (({ v with hart := { v.hart with vec := v.hart.vec.checked (nbits w 18 4 + 1) } } : State).modVec
            (runChain v.hart.vlmax v.hart.vregs.toNat (s.sreg b.toNat) l)).retire ∧
          ∀ j, j < v.hart.vregs.toNat → (s.sreg b.toNat).getLsbD j = true → ∀ k, k < 98304 →
            Store.get zeroOf t.hart.vec.vrf (j * 98304 + k) = Store.get zeroOf v.hart.vec.vrf (j * 98304 + k)) ∧
    (∀ (a b : BitVec 7) (c : Cause) (va : Word) (vec : Bool) (t : State), a.toNat < 64 → b.toNat < 64 → (s.sreg a.toNat).toNat % 4 = 0 →
      xFetch (s.sreg a.toNat).toNat s = .error (.trap c va vec t) → exec (.vchrun a b) s = .next (fetchTrap t c va))

/-- 09 R189, R191, R208: QSET and QSETX set a stream that is not bound, QBIND binds a set stream to a register that is not bound, QUNBIND takes the binding
away. -/
def Obligations.StreamSettings : Prop :=
  ∀ (s : State) (q a b : BitVec 7) (j : BitVec 7) (k : Bool), s.agent = .hart →
    (q.toNat < 16 → a.toNat < 64 → (s.hart.vec.stream q.toNat).bound = false → (s.hart.vec.ew ≠ 4 ∨ j = 0) →
      exec (.qset q a j) s = .next (s.modVec (fun v => v.setStream q.toNat
        { base := s.sreg a.toNat, pos := 0, stride := j.signExtend 32, count := 0, etype := BitVec.ofNat 8 v.fmt, valid := true, bound := false,
          keep := false, breg := 0 })).retire) ∧
    (q.toNat < 16 → a.toNat < 64 → b.toNat < 64 → (s.hart.vec.stream q.toNat).bound = false →
      (s.hart.vec.ew ≠ 4 ∨ (s.sreg b.toNat).extractLsb' 32 32 = 0) →
      exec (.qsetx q a b) s = .next (s.modVec (fun v => v.setStream q.toNat
        { base := s.sreg a.toNat, pos := 0, stride := (s.sreg b.toNat).extractLsb' 32 32, count := (s.sreg b.toNat).setWidth 32, etype := BitVec.ofNat 8 v.fmt,
          valid := true, bound := false, keep := false, breg := 0 })).retire) ∧
    (isV s.hart a = true → streamOk s.hart.vec q = true → s.hart.vec.isBound (vnum a) = false →
      exec (.qbind a q k) s = .next (s.modVec (fun v => v.setStream q.toNat
        { v.stream q.toNat with bound := true, breg := BitVec.ofNat 6 (vnum a), keep := k })).retire) ∧
    (isV s.hart a = true → s.hart.vec.isBound (vnum a) = false → exec (.qunbind a) s = .next s.retire) ∧
    (∀ n, isV s.hart a = true → s.hart.vec.boundTo (vnum a) = some n →
      exec (.qunbind a) s = .next (s.modVec (fun v => v.setStream n { v.stream n with bound := false, keep := false, breg := 0 })).retire)

/-- 09 R193 to R195, R198, R199: a vector load whose active elements meet nothing in their way takes each from its address into its register; a unit walk moves
the stream on by vl; every other element, register and byte of memory stays. -/
def Obligations.VectorLoads : Prop :=
  ∀ (i : Instr) (s : State) (d q : BitVec 7) (m ok : Bool) (k : Walkway),
    s.agent = .hart → vloadOf i s = some (d, q, m, k, ok) → ok = true → isV s.hart d = true → streamOk s.hart.vec q = true → walkOk s.hart k = true →
    s.hart.vec.isBound (vnum d) = false → injKind s.hart.inj.tinject ≠ 4 → s.hart.vec.vl.toNat * s.hart.vec.ew ≤ 98304 * 8 → s.counted = [] →
    (∀ e ∈ s.hart.vec.active m [s.hart.vec.stream q.toNat],
      s.localLoad (walkAddr s.hart.vec (s.hart.vec.stream q.toNat) k e) (elBytes s.hart.vec.ew) = true ∧
      walkAddr s.hart.vec (s.hart.vec.stream q.toNat) k e % elBytes s.hart.vec.ew = 0) →
      ∃ t, exec i s = .next t ∧ OnlyHart s t ∧ Retired s t ∧ SameRegs s t [] ∧
        (∀ e ∈ s.hart.vec.active m [s.hart.vec.stream q.toNat], ∀ pa l,
          s.pageOf (walkAddr s.hart.vec (s.hart.vec.stream q.toNat) k e) = some (pa, l) →
          getEl t.hart.vec.vrf (vnum d) s.hart.vec.ew e = (s.hart.vec.stream q.toNat).pick s.hart.vec.ew e (memBytes s pa (elBytes s.hart.vec.ew))) ∧
        SameElements s.hart.vec t.hart.vec (vnum d) s.hart.vec.ew (s.hart.vec.active m [s.hart.vec.stream q.toNat]) ∧
        OtherRegisters s.hart.vec t.hart.vec (vnum d) ∧ t.hart.vec.vstart = 0 ∧
        (k.isUnit = true → t.hart.vec.stream q.toNat = (s.hart.vec.stream q.toNat).advance s.hart.vec.vl.toNat s.free) ∧
        (k.isUnit = false → t.hart.vec.stream q.toNat = s.hart.vec.stream q.toNat)

/-- 09 R192, R193, R201 to R207: a vector store of a register that is not bound whose active elements pass their checks and whose writes go through retires: it
writes the elements in ascending order, packed ones by nibbles, clears the poison of each sector that it has written whole (18 R395), then, for VSTN, the new position to its progress word; a unit walk moves the stream on; vstart
is 0. 19 R402, R403: all its writes carry one tag, so that a RIN that data received among them would raise is raised before the first. That VSTN writes the last
value of its sequence alone, where R206 lets the device write others, is the model's choice (log 75).
09 R201, R202: a vector store of one run of bytes within a sector that meets nothing in its way puts the elements' bytes there and leaves every other byte
of memory, every register and the rest of the hart's vector side as they were.
What a store that traps at an element leaves of its bound reads is the model's choice (log 65). -/
def Obligations.VectorStores : Prop :=
  (∀ (i : Instr) (s u₀ s₁ u : State) (d q : BitVec 7) (m ok : Bool) (k : Walkway) (rc : Option Nat) (prog : Option Word) (act : List Nat)
    (runs : List (Nat × List Byte)) (nibbles : List (Nat × Option Byte × Option Byte)),
    s.agent = .hart → vstoreOf i s = some (d, q, m, k, ok, rc, prog) → ok = true → isV s.hart d = true → streamOk s.hart.vec q = true →
    walkOk s.hart k = true → s.hart.vec.isBound (vnum d) = false → act = s.hart.vec.active m [s.hart.vec.stream q.toNat] →
    (∀ p, prog = some p → elemCheck s p.toNat 8 true = none) →
    (∀ e ∈ act, elemCheck s (walkAddr s.hart.vec (s.hart.vec.stream q.toNat) k e) (elBytes s.hart.vec.ew) true = none) →
    nibbles = packedWrites (act.map (fun e => (walkAddr s.hart.vec (s.hart.vec.stream q.toNat) k e,
      decide (((s.hart.vec.stream q.toNat).pos.toNat + e) % 2 = 1), BitVec.ofNat 8 (getEl s.hart.vec.vrf (vnum d) 4 e)))) [] →
    runs = storeRuns (decide (s.hart.det ≠ 0)) (act.map (fun e => (walkAddr s.hart.vec (s.hart.vec.stream q.toNat) k e,
      natBytes (getEl s.hart.vec.vrf (vnum d) s.hart.vec.ew e) (s.hart.vec.ew / 8)))) →
    ElementsStored rc nibbles runs s u₀ → ElementsStored rc nibbles runs s₁ u →
      (prog = none → s₁ = takeTag s.die s (rinOf u₀ s.die) → exec i s = .next (endWalk u.loadDone q.toNat k).retire) ∧
      (∀ p y₀ y, prog = some p → ProgressStored q.toNat k p u₀ y₀ → s₁ = takeTag s.die s (rinOf y₀ s.die) → ProgressStored q.toNat k p u y →
        exec i s = .next y.retire))
  ∧ (∀ (i : Instr) (s : State) (d q : BitVec 7) (m ok : Bool) (k : Walkway) (va pa : Nat) (bs : List Byte),
    s.agent = .hart → vstoreOf i s = some (d, q, m, k, ok, none, none) → ok = true → isV s.hart d = true → streamOk s.hart.vec q = true →
    walkOk s.hart k = true → s.hart.vec.isBound (vnum d) = false → s.hart.vec.ew ≠ 4 → bs.length < 64 →
    (∀ e ∈ s.hart.vec.active m [s.hart.vec.stream q.toNat], elemCheck s (walkAddr s.hart.vec (s.hart.vec.stream q.toNat) k e) (elBytes s.hart.vec.ew) true = none) →
    joinRuns ((s.hart.vec.active m [s.hart.vec.stream q.toNat]).map (fun e => (walkAddr s.hart.vec (s.hart.vec.stream q.toNat) k e,
      natBytes (getEl s.hart.vec.vrf (vnum d) s.hart.vec.ew e) (s.hart.vec.ew / 8)))) = [(va, bs)] →
    s.plainStore va bs.length pa = true →
      ∃ t, exec i s = .next t ∧ memBytes t pa bs.length = bs ∧ SameBytesOutside s t pa bs.length ∧ Retired s t ∧ SameRegs s t [] ∧
        t.hart.vec.vrf = s.hart.vec.vrf ∧ t.hart.vec.masks = s.hart.vec.masks ∧ t.hart.vec.vtype = s.hart.vec.vtype ∧ t.hart.vec.vl = s.hart.vec.vl ∧
        t.hart.mat = s.hart.mat ∧ t.hart.dist = s.hart.dist ∧ t.hart.trap = s.hart.trap ∧ SameOthers s t)

/-- 09 R210 to R212, Table 9.3: VSPILL writes the frame of a register, field by field as the table has it, and sets vstart to 0; VFILL of a good frame gives the register the frame's data bytes. 09 R213: KLD
loads c + 1 entries of the scale file.
The elements that VFILL may leave are each a free choice (log 12). -/
def Obligations.SpillFillAndScales : Prop :=
  ∀ (s u : State), s.agent = .hart → s.noTransfers = true → injKind s.hart.inj.tinject ≠ 4 →
    (∀ (d a : BitVec 7) (n : Nat), isV s.hart d = true → a.toNat < 64 → s.hart.vec.isBound (vnum d) = false → (s.sreg a.toNat).toNat % 64 = 0 →
      n = (s.hart.vec.vl.toNat * s.hart.vec.ew + 7) / 8 →
        ∃ f : List Byte, f.length = 64 + (n + 63) / 64 * 64 ∧
          fieldAt f 0x00 4 = 0x4C495053 ∧ fieldAt f 0x04 2 = 0x0100 ∧ fieldAt f 0x06 1 = s.hart.vec.vtype.toNat % 32 ∧ fieldAt f 0x07 1 = vnum d ∧
          fieldAt f 0x08 4 = s.hart.vec.vl.toNat ∧ fieldAt f 0x0C 4 = n ∧ fieldAt f 0x10 8 = s.hart.vec.vshape.toNat ∧
          (∀ k, 24 ≤ k → k < 64 → f[k]? = some 0) ∧ (∀ k, k < n → f[64 + k]? = some (Store.get zeroOf s.hart.vec.vrf (vnum d * 98304 + k))) ∧
          (∀ k, 64 + n ≤ k → k < f.length → f[k]? = some 0) ∧
          (∀ u₀, xFrameCheck (s.sreg a.toNat).toNat f.length true s = .ok ((), s) → xWriteRuns none [((s.sreg a.toNat).toNat, f)] s = .ok ((), u₀) →
            xWriteRuns none [((s.sreg a.toNat).toNat, f)] (takeTag s.die s (rinOf u₀ s.die)) = .ok ((), u) →
              exec (.vspill d a) s = .next (u.setVstart 0).retire)) ∧
    (∀ (d a : BitVec 7) (hd bs : List Byte) (v : State), isV s.hart d = true → a.toNat < 64 → s.hart.vec.isBound (vnum d) = false →
      s.counted = [] → (s.sreg a.toNat).toNat % 64 = 0 → xFrameCheck (s.sreg a.toNat).toNat 64 false s = .ok ((), s) →
      xReadBytes (s.sreg a.toNat).toNat 64 s = .ok (hd, u) → u.noTransfers = true → u.hart = s.hart →
      fieldAt hd 0 4 = 0x4C495053 → fieldAt hd 4 2 = 0x0100 → fmtEW (fieldAt hd 6 1) ∈ [8, 16, 32, 64] →
      fieldAt hd 12 4 = spillBytes (fieldAt hd 8 4) (fmtEW (fieldAt hd 6 1)) → 0 < fieldAt hd 12 4 → fieldAt hd 12 4 ≤ s.hart.vlmax →
      xFrameCheck ((s.sreg a.toNat).toNat + 64) (roundUp (fieldAt hd 12 4) 64) false u = .ok ((), u) →
      xReadBytes ((s.sreg a.toNat).toNat + 64) (fieldAt hd 12 4) u = .ok (bs, v) → v.agent = .hart → bs.length = fieldAt hd 12 4 →
        ∃ t, exec (.vfill d a) s = .next t ∧ Retired v t ∧ Store.read zeroOf t.hart.vec.vrf (vnum d * 98304) bs.length = bs ∧ t.hart.vec.vstart = 0) ∧
    (∀ (n : BitVec 10) (a : BitVec 6) (c j : BitVec 4) (bs : List Byte), n.toNat + (c.toNat + 1) ≤ 1024 →
      (s.sreg a.toNat + BitVec.ofNat 64 (4 * j.toNat)).toNat % 4 = 0 →
      xFrameCheck (s.sreg a.toNat + BitVec.ofNat 64 (4 * j.toNat)).toNat (4 * (c.toNat + 1)) false s = .ok ((), s) →
      xReadBytes (s.sreg a.toNat + BitVec.ofNat 64 (4 * j.toNat)).toNat (4 * (c.toNat + 1)) s = .ok (bs, u) → u.agent = .hart →
        ∃ t, exec (.kld n a c j) s = .next t ∧ Retired u t ∧ (∀ x, x ≤ c.toNat →
            Store.get zeroOf t.hart.vec.scale (n.toNat + x) = BitVec.ofNat 32 (fieldAt bs (4 * x) 4 % 2 ^ 24)) ∧
          (∀ x, x < n.toNat ∨ n.toNat + c.toNat < x → Store.get zeroOf t.hart.vec.scale x = Store.get zeroOf u.hart.vec.scale x))

/-- 13 R274 to R280: TCFG takes tshape, tfmt and tgrp from S[rd] together when all of them are legal, TZERO clears a tile and its VER bit whatever tshape
holds, TSTAT reads tstat and with its clear bit clears RERUN.
13 R297 to R299: TMOVV copies the cells of n rows of W columns to a vector register, TMOVT the register's elements to the cells, and TEPI writes scaled,
biased, activated and converted cells; nothing else of the registers or the tile changes. A parity error in a cell that TMOVV reads is escalated, and it does not commit (R296). An activation code of 3 is no instruction (13 R299, 05 R110). -/
def Obligations.MatrixConfigurationAndMoves : Prop :=
  (∀ (s : State) (d : BitVec 7), s.agent = .hart →
    (∀ v, d.toNat < 64 → (s.sreg d.toNat).toNat = v → v < 2 ^ 32 → tshapeOk (v % 256 + v / 2 ^ 8 % 512 * 2 ^ 16) = true →
      tfmtOk (v / 2 ^ 17 % 32 + v / 2 ^ 22 % 32 * 2 ^ 8 + v / 2 ^ 27 % 2 * 2 ^ 16) = true → tgrpOk (v / 2 ^ 28 % 8 + v / 2 ^ 31 % 2 * 2 ^ 8) = true →
        exec (.tcfg d) s = .next (s.modMat (fun m => { m with
          tshape := BitVec.ofNat 64 (v % 256 + v / 2 ^ 8 % 512 * 2 ^ 16),
          tfmt := BitVec.ofNat 64 (v / 2 ^ 17 % 32 + v / 2 ^ 22 % 32 * 2 ^ 8 + v / 2 ^ 27 % 2 * 2 ^ 16),
          tgrp := BitVec.ofNat 64 (v / 2 ^ 28 % 8 + v / 2 ^ 31 % 2 * 2 ^ 8) })).retire) ∧
    (d.toNat < 2 * s.hart.parts.toNat → d.toNat < 16 →
      ∃ t, exec (.tzero d) s = .next t ∧ OnlyHart s t ∧ Retired s t ∧ SameRegs s t [] ∧ t.hart.vec = s.hart.vec ∧
        (∀ u i j, i < 128 → j < 256 → t.cell u i j = if u = d.toNat then 0 else s.cell u i j) ∧
        t.hart.mat = { s.hart.mat with tiles := t.hart.mat.tiles, tstat := s.hart.mat.tstat &&& ~~~(1#64 <<< d.toNat), bad := t.hart.mat.bad }) ∧
    (∀ c : Bool, d.toNat < 64 → exec (.tstat d c) s =
      .next ((if c then s.modMat (fun m => { m with tstat := m.tstat &&& 0xFFFF }) else s).setSreg d.toNat s.hart.mat.tstat).retire))
  ∧ (∀ (s : State) (t : BitVec 4) (d b : BitVec 7) (x : Nat),
    s.agent = .hart → t.toNat < 2 * s.hart.parts.toNat → isV s.hart d = true → s.hart.vec.isBound (vnum d) = false → b.toNat < 64 →
    (s.sreg b.toNat).toNat = x → x / 256 % 256 ≠ 0 → x % 256 + x / 256 % 256 ≤ s.hart.mat.rows → s.hart.mat.rows ≤ 128 → 0 < s.hart.mat.cols →
    s.hart.mat.cols ≤ 256 → s.hart.vlmax ≤ 98304 → injKind s.hart.inj.tinject = 0 →
      (x < 2 ^ 16 → 4 * (x / 256 % 256 * s.hart.mat.cols) ≤ s.hart.vlmax → ∀ r j, r < x / 256 % 256 → j < s.hart.mat.cols →
        Store.get zeroOf s.hart.mat.bad (tileKey t.toNat (x % 256 + r) j) = 1 →
          exec (.tmovv t d b) s = .next (escalate s s.die 5 s.hart.lcore.toNat 0)) ∧
      (x < 2 ^ 16 → 4 * (x / 256 % 256 * s.hart.mat.cols) ≤ s.hart.vlmax → s.hart.mat.bad = [] →
        (∃ y, exec (.tmovv t d b) s = .next y ∧ OnlyHart s y ∧ Retired s y ∧ SameRegs s y [] ∧ y.hart.mat = s.hart.mat ∧
          (∀ r j, r < x / 256 % 256 → j < s.hart.mat.cols →
            getEl y.hart.vec.vrf (vnum d) 32 (r * s.hart.mat.cols + j) = (s.cell t.toNat (x % 256 + r) j).toNat) ∧
          SameElements s.hart.vec y.hart.vec (vnum d) 32 (List.range (x / 256 % 256 * s.hart.mat.cols)) ∧
          OtherRegisters s.hart.vec y.hart.vec (vnum d)) ∧
        (∃ y, exec (.tmovt t d b) s = .next y ∧ OnlyHart s y ∧ Retired s y ∧ SameRegs s y [] ∧ y.hart.vec = s.hart.vec ∧
          (∀ r j, r < x / 256 % 256 → j < s.hart.mat.cols →
            (y.cell t.toNat (x % 256 + r) j).toNat = getEl s.hart.vec.vrf (vnum d) 32 (r * s.hart.mat.cols + j)) ∧
          (∀ u i j, i < 128 → j < 256 → (u ≠ t.toNat ∨ i < x % 256 ∨ x % 256 + x / 256 % 256 ≤ i ∨ s.hart.mat.cols ≤ j) → y.cell u i j = s.cell u i j))) ∧
      (∀ (cb : Bool) (o u : BitVec 2), u ≠ 3 → s.hart.lane = 0 → s.hart.mat.bad = [] → b.toNat % 2 = 0 → x / 2 ^ 16 % 2 ^ 16 = 0 → (s.sreg (b.toNat + 1)).toNat < 2 ^ 32 →
        max (x / 256 % 256 * s.hart.mat.cols * (epiOut o.toNat).width / 8) (if cb then 4 * s.hart.mat.cols else 0) ≤ s.hart.vlmax →
          ∃ y, exec (.tepi t d b cb o u) s = .next y ∧ OnlyHart s y ∧ Retired s y ∧ SameRegs s y [] ∧ y.hart.mat = s.hart.mat ∧
            (∀ r j, r < x / 256 % 256 → j < s.hart.mat.cols →
              getEl y.hart.vec.vrf (vnum d) (epiOut o.toNat).width (r * s.hart.mat.cols + j) =
                (epiEl (epiOut o.toNat) u.toNat s.hart.mat.iacc (x / 2 ^ 32) (s.cell t.toNat (x % 256 + r) j).toNat
                  (if cb then getEl s.hart.vec.vrf (vnum d) 32 j else (s.sreg (b.toNat + 1)).toNat)).val % 2 ^ (epiOut o.toNat).width) ∧
            OtherRegisters s.hart.vec y.hart.vec (vnum d)) ∧
      (∀ (cb : Bool) (o : BitVec 2), exec (.tepi t d b cb o 3) s = .next (takeTrap s .illegalInstr ((encode (.tepi t d b cb o 3)).setWidth 64))))

/-- 13 R281 to R296: an outer product whose checks pass, whose scratchpad chunks are not poisoned, at which no checksum fault is armed and whose cells have no
parity error commits its staged cells together and retires; operands that fail raise ILLEGAL_OPERAND with tval 0.
The bounds reckoned from H and W (log 34) and poison of the scratchpad (log 36) are the model's readings. -/
def Obligations.OuterProductsCommit : Prop :=
  ∀ (i : Instr) (s : State) (want : Option TForm) (side : Option Bool) (t : BitVec 4) (a b : BitVec 7) (c r : BitVec 3),
    s.agent = .hart → outerOf i = some (want, side, t, a, b, c, r) →
      (∀ o, xOuterCheck want side t a b c r s = .ok (o, s) → s.noTransfers = true → s.cleanChunks o → injKind s.hart.inj.tinject ≠ 1 →
        s.hart.mat.bad = [] →
        exec i s = .next (outerCommit s o).retire) ∧
      (2 * s.hart.parts.toNat ≤ t.toNat ∨ s.hart.mat.rows = 0 ∨ s.hart.mat.cols = 0 ∨ s.hart.mat.form = none ∨ (∃ f, want = some f ∧ s.hart.mat.form ≠ some f) →
        exec i s = .next (takeTrap s .illegalOperand 0))

/-- 13 R286 to R293: what an outer product of registers commits. Each cell of an active row and an active column takes the step of its form on its old value
and the elements of its row and column; every other cell stays; the tile's VER bit is set; only TOPQ changes the bank; fflags are sticky. A TOPI cell is
C + A B held to 32 bits.
The exact zero of D is the model's reading (log 35). -/
def Obligations.OuterProductCells : Prop :=
  ∀ (s : State) (o : TOp) (na nb : Nat), o.a = .vreg na → o.b = .vreg nb → s.hart.mat.rows ≤ 128 → s.hart.mat.cols ≤ 256 → s.hart.vlmax ≤ 98304 →
    (128 * (o.steps - 1) + s.hart.mat.rows) * fmtEW s.hart.mat.afmt ≤ s.hart.vlmax * 8 →
    (256 * (o.steps - 1) + s.hart.mat.cols) * fmtEW s.hart.mat.bfmt ≤ s.hart.vlmax * 8 → fmtEW s.hart.mat.afmt ∈ [4, 8, 16] →
    fmtEW s.hart.mat.bfmt ∈ [4, 8, 16] →
      (∀ i j, i ∈ activeBelow s.hart.vec s.hart.mat.rows o.rmk → j ∈ activeBelow s.hart.vec s.hart.mat.cols o.cmk →
        (outerCommit s o).cell o.t i j = BitVec.ofNat 32 (cellStep s o.form j (s.cell o.t i j).toNat
          ((List.range o.steps).map (fun k => getEl s.hart.vec.vrf na (fmtEW s.hart.mat.afmt) (128 * k + i)))
          ((List.range o.steps).map (fun k => getEl s.hart.vec.vrf nb (fmtEW s.hart.mat.bfmt) (256 * k + j)))).val) ∧
      (∀ u i j, i < 128 → j < 256 →
        (u ≠ o.t ∨ i ∉ activeBelow s.hart.vec s.hart.mat.rows o.rmk ∨ j ∉ activeBelow s.hart.vec s.hart.mat.cols o.cmk) →
          (outerCommit s o).cell u i j = s.cell u i j) ∧
      (o.form = .topi → s.hart.mat.afmt = 9 → s.hart.mat.bfmt = 9 → o.steps = 1 → ∀ i j, i ∈ activeBelow s.hart.vec s.hart.mat.rows o.rmk →
        j ∈ activeBelow s.hart.vec s.hart.mat.cols o.cmk →
          ((outerCommit s o).cell o.t i j).toInt = heldTo 32 true ((s.cell o.t i j).toInt
            + (BitVec.ofNat 8 (getEl s.hart.vec.vrf na 8 i)).toInt * (BitVec.ofNat 8 (getEl s.hart.vec.vrf nb 8 j)).toInt)) ∧
      (outerCommit s o).hart.mat.tstat = s.hart.mat.tstat ||| BitVec.ofNat 64 (2 ^ o.t) ∧
      (outerCommit s o).hart.mat.tgrp = (if o.form = .topq then s.hart.mat.tgrp ^^^ 0x100 else s.hart.mat.tgrp) ∧
      (outerCommit s o).hart.vec = { s.hart.vec with fflags := (outerCommit s o).hart.vec.fflags } ∧
      s.hart.vec.fflags &&& (outerCommit s o).hart.vec.fflags = s.hart.vec.fflags ∧ OnlyHart s (outerCommit s o) ∧ SameRegs s (outerCommit s o) []

/-- 14 R308 to R329: the distribution instructions from registers write the new points of each active element, the flags of all of them, the tag, and vstart 0,
and retire; DMOM, DQNT and DCDF write one vector element for each; DTAG copies every element and sets the tag.
14 R326; 09 R193, R202: DLD loads 64 bytes for each active element, makes an element whose weights do not total 2^24 the NaN distribution, sets the tag and
moves the stream on; DST whose elements pass their checks stores their points and moves the stream on. 19 R402, R403: a RIN that data received among the
stores would raise is raised before the first of them.
That a DLD which traps at an element sets the NV of invalid ones below it is the model's choice (log 67). -/
def Obligations.Distributions : Prop :=
  (∀ (i : Instr) (s : State), s.agent = .hart →
    (∀ n d tag f, distOf i s = some (true, n, d, tag, f) → s.hart.vec.vl.toNat ≤ s.hart.dlmax → s.noLaneFault = true →
      exec i s = .next (distEnd ({ s with hart := { s.hart with vec := s.hart.vec.checked n } } : State) d.toNat tag
        ((s.hart.vec.active false []).map (fun e => (e, f e)))).retire) ∧
    (∀ d a f, distReadOf i s = some (true, d, a, f) → isV s.hart d = true → s.hart.vec.isBound (vnum d) = false → s.hart.vec.fmt = 0 → a.toNat < 16 →
      s.hart.vec.vl.toNat ≤ s.hart.dlmax → s.noLaneFault = true →
        exec i s = .next (((({ s with hart := { s.hart with vec := s.hart.vec.checked 1 } } : State).putVrf (vnum d) 32
          ((s.hart.vec.active false []).map (fun e => (e, (f (s.hart.dist.points a.toNat e)).val)))).modVec
          (fun v => { v with fflags := v.fflags ||| BitVec.ofNat 6 (((s.hart.vec.active false []).map (fun e => (e, f (s.hart.dist.points a.toNat e)))).foldl
            (fun acc p => acc ||| p.2.fl) 0), vstart := 0 })).retire)) ∧
    (∀ d a b : BitVec 7, d.toNat < 16 → a.toNat < 16 → b.toNat < 64 → (s.sreg b.toNat).toNat < 2 ^ 16 →
      ∃ t, exec (.dtag d a b) s = .next t ∧ OnlyHart s t ∧ Retired s t ∧ SameRegs s t [] ∧ t.hart.vec = { s.hart.vec with vstart := 0 } ∧
        (∀ e, e < 256 → t.hart.dist.points d.toNat e = s.hart.dist.points a.toNat e) ∧
        (∀ u e, u ≠ d.toNat → e < 256 → t.hart.dist.points u e = s.hart.dist.points u e) ∧ t.hart.dist.tag d.toNat = (s.sreg b.toNat).setWidth 16 ∧
        (∀ u, u ≠ d.toNat → t.hart.dist.tag u = s.hart.dist.tag u)) ∧
    (∀ ok n d tag f, distOf i s = some (ok, n, d, tag, f) → (ok = false ∨ s.hart.dlmax < s.hart.vec.vl.toNat) →
      exec i s = .next (takeTrap s .illegalOperand 0)))
  ∧ (∀ (s : State) (d a : BitVec 7) (c : BitVec 5), s.agent = .hart → d.toNat < 16 → distStream s.hart.vec a = true → s.hart.vec.vl.toNat ≤ s.hart.dlmax →
    (c.toNat ≤ 16 → s.counted = [] → injKind s.hart.inj.tinject ≠ 4 →
      (∀ e ∈ s.hart.vec.active false [s.hart.vec.stream a.toNat],
        s.localLoad (distAddr (s.hart.vec.stream a.toNat) e) 64 = true) →
        ∃ t, exec (.dld d a c) s = .next t ∧ OnlyHart s t ∧ Retired s t ∧ SameRegs s t [] ∧
          (∀ e ∈ s.hart.vec.active false [s.hart.vec.stream a.toNat], ∀ pa l, s.pageOf (distAddr (s.hart.vec.stream a.toNat) e) = some (pa, l) →
            t.hart.dist.points d.toNat e = (validPoints (pointsOf (memNat s pa 64))).1) ∧
          (∀ u e, e < 256 → (u ≠ d.toNat ∨ e ∉ s.hart.vec.active false [s.hart.vec.stream a.toNat]) → t.hart.dist.points u e = s.hart.dist.points u e) ∧
          t.hart.dist.tag d.toNat = tagCode c.toNat ∧ t.hart.vec.vstart = 0 ∧
          t.hart.vec.stream a.toNat = (s.hart.vec.stream a.toNat).advance s.hart.vec.vl.toNat s.free) ∧
    (∀ u₀ u runs, (∀ e ∈ s.hart.vec.active false [s.hart.vec.stream a.toNat], elemCheck s (distAddr (s.hart.vec.stream a.toNat) e) 64 true = none) →
      runs = storeRuns (decide (s.hart.det ≠ 0)) ((s.hart.vec.active false [s.hart.vec.stream a.toNat]).map (fun e => (distAddr (s.hart.vec.stream a.toNat) e,
        natBytes (pointsNat (s.hart.dist.points d.toNat e)) 64))) →
      xWriteRuns none runs s = .ok ((), u₀) → xWriteRuns none runs (takeTag s.die s (rinOf u₀ s.die)) = .ok ((), u) →
        exec (.dst d a) s = .next ((advanceStream u a.toNat).setVstart 0).retire))

/-- 14 R313, R314, R319: pairing and mixing keep the mass: from points whose weights total 2^24 the pairs total 2^24 again. -/
def Obligations.PairingKeepsMass : Prop :=
  ∀ (fn k : Nat) (a b : Points), massOf a = 2 ^ 24 → massOf b = 2 ^ 24 → a.length = 8 → b.length = 8 → k ≤ 2 ^ 24 →
    pairMass (pairIndep fn a b) = 2 ^ 24 ∧ pairMass (pairRank fn a b) = 2 ^ 24 ∧ pairMass (mixPairs k a b) = 2 ^ 24

/-- 15 R332 to R340: XCOPY, XGATH and XCOLL whose operands, block and extents pass and whose engine has room hand their transfer over and retire: it joins the
table with its extents, the hart's identity and no byte counted, its first event is due, and a collective counts its group and key; a block outside its limits raises ENGINE_FAULT with the block's address.
15 R332, R338, R339, R352: a counting step of the command that its engine serves, if its accesses admit it, is performed and counted; a transfer whose
bytes are all counted retires: it leaves the table, and its events with it. A collective all of whose other members' commands have arrived runs where they
agree and ends with bit 63 where they do not; one whose wait has run out ends with bit 62.
The model's: that an event is due, and its place in State.pending (log 6); whose turn an engine's command has (log 7); corners of XCOLL (log 39); a
host page in an extent of XCOLL (log 64). -/
def Obligations.EngineCommandsAndEvents : Prop :=
  (∀ (i : Instr) (s : State) (k : EngineKind) (a b : BitVec 7) (f : List Byte → Option (List Extent × Nat)) (pa : Nat),
    s.agent = .hart → commandOf i s = some (k, a, b, f) → a.toNat < 64 → b.toNat < 64 → s.barrierOpen (s.sreg b.toNat) = true →
    (k = .coll → barSpad (s.sreg b.toNat) = false ∧ checkAccess s s.hart.node (s.sreg a.toNat).toNat 64 true true false = none) →
    (s.sreg a.toNat).toNat % 64 = 0 → s.plainLoad (s.sreg a.toNat).toNat 64 pa = true →
      (∀ es n, f (memBytes s pa 64) = some (es, n) → xExtents (decide (k = .coll)) es s = .ok ((), s) → es.length ≤ 64 →
        engineFull s (newTransfer s k (memBytes s pa 64) (s.sreg a.toNat) (s.sreg b.toNat) es n) = false →
        ∃ t, exec i s = .next t ∧ Retired s t ∧ SameRegs s t [] ∧ SameBytes s t ∧ t.nextXfer = s.nextXfer + 1 ∧
          t.transfers = s.transfers ++ [newTransfer s k (memBytes s pa 64) (s.sreg a.toNat) (s.sreg b.toNat) es n] ∧
          (k = .coll → ∀ g c, g = BitVec.ofNat 64 (collGroup (memBytes s pa 64)) → c = BitVec.ofNat 64 (collKey (memBytes s pa 64)) →
            collCount t (chipNum s) g c = collCount s (chipNum s) g c + 1) ∧
          firstEvent k s.nextXfer ∈ t.pending ∧ t.hart.vec = s.hart.vec ∧ t.hart.mat = s.hart.mat ∧ t.hart.trap = s.hart.trap) ∧
      (f (memBytes s pa 64) = none →
        ∃ t, exec i s = .next t ∧ (s.hart.trap.tstatus.getLsbD 0 = false → s.hart.trap.tvec ≠ 0 →
          Entered s t Cause.engineFault.code (s.sreg a.toNat) s.hart.front.pc false ∧ t.transfers = s.transfers)))
  ∧ (∀ (s : State) (t : Transfer), s.transfers.find? (fun x => decide (x.num = t.num)) = some t →
    (∀ u, t.done < t.total → isHead s t = true → xferStep t s = .ok ((), u) → exec (.engineCount t.num) s = .next (xferNext t u)) ∧
    (t.total ≤ t.done → ∃ u, exec (.transferRetire t.num) s = .next u ∧ (∀ x ∈ u.transfers, x.num ≠ t.num) ∧
      u.transfers = s.transfers.filter (fun x => decide (x.num ≠ t.num)) ∧ (∀ e ∈ u.pending, isXferEvent t.num e = false) ∧ u.hart = s.hart ∧ u.mem = s.mem) ∧
    (∀ u, t.kind = .coll → t.matched = false → firstOfHart s t = true → (∀ c ∈ otherMembers s t.block, (peerOf s t c).isSome) →
      ((collPeers s t).all (peerAgrees t.block) = true → xCollRun t (collPeers s t) s = .ok ((), u) → exec (.collMatch t.num) s = .next u) ∧
      ((collPeers s t).all (peerAgrees t.block) = false → xCollEnd t 63 s = .ok ((), u) → exec (.collMatch t.num) s = .next u)) ∧
    (∀ u c, t.kind = .coll → t.matched = false → c ∈ otherMembers s t.block → peerOf s t c = none → mgmtGet s 0xA0440 ≠ 0 →
      xCollEnd t 62 s = .ok ((), u) → exec (.collTimeout t.num) s = .next u))

/-- 15 R345 to R350, R353, where a memory object's home has room: BINIT writes the object of its operand, BARRIVE takes n from APEND and completes the phase at zero, more arrivals than APEND holds set
OVR and trap after the arrival, BEXPECT adds to BPEND, and BTEST answers the object's first word and BPEND. 19 R403: the die of the hart receives the
object's sector, and changes its RIN alone for that.
15 R347, R351: BWAIT answers 2 when the object shows an overrun, 0 when its phase differs from the one waited for, 1 when the bound is 0, and otherwise
sleeps without its lane slot and has not retired; an update wakes it with 2 or 0, its deadline with 1, and it retires; one that finds nothing changed goes on
sleeping.
That a deadline is counted in rounds, and an event that is due, is the model's (log 6, log 7). -/
def Obligations.Barriers : Prop :=
  (∀ (s : State) (d a b : BitVec 7) (n : BitVec 4) (o : Nat), d.toNat < 64 → a.toNat < 64 → b.toNat < 64 →
    (s.barrierOpen (s.sreg a.toNat) = true → s.barrierRoom (s.sreg a.toNat) = true → (s.sreg b.toNat).toNat / 2 ^ 12 % 2 ^ 20 = 0 →
      ∃ t, exec (.binit a b) s = .next t ∧ Retired s t ∧
        BarrierIs s t (s.sreg a.toNat) ((s.sreg b.toNat).toNat % 2 ^ 12 * 4097 + (s.sreg b.toNat).toNat / 2 ^ 32 * (2 ^ 32 + 2 ^ 64))) ∧
    (s.barrierAt (s.sreg a.toNat) o = true → s.barrierRoom (s.sreg a.toNat) = true → n ≠ 0 → n.toNat < barApend o ∨ (n.toNat = barApend o ∧ 0 < barBpend o) →
      ∃ t x, exec (.barrive a n) s = .next t ∧ Retired s t ∧ BarrierIs s t (s.sreg a.toNat) x ∧ barApend x = barApend o - n.toNat ∧
        barAexp x = barAexp o ∧ barPhase x = barPhase o ∧ barOvr x = barOvr o ∧ barBexp x = barBexp o ∧ barBpend x = barBpend o) ∧
    (s.barrierAt (s.sreg a.toNat) o = true → s.barrierRoom (s.sreg a.toNat) = true → n ≠ 0 → n.toNat = barApend o → barBpend o = 0 →
      ∃ t x, exec (.barrive a n) s = .next t ∧ Retired s t ∧ BarrierIs s t (s.sreg a.toNat) x ∧ barApend x = barAexp o ∧
        barAexp x = barAexp o ∧ barPhase x = (barPhase o + 1) % 16 ∧ barOvr x = barOvr o ∧ barBexp x = barBexp o ∧ barBpend x = barBexp o) ∧
    (s.barrierAt (s.sreg a.toNat) o = true → s.barrierRoom (s.sreg a.toNat) = true → barApend o < n.toNat → s.hart.trap.tstatus.getLsbD 0 = false → s.hart.trap.tvec ≠ 0 →
      ∃ t x, exec (.barrive a n) s = .next t ∧ BarrierIs s t (s.sreg a.toNat) x ∧ barOvr x = true ∧
        Entered s.retire t Cause.barrierOverrun.code (s.sreg a.toNat) s.retire.hart.front.pc false) ∧
    (s.barrierAt (s.sreg a.toNat) o = true → (s.sreg b.toNat).toNat < 2 ^ 32 →
      (barBpend o + (s.sreg b.toNat).toNat < 2 ^ 32 → s.barrierRoom (s.sreg a.toNat) = true →
        ∃ t x, exec (.bexpect a b) s = .next t ∧ Retired s t ∧ BarrierIs s t (s.sreg a.toNat) x ∧ barBpend x = barBpend o + (s.sreg b.toNat).toNat ∧
          barAexp x = barAexp o ∧ barApend x = barApend o ∧ barPhase x = barPhase o ∧ barOvr x = barOvr o ∧ barBexp x = barBexp o) ∧
      (2 ^ 32 ≤ barBpend o + (s.sreg b.toNat).toNat → exec (.bexpect a b) s = .next (takeTrap (barReceive s s.who (s.sreg a.toNat)) .illegalOperand 0))) ∧
    (s.barrierAt (s.sreg a.toNat) o = true →
      exec (.btest d a) s =
        .next ((barReceive s s.who (s.sreg a.toNat)).setSreg d.toNat (BitVec.ofNat 64 (o % 2 ^ 32 + o / 2 ^ 64 % 2 ^ 32 * 2 ^ 32))).retire) ∧
    (∀ op, ∃ t, barReceive s s.who op = t ∧ t = { s with rin := t.rin } ∧
      ∀ pa e x, barSpad op = false → s.pageOf op.toNat = some (pa, e) → x ∈ s.vs → x.sector = pa / 64 → x.undo = true →
        (∀ y ∈ s.vs, y.sector = pa / 64 → y.undo = true → y.tag = x.tag) → rinOf t s.die = if rinBefore (rinOf s s.die) x.tag then x.tag else rinOf s s.die))
  ∧ (∀ (s : State) (d a b : BitVec 7) (o : Nat), d.toNat < 64 → a.toNat < 64 → b.toNat < 64 →
    (∀ u, u = barReceive s s.who (s.sreg a.toNat) → s.barrierAt (s.sreg a.toNat) o = true → (s.sreg b.toNat).toNat / 16 % 2 ^ 12 = 0 →
      (barOvr o = true → exec (.bwait d a b) s = .next (u.setSreg d.toNat 2).retire) ∧
      (barOvr o = false → barPhase o ≠ (s.sreg b.toNat).toNat % 16 → exec (.bwait d a b) s = .next (u.setSreg d.toNat 0).retire) ∧
      (barOvr o = false → barPhase o = (s.sreg b.toNat).toNat % 16 → (s.sreg b.toNat).toNat / 2 ^ 16 = 0 →
        exec (.bwait d a b) s = .next (u.setSreg d.toNat 1).retire) ∧
      (barOvr o = false → barPhase o = (s.sreg b.toNat).toNat % 16 → (s.sreg b.toNat).toNat / 2 ^ 16 ≠ 0 → s.noneReady = true →
        ∃ t, exec (.bwait d a b) s = .next t ∧ t.hart.front = s.hart.front ∧ t.hart.ctr = s.hart.ctr ∧ SameBytes s t ∧ t.hart.status = .waiting ∧
          t.hart.wait = .bwait (s.front.dest d.toNat) (s.sreg a.toNat) ((s.sreg b.toNat).setWidth 4)
            (BitVec.ofNat 48 ((s.sreg b.toNat).toNat / 2 ^ 16)) false)) ∧
    (∀ rd op p bound moved u, s.hart.wait = .bwait rd op p bound moved → s.hart.out = false → barRzClear (barObject s s.hart op) = true →
      u = barReceive s s.who op →
        (barOvr (barObject s s.hart op) = true → exec (.bwaitWake s.hart.hid) s = .next (bwaitReturn u s.hart.hid rd 2)) ∧
        (barOvr (barObject s s.hart op) = false → (moved = true ∨ barPhase (barObject s s.hart op) ≠ p.toNat) →
          exec (.bwaitWake s.hart.hid) s = .next (bwaitReturn u s.hart.hid rd 0)) ∧
        (barOvr (barObject s s.hart op) = false → moved = false → barPhase (barObject s s.hart op) = p.toNat →
          exec (.bwaitWake s.hart.hid) s = .next u ∧
          (bound ≠ BitVec.allOnes 48 → exec (.bwaitDeadline s.hart.hid) s = .next (bwaitReturn u s.hart.hid rd 1)))))

/-- 19 R419 to R421; 17 R380: SEAL requests the seal of the current interval and answers it at once or, with w = 1, waits for it without its lane slot; EXTW
waits for the newest interval of the hart's unreleased irrevocable writes, and without any answers the newest sealed one; RINQ answers without waiting. A wait
that has come true ends with its interval, and the instruction retires. DBAR arrives and waits in a deterministic node and is ILLEGAL_INSTR in any other; the
merge without a conflict begins the next phase of the node, and the DBAR of each waiting task retires.
That an event is due, and its place in State.pending, is the model's (log 6). -/
def Obligations.IntervalsAndPhases : Prop :=
  ∀ (s : State) (d : BitVec 7), s.agent = .hart → d.toNat < 64 →
    (s.noTransfers = true → s.rollingBack = false →
      (∃ t, exec (.seal d false) s = .next t ∧ Retired s t ∧ .sealRequest (rinOf s s.die) ∈ t.pending ∧
        t.hart = (s.setSreg d.toNat ((rinOf s s.die).setWidth 64)).retire.hart ∧ SameBytes s t) ∧
      (s.noneReady = true → ∃ t, exec (.seal d true) s = .next t ∧ t.hart.front = s.hart.front ∧ t.hart.ctr = s.hart.ctr ∧
        .sealRequest (rinOf s s.die) ∈ t.pending ∧ t.hart.status = .waiting ∧
        t.hart.wait = .sealWait (s.front.dest d.toNat) (rinOf s s.die) false ∧ SameBytes s t) ∧
      (newestTag (ownEgress s s.hart.hid) = none → exec (.extw d) s = .next (s.setSreg d.toNat (s.sealedRin.setWidth 64)).retire) ∧
      (∀ m, newestTag (ownEgress s s.hart.hid) = some m → s.noneReady = true → ∃ t, exec (.extw d) s = .next t ∧ t.hart.front = s.hart.front ∧
        t.hart.ctr = s.hart.ctr ∧ .sealRequest m ∈ t.pending ∧ t.hart.status = .waiting ∧ t.hart.wait = .sealWait (s.front.dest d.toNat) m true)) ∧
    (∀ rd m x, s.hart.wait = .sealWait rd m x → s.hart.out = false → rinUpTo m s.sealedRin = true → (∀ e ∈ s.egress, e.hid ≠ some s.hart.hid) →
      s.others.all (fun h => !sealMet s h) = true → wakeSeals s = endWaitRetire s s.hart.hid (fun h => h.setPhys rd (m.setWidth 64))) ∧
    (∀ k : BitVec 2, exec (.rinq d k) s = .next (s.setSreg d.toNat (
      if k = 0 then (rinOf s s.die).setWidth 64 else if k = 1 then s.sealedRin.setWidth 64
      else if k = 2 then BitVec.ofNat 64 (1024 * vsUsed s s.die / (mgmtGet s (0x90108 + 0x40 * s.die)).toNat)
      else BitVec.ofNat 64 (egUsed s s.die / 32))).retire) ∧
    (s.hart.det = 0 → exec .dbar s = .next (takeTrap s .illegalInstr 0xA0000000)) ∧
    (s.hart.det ≠ 0 → s.noTransfers = true → s.noneReady = true →
      ∃ t, exec .dbar s = .next t ∧ SameRegs s t [] ∧ SameBytes s t ∧ t.hart.status = .waiting ∧ t.hart.wait = .dbar ∧ t.hart.detm.arrived = true ∧
        t.hart.ctr = s.hart.ctr ∧
        (phaseFull t s.hart.node = true → .detPhaseMerge s.hart.node ∈ t.pending)) ∧
    (∀ n nd, nodeOf s n = some nd → nd.num = n → hdrDet nd.hdr ≠ 0 → phaseFull s n = true → (hdrDet nd.hdr = 2 → detCheck s nd = none) →
      ∃ t x, exec (.detPhaseMerge n) s = .next t ∧ nodeOf t n = some x ∧ x.phase = nd.phase + 1 ∧ x.tags = [] ∧ x.writes = [] ∧
        (∀ e ∈ t.vs, e.snap ≠ some n ∧ ∀ k, e.priv ≠ some (n, k)) ∧
        ∀ h, (allHarts s).filter (fun g => decide (g.hid = h.hid)) = [h] → h.node = n → h.resident = true → h.detm.arrived = true →
          ∃ g, hartOf t h.hid = some g ∧ g.ctr.retired = h.ctr.retired + 1 ∧ g.detm = ⟨[], [], false⟩ ∧ g.wait = .none ∧
            g.front = h.front.seqFrom (h.trap.tstatus.getLsbD 0) h.front.pc)

/-- 12 R260 to R269: the advice instructions on the sequencer. An action within the lead limit counts and acts, one beyond it is dropped and counted; ALD
answers the value, or 0 with ALDF set; ADROP withdraws; AEND ends the context; AWAIT of a passed occurrence returns at once with its flags, else waits. The
MARK that reaches the occurrence and the watchdog end the wait and the context.
When an unsent line is sent is the model's reading (log 18), and so are the turns of the contexts (log 7) and the answer of the host to a line that is
asked for (log 63). -/
def Obligations.AdviceInstructions : Prop :=
  ∀ (s : State), s.agent = .advice →
    (s.hart.adv.actions < s.lead →
      (∀ p, exec (.aprio p) s = .next (s.retire.modAdv (fun a => { a with actions := s.hart.adv.actions + 1, prio := p }))) ∧
      (∀ p : BitVec 4, p.toNat ≤ 2 →
        exec (.aorder p) s = .next (s.retire.modAdv (fun a => { a with actions := s.hart.adv.actions + 1, order := (p.setWidth 2) }))) ∧
      (∀ (l a e : BitVec 7) (v : BitVec 2), a.toNat < 64 → exec (.apref l a e v) s =
        .next (prefetch (s.retire.modAdv (fun a => { a with actions := s.hart.adv.actions + 1 })) v (s.sreg a.toNat + 64 * e.signExtend 64).toNat
          (64 * (l.toNat + 1)))) ∧
      (∀ (a b : BitVec 7) (g : BitVec 2) (nd : Node), a.toNat < 64 → b.toNat < 64 → nodeOf s.retire s.retire.hart.node = some nd →
        0 < (s.sreg b.toNat).toNat → (s.sreg a.toNat).toNat % 65536 + (s.sreg b.toNat).toNat ≤ 65536 →
        leaseFail nd (s.sreg a.toNat).toNat (s.sreg b.toNat).toNat false false false = none →
        (s.retire.placeQ.filter (fun q => q.die == BitVec.ofNat 2 s.retire.die)).length < 256 →
          ∃ t, exec (.aplace a b g) s = .next t ∧ t.placeQ = s.retire.placeQ ++ [⟨BitVec.ofNat 2 s.retire.die,
            BitVec.ofNat 16 (asidOf s.retire nd.slot.toNat), BitVec.ofNat 40 ((s.sreg a.toNat).toNat / 65536), g, s.retire.hart.hid⟩])) ∧
    (s.lead ≤ s.hart.adv.actions → ∀ p, exec (.aprio p) s = .next (mgmtAdd s.retire (0x50110 + 0x40 * s.retire.die) 1)) ∧
    (∀ (d a : BitVec 7) (i : BitVec 11) (v : Word), d.toNat < 64 → a.toNat < 64 →
      (aldRead s (s.sreg a.toNat + i.signExtend 64) = some v → exec (.ald d a i) s = .next (s.setSreg d.toNat v).retire) ∧
      (aldRead s (s.sreg a.toNat + i.signExtend 64) = none →
        exec (.ald d a i) s = .next ((s.setSreg d.toNat 0).modAdv (fun x => { x with aldf := true })).retire)) ∧
    (∀ m, exec (.adrop m) s = .next (adropWith s m).retire) ∧
    (∃ t, exec .aend s = .next t ∧ t.hart.adv.unsent = [] ∧ t.hart.adv.prio = 0 ∧ t.hart.adv.order = 0 ∧
      (s.hart.adv.status ≠ .none → t.hart.adv.status = .ended)) ∧
    (∀ (d : BitVec 6) (im : BitVec 11) (n : BitVec 7),
      (s.hart.pmOcc.toNat < n.toNat → exec (.awaitImm d im n) s = .next (s.retire.modAdv (fun a =>
        { a with status := AdvStatus.waiting, awaitRd := d.toNat, awaitId := im.setWidth 16, awaitN := (n.setWidth 48), markId := none }))) ∧
      (n.toNat ≤ s.hart.pmOcc.toNat → ∃ t, exec (.awaitImm d im n) s = .next t ∧ t.hart.adv.status = .ready ∧ t.hart.adv.actions = 0 ∧
        t.hart.adv.aldf = false ∧ t.hart.passed = 0 ∧ t.hart.aged = false ∧ t.hart.adv.front = (s.front.seqFrom false s.front.pc).wr d.toNat
          (1 + (if s.hart.pmOcc.toNat = n.toNat ∧ s.hart.pmId ≠ im.setWidth 16 then 2 else 0) + (if s.hart.adv.aldf then 4 else 0)))) ∧
    (∀ (d : BitVec 6) (a b : BitVec 7), a.toNat < 64 → b.toNat < 64 → s.hart.pmOcc.toNat < (s.sreg b.toNat).toNat % 2 ^ 48 →
      exec (.awaitReg d a b) s = .next (s.retire.modAdv (fun x =>
        { x with status := .waiting, awaitRd := d.toNat, awaitId := (s.sreg a.toNat).setWidth 16, awaitN := (s.sreg b.toNat).setWidth 48, markId := none }))) ∧
    (∀ k, s.hart.adv.status = .waiting → s.hart.adv.wdog ≠ 0 → s.hart.adv.markId = some k →
      ∃ t, exec (.awaitReturn s.hart.hid) s = .next t ∧ t.hart.adv.status = .ready ∧ t.hart.adv.actions = 0 ∧ t.hart.adv.aldf = false ∧
        t.hart.adv.front = s.hart.adv.front.wr s.hart.adv.awaitRd ((if k ≠ s.hart.adv.awaitId then 2 else 0) + (if s.hart.adv.aldf then 4 else 0))) ∧
    (s.hart.adv.status = .ready ∨ s.hart.adv.status = .waiting → s.hart.adv.wdog = 0 →
      ∃ t, exec (.adviceWatchdog s.hart.hid) s = .next t ∧ t.hart.adv.status = .ended ∧ t.hart.adv.unsent = [] ∧
        mgmtGet t (0x50118 + 0x40 * (s.hart.lcore.toNat / 64)) = mgmtGet s (0x50118 + 0x40 * (s.hart.lcore.toNat / 64)) + 1)

/-- 05 R110, R111; 12 R269; 22 R444: the words of one agent on another. On a hart an advice word and a command of Ozsis raise ILLEGAL_INSTR with the word as tval;
the sequencer drops and counts every word outside the majors that R111 lists.
05 R110, R111, Table 5.4: a word of a reserved major is no instruction; a hart raises ILLEGAL_INSTR on it with the word as tval, the sequencer drops and
counts it. -/
def Obligations.WordsOfOtherAgents : Prop :=
  (∀ (i : Instr) (s : State), i.isWord = true →
    (s.agent = .hart → (adviceWord i = true ∨ (ozsisWordOf i).isSome = true) → exec i s = .next (takeTrap s .illegalInstr ((encode i).setWidth 64))) ∧
    (s.agent = .advice → sequencerWord i = false → exec i s = .next (dropWord s)))
  ∧ (∀ (w : BitVec 32) (s : State),
    w.toNat / 2 ^ 25 ∈ [0x00, 0x1F, 0x25, 0x26, 0x27, 0x2D, 0x2E, 0x2F, 0x37, 0x3D, 0x3E, 0x3F, 0x47, 0x4E, 0x4F] ∨ 0x58 ≤ w.toNat / 2 ^ 25 →
      decode w = none ∧ (s.agent = .hart → exec (.reservedEncoding w) s = .next (takeTrap s .illegalInstr (w.setWidth 64))) ∧
      (s.agent = .advice → exec (.reservedEncoding w) s = .next (dropWord s)))

/-- 05 R108, 06 R130; 12 R258; 22 R443: a step runs the decoded instruction. When the turn is an agent's and the four bytes at its program counter decode to
an instruction, the step is that instruction at the fetched state; bytes that decode to none raise ILLEGAL_INSTR on a hart with the word as tval. A fetch that fails its checks traps with
the word's address, and tepc holds it.
19 R414, 23 R456, and the model's order of events (log 6, log 7): a rollback, or a reset by RST_CTL, that is due comes at once, and else, with no
scheduling choice made, the event that is due first is the step.
Whose turn it is, is the model's (log 6, log 7); a fetch of advice text behind a withdrawn translation walks again (log 72). -/
def Obligations.StepRunsTheWord : Prop :=
  (∀ (s t : State), takeTurn s = .run t →
    (∀ pa u, t.agent = .hart → t.hart.front.pc.toNat % 64 + 4 ≤ 64 → checkAccess t t.hart.node t.hart.front.pc.toNat 4 false false true = none →
      t.plainAt t.hart.front.pc.toNat pa = true → t.counted = [] → cohFetch t t.die (pa / 64) = some u →
        OnlyFrontAndCaches t u ∧ u.hart = t.hart ∧ SameBytes t u ∧
        (∀ i r, decodeBytes (memBytes t pa 4) = some (i, r) → step s = exec i u) ∧
        (decodeBytes (memBytes t pa 4) = none → step s = .next (takeTrap u .illegalInstr (BitVec.ofNat 64 (memNat t pa 4))))) ∧
    (∀ c v, t.agent = .hart → checkAccess t t.hart.node t.hart.front.pc.toNat 4 false false true = some (c, v) →
      step s = .next (fetchTrap t c t.hart.front.pc)) ∧
    (∀ nd pa u i r, t.agent = .advice → (t.hart.adv.front.pc - t.hart.adv.text).toNat < t.hart.adv.textSize → t.hart.adv.front.pc.toNat % 4 = 0 →
      nodeOf t t.hart.node = some nd → advicePA t nd t.hart.adv.front.pc = some (pa, u) → poisonAt u pa = false →
      decodeBytes (memBytes u pa 4) = some (i, r) →
        step s = exec i (receives u t.die (pa / 64)) ∧ u = { t with nodes := u.nodes } ∧ (leafOk (Store.get zeroOf nd.advPages (vpnOf t.hart.adv.front.pc)) = true → u = t)) ∧
    (∀ i r, t.agent = .ozsis → t.oz.front.pc.toNat % 4 = 0 → t.oz.front.pc.toNat + 4 ≤ 0x80000 →
      decodeBytes (Store.read zeroOf t.oz.mem t.oz.front.pc.toNat 4) = some (i, r) → step s = exec i t))
  ∧ (∀ (s : State) (i : Instr) (r : List Instr), s.pending = i :: r →
    (i ∈ [.rollback, .rstCtlCold, .rstCtlWarm] → step s = exec i { s with pending := r }) ∧
    (i ∉ [.rollback, .rstCtlCold, .rstCtlWarm] → s.sched = [] → step s = exec i (releaseRetry { s with pending := r })) ∧
    (releaseRetry { s with pending := r }).mem = s.mem ∧ (releaseRetry { s with pending := r }).hart.front = s.hart.front)

/-- Words written out from the encodings of the spec decode to the instructions they stand for (05 Tables 5.3 and 5.4, the worked encodings of 06 to 19). -/
def Obligations.WordsDecode : Prop :=
  decode 0x1B100800 = some (.ldd 4 1 0) ∧ decode 0x1A283000 = some (.ldw 10 6 0) ∧ decode 0x611A3462 = some (.vxor 70 70 70 false) ∧
  decode 0x6112244A = some (.vxor 68 68 68 true) ∧ decode 0xA22C0010 = some (.seal 11 true) ∧ decode 0xA2140011 = some (.rinq 5 1) ∧
  decode 0xA2300002 = some (.extw 12) ∧ decode 0xA0000000 = some .dbar ∧ decode 0x2A000040 = some (.wbase 64) ∧ decode 0x27002800 = some (.jalr 0 5 0) ∧
  decode 0x951420D2 = some (.dcdf 69 4 13)

/-- 23 Table 23.4, 19 R401, 03 R57: the machine after reset: memory in its canonical form and zero, no node, every die in interval 1, nothing sealed, no lost
chip, empty caches and version stores. (The values of an absent hart are the model's, log 2.)
Host memory that reads as 0 (log 4) and the values of a healthy start (log 8) are the model's too. -/
def Obligations.ResetState : Prop :=
  State.reset.Inv ∧ (∀ a, State.reset.byteAt a = 0) ∧ State.reset.nodes = [] ∧ (∀ d, rinOf State.reset d = 1) ∧ State.reset.sealedRin = 0 ∧
  State.reset.vs = [] ∧ State.reset.egress = [] ∧ State.reset.dir = [] ∧ State.reset.rdc = [] ∧ State.reset.errlog = [] ∧ State.reset.lost = 0 ∧
  (∀ g, State.reset.graphs[g]? = if g < 64 then some ⟨none, 0, []⟩ else none) ∧ mgmtGet State.reset 0x90000 = 0x7D0 ∧ mgmtGet State.reset 0x90008 = 0x2710

/-- 05 Tables 5.3 and 5.4: decoding gives every well-formed instruction back from its word, with every operand at every value the encoding admits. -/
def Obligations.EncodeDecodeRoundTrip : Prop :=
  ∀ i : Instr, i.isWord = true → i.wf = true → decode (encode i) = some i

/-- Memory keeps its canonical form: from every state whose memory has it, every step that answers a next state leaves memory in it. -/
def Obligations.MemoryStaysCanonical : Prop :=
  ∀ s t : State, s.Inv → step s = .next t → t.Inv

/-- Events of harts and contexts: 18 R386, R389 (the watchdog ends the task and fails its node), R391 and R395 (a soft error and poison are logged, no byte
changes); 05 R102 to R107, Table 5.2 and 04 R79 (aging, becoming resident, the context save area written by a switch and read by a restore, time slices).
The model's: where save areas lie and what they leave open (log 28), ties among parked harts (log 49), when a time slice ends (log 56), the order of
events (log 6); an event whose object is gone changes nothing (log 59). -/
def Obligations.HartEvents : Prop :=
  ∀ (s : State),
    (∀ nd, s.hart.resident = true → mgmtGet s 0x70010 ≠ 0 → nodeOf s s.hart.node = some nd →
      ∃ t x, exec (.hartWatchdog s.hart.hid) s = .next t ∧ t.hart.alive = false ∧ nodeOf t s.hart.node = some x ∧ x.state = .failed ∧ x.cause = 0x10) ∧
    (∀ h x, hartOf s h = some x → x.resident = true →
      (∃ t, exec (.vectorSoftError h) s = .next t ∧ t.mem = s.mem ∧ t.hart = s.hart ∧ t.others = s.others ∧
        mgmtGet t (0x80050 + 0x100 * (x.lcore.toNat / 64)) = mgmtGet s (0x80050 + 0x100 * (x.lcore.toNat / 64)) + 1) ∧
      (∃ t y, exec (.hartAged h) s = .next t ∧ hartOf t h = some y ∧ (y.aged = true ∨ y.status = .running)) ∧
      (∀ pa, x.holdsSlot = false → x.mat.bad = [] → savePlace s x = .ok pa → (∀ t ∈ s.transfers, t.hid ≠ h) →
        ∃ t y, exec (.contextSwitch h) s = .next t ∧ hartOf t h = some y ∧ y.out = true ∧ y.saveAt = pa ∧ y.monitor = none ∧
          memBytes t pa 256 = x.saveHeader (((nodeOf s x.node).map Node.addr).getD 0) ∧ memBytes t (pa + 256) x.saveBody.length = x.saveBody ∧
          SameBytesOutside s t pa (256 + x.saveBody.length))) ∧
    (∀ (a : BitVec 52) (unit : BitVec 16),
      (isDeviceMem a.toNat = true → ∃ t, exec (.sectorPoison false a unit) s = .next t ∧ poisonAt t a.toNat = true ∧ SameBytes s t ∧ t.hart = s.hart) ∧
      (a.toNat < 2 ^ 28 → ∃ t, exec (.sectorPoison true a unit) s = .next t ∧ spadPoisonAt t a.toNat = true ∧ t.spad = s.spad ∧ t.hart = s.hart)) ∧
    (∀ h x p, h ≠ 0 → s.arrivals.find? (fun y => decide (y.hid = h)) = some x → residentPlace s x = some p →
      ∃ t y, exec (.hartResident h) s = .next t ∧ hartOf t h = some y ∧ y.out = false ∧ y.node = x.node ∧ y.task = x.task ∧ y.front = x.front ∧
        (∀ z ∈ t.arrivals, z.hid ≠ h) ∧ (∀ n, nodeOf t x.node = some n → n.state ≠ .leased)) ∧
    (∀ h x, h ≠ 0 → hartOf s h = some x → x.out = true → x.alive = true → poisonIn s x.saveAt x.saveSize = none →
      (headerValid (memBytes s x.saveAt x.saveSize) = false → exec (.contextRestore h) s = .next (failNode s x.node 0x23)) ∧
      (∀ p r, headerValid (memBytes s x.saveAt x.saveSize) = true → r = restoredHart s x (memBytes s x.saveAt x.saveSize) →
        residentPlace s r = some p → vsFull s (homeDie x.saveAt) = false →
          ∃ t y, exec (.contextRestore h) s = .next t ∧ hartOf t h = some y ∧ y.out = false ∧ y.node = x.node ∧ y.task = r.task ∧ y.front = r.front ∧
            y.vec = r.vec ∧ y.mat = r.mat ∧ y.dist = r.dist ∧ t.byteAt (x.saveAt + 2) = 0)) ∧
    (∀ (x : Hart) (node : Word) (body : List Byte) (y : Hart), y = x.ofHeader (x.saveHeader node ++ body) →
      headerValid (x.saveHeader node ++ body) = true ∧ y.front.pc = x.front.pc ∧ y.wid = x.wid ∧ y.task = x.task ∧ y.vec.lfsr = x.vec.lfsr ∧
        y.parts = x.parts ∧ y.vregs = x.vregs ∧ y.prio = x.prio) ∧
    (∀ (die : BitVec 2) (phys : BitVec 7) (L cur : Nat) (u : State),
      cur = ((coreHarts s die.toNat phys.toNat).head?.map (fun h => h.lcore.toNat % 64)).getD (lastServed s die.toNat phys.toNat) →
      nextCore s die.toNat phys.toNat cur = some L → (L % 64 ≠ cur ∨ coreHarts s die.toNat phys.toNat = []) →
      xSwitchOut (coreHarts s die.toNat phys.toNat) s = .ok ((), u) → exec (.timeSlice die phys) s = .next ((coreWork u L).foldl raiseOnce u))

/-- 03 R42 to R64: the scheduler. A followed armed word posts its node; a node whose reads are made leaves POSTED; a READY node that fails its checks is FAILED
with the cause of Table 3.6, a KERNEL node waits for admission, any other runs; an admitted node is LEASED with its lease; control nodes select their successor;
SIGNAL writes; a node that ends is DONE without a lease; a SEALED one retires; GRAPH_CTL arms and disarms.
The model's readings: occurrences (log 43), loops (log 44), a word that cannot be read (log 45), fork behind an absent next (log 69), when d0 is
reckoned (log 70), which pages migrate at a lease (log 23); order of events log 6. -/
def Obligations.SchedulerEvents : Prop :=
  ∀ (s : State),
    (∀ g va l, armedOf s g = some va → s.boot = .running → s.fw = .idle → graphOn s g = true → graphHalted s g = false →
      schedBytes s (asidOf s g.toNat) va.toNat 8 = .ok l →
        (BitVec.ofNat 64 (bytesNat l) = 0 → exec (.followArmedWord g) s = .next (schedReceives s (asidOf s g.toNat) va.toNat 8)) ∧
        (BitVec.ofNat 64 (bytesNat l) ≠ 0 → (∀ x ∈ s.nodes, x.slot = g → x.addr = BitVec.ofNat 64 (bytesNat l) → x.state.live = false) →
          ∃ t x, exec (.followArmedWord g) s = .next t ∧ x ∈ t.nodes ∧ x.num = s.nextNode ∧ x.addr = BitVec.ofNat 64 (bytesNat l) ∧ x.slot = g ∧
            x.state = .posted ∧ x.main = true ∧ x.strand = (slotOf s g).strand ∧ x.loops = (slotOf s g).loops ∧ .nodeReady s.nextNode ∈ t.pending)) ∧
    (∀ n nd, nodeOf s n = some nd →
      (nd.state = .ready → (graphOn s nd.slot = false ∨ graphHalted s nd.slot = true ∨ admissionOpen s = false) → exec (.nodeReady n) s = .next s) ∧
      (nd.state = .ready → graphOn s nd.slot = true → graphHalted s nd.slot = false → admissionOpen s = true →
        (nodeCause nd ≠ 0 → ∃ t x, exec (.nodeReady n) s = .next t ∧ nodeOf t n = some x ∧ x.state = .failed ∧ x.cause = BitVec.ofNat 8 (nodeCause nd)) ∧
        (nodeCause nd = 0 → nd.kind = 1 → nd.resWait = false → ∃ t, exec (.nodeReady n) s = .next t ∧ t.nodes = s.nodes ∧ .admitNode n ∈ t.pending) ∧
        (nodeCause nd = 0 → nd.kind ≠ 1 → ∃ t x, exec (.nodeReady n) s = .next t ∧ nodeOf t n = some x ∧ x.state = .running ∧
          t.pending = s.pending ++ [controlEvent nd.kind n])) ∧
      (∀ nd', nd.state = .posted → nd.copied = false → copyNode s nd = .ok nd' → nd'.kind ≠ 5 → nd'.arrivals = 1 →
        ∃ t x, exec (.nodeReady n) s = .next t ∧ nodeOf t n = some x ∧ x.raw = nd'.raw ∧ x.state ≠ .posted) ∧
      (∀ u m ps, u = applyRemap s → admittable s nd = true → admissionOpen s = true → planOk nd (planOf u nd) = true →
        ps = leasePages u (asidOf u nd.slot.toNat) (planDie (planOf u nd)) nd.newLease → poisonedWalk ps = none → absentPages ps = [] →
        (leavesOf ps).any (fun e => systemArea (leafPA e.2)) = false → misplaced u nd ps = [] →
        leastBy (admitKey u) (u.nodes.filter (admissible u)) = some m → m.num = n →
          ∃ t x, exec (.admitNode n) s = .next t ∧ nodeOf t n = some x ∧ x.state = .leased ∧ x.lease = nd.newLease ∧ x.pages = leavesOf ps ∧
            t.arrivals.length = s.arrivals.length + ((planOf u nd).map List.length).sum) ∧
      (∀ l, nd.state = .running → nd.word 0x20 % fieldAt nd.raw 0x31 1 = 0 →
        schedBytes s (asidOf s nd.slot.toNat) (nd.word 0x20) (fieldAt nd.raw 0x31 1) = .ok l →
          (nd.kind = 2 → ∃ t x, exec (.evalCond n) s = .next t ∧ nodeOf t n = some x ∧ x.sel = (if nd.test (bytesNat l) then 8 else 0x38) ∧
            t.pending = .nodeDone n :: s.pending) ∧
          (nd.kind = 3 → ∃ t x, exec (.evalLoop n) s = .next t ∧ nodeOf t n = some x ∧ t.pending = .nodeDone n :: s.pending ∧
            x.sel = (if nd.test (bytesNat l) = true ∧ nd.iter < fieldAt nd.raw 0x34 4 then 0x38 else 8)) ∧
          (nd.kind = 4 → ∃ t x, exec (.evalSwitch n) s = .next t ∧ nodeOf t n = some x ∧ t.pending = .nodeDone n :: s.pending ∧
            x.sel = (if nd.word (0x40 + 8 * min (bytesNat l) (fieldAt nd.raw 0x32 2 - 1)) = 0 then 8
              else 0x40 + 8 * min (bytesNat l) (fieldAt nd.raw 0x32 2 - 1)))) ∧
      (∀ e, nd.state = .running → nd.kind = 6 → nd.word 0x20 % 8 = 0 → walk s (asidOf s nd.slot.toNat) (nd.word 0x20 / 65536) = .leaf e →
        leafW e = true → leafRD e = true →
          (leafMT e = 1 ∨ isHost (leafPA e + nd.word 0x20 % 65536) = true → egFull s 0 1 = false →
            ∃ t, exec (.signalWrite n) s = .next t ∧ t.pending.head? = some (.nodeDone n) ∧ t.egress.length = s.egress.length + 1 ∧ t.mem = s.mem) ∧
          (leafMT e ≠ 1 → isHost (leafPA e + nd.word 0x20 % 65536) = false → (fieldAt nd.raw 0x30 1 = 1 → poisonAt s (leafPA e + nd.word 0x20 % 65536) = false) →
            vsFull s (homeDie (leafPA e + nd.word 0x20 % 65536)) = false →
            (cohWrite s (homeDie (leafPA e + nd.word 0x20 % 65536)) ((leafPA e + nd.word 0x20 % 65536) / 256)
              ((leafPA e + nd.word 0x20 % 65536) / 64)).isSome →
              ∃ t, exec (.signalWrite n) s = .next t ∧ t.pending.head? = some (.nodeDone n) ∧ memNat t (leafPA e + nd.word 0x20 % 65536) 8 =
                ((if fieldAt nd.raw 0x30 1 = 1 then memNat s (leafPA e + nd.word 0x20 % 65536) 8 else 0) + nd.word 0x28) % 2 ^ 64)) ∧
      (nd.state = .running → nd.nextWait = .none → nd.kind ≠ 1 →
        ∃ t x, exec (.nodeDone n) s = .next t ∧ nodeOf t n = some x ∧ x.state = .done ∧ x.lease = []) ∧
      (nd.state = .running → nd.nextWait = .none → nd.kind = 1 → hdrDet nd.hdr = 0 → hdrTasks nd.hdr ≤ nd.endedTasks →
        (∀ x ∈ s.transfers, x.node ≠ n) → ∃ t x, exec (.nodeDone n) s = .next t ∧ nodeOf t n = some x ∧ x.state = .done ∧ x.lease = []) ∧
      (canRetire s nd = true → ∃ t, exec (.nodeRetire n) s = .next t ∧ ∀ x ∈ t.nodes, x.num = n → x.state = .retired)) ∧
    (∀ (g : BitVec 6) (v : Word), s.graphs.length = 64 →
      (v.getLsbD 0 = true → graphOn s g = false → ∃ t, exec (.graphCtlWrite g v) s = .next t ∧
        armedOf t g = some (mgmtGet s (0x10008 + 0x20 * g.toNat)) ∧ .followArmedWord g ∈ t.pending ∧ graphOn t g = true) ∧
      (v.getLsbD 0 = false → ∃ t, exec (.graphCtlWrite g v) s = .next t ∧ armedOf t g = none ∧ graphOn t g = false))

/-- Events of translation, placement and management registers: 04 R72 (a residency request is answered), R77 (the remap table), R84 (migration), R86 to R88
(invalidation); 11 R250 (activation counters); 18 R398 (the error log); 00 R8 (a plain register takes its RW bits, its W1C bits clear, and no other register
changes).
The model's: the frame of a migrated page (log 23), when a remap write takes effect (log 46), INV_CTL.DONE (log 51), the registers latched at GO (log
71), activations of rows (log 24). -/
def Obligations.ManagementEvents : Prop :=
  ∀ (s : State),
    (s.resQ = [] → (∀ x ∈ s.nodes, x.cwWait = []) → ∃ t, exec .resDone s = .next t ∧ mgmtGet t 0x30010 = mgmtGet s 0x30010 &&& ~~~2#64 ∧
      ∀ x ∈ t.nodes, x.resWait = false) ∧
    (∀ v : Word, ∃ t, exec (.invGo v) s = .next t ∧
      ((mgmtGet s 0x30030).getLsbD 7 = true → (mgmtGet t 0x30030).getLsbD 4 = true ∧ t.pending = s.pending) ∧
      ((mgmtGet s 0x30030).getLsbD 7 = false → (mgmtGet t 0x30030).getLsbD 7 = true ∧
        t.inval = some (latchInval s (mgmtMerge 0x30030 (mgmtGet s 0x30030) v)) ∧
        ((∀ x ∈ s.nodes, transLive s x.num = false) →
          unreleased s (latchInval s (mgmtMerge 0x30030 (mgmtGet s 0x30030) v)) = false → .invalidationDone ∈ t.pending) ∧
        (∀ x ∈ s.nodes, leaseLive s x.num = true → ∀ p ∈ x.pages, (latchInval s (mgmtMerge 0x30030 (mgmtGet s 0x30030) v)).names x.asid p.1 = true →
          (mgmtGet t 0x30030).getLsbD 6 = true))) ∧
    (∀ i, s.inval = some i →
      (i.waits.any (transLive s) = true ∨ unreleased s i = true → exec .invalidationDone s = .next s) ∧
      (i.waits.any (transLive s) = false → unreleased s i = false → ∃ t, exec .invalidationDone s = .next t ∧ t.inval = none ∧
        mgmtGet t 0x30030 = (mgmtGet s 0x30030 &&& ~~~0xC0#64) ||| 0x20 ∧ ∀ x ∈ t.nodes, ∀ p ∈ x.advPages, i.names x.asid p.1 = false)) ∧
    (∀ (die : BitVec 2) (l : BitVec 6) (v : Word) (off : Nat), off = 0x20000 + 0x200 * die.toNat + 8 * l.toNat →
      (v.toNat % 128 ≠ 0x7F → coreGood s die.toNat (v.toNat % 128) = false →
        ∃ t, exec (.remapWrite die l v) s = .next t ∧ mgmtGet t 0x20880 = mgmtGet s 0x20880 + 1 ∧ mgmtGet t off = mgmtGet s off ∧ t.deferred = s.deferred) ∧
      ((v.toNat % 128 = 0x7F ∨ coreGood s die.toNat (v.toNat % 128) = true) →
        ∃ t, exec (.remapWrite die l v) s = .next t ∧ mgmtGet t off = mgmtGet s off ∧
          (dieBusy s die.toNat = false → mgmtGet (applyRemap t) off = BitVec.ofNat 64 (v.toNat % 128)) ∧
          (dieBusy s die.toNat = true → mgmtGet (applyRemap t) off = mgmtGet s off))) ∧
    (∀ (asid : BitVec 16) (vpn : BitVec 40) (die : BitVec 2) (e : Word), pageHeld s asid.toNat vpn.toNat = false → walk s asid.toNat vpn.toNat = .leaf e →
        pageUnreleased s (leafPA e) = false →
      (isDeviceMem (leafPA e) = false ∨ systemArea (leafPA e) = true ∨ homeDie (leafPA e) = die.toNat ∨ isDeviceMem (leafAddress s asid.toNat vpn.toNat) = false →
        ∃ t, exec (.migratePage asid vpn die) s = .next t ∧ t.mem = s.mem ∧ ∀ q ∈ t.placeQ, ¬ (q.asid = asid ∧ q.vpn = vpn ∧ q.target = die)) ∧
      (∀ new a, isDeviceMem (leafPA e) = true → systemArea (leafPA e) = false → homeDie (leafPA e) ≠ die.toNat → a = leafAddress s asid.toNat vpn.toNat → isDeviceMem a = true →
        frameFor s (leafPA e) die.toNat = some new → moveRoom s die.toNat = true → pageBusy s (leafPA e) = false → pageBusy s new = false →
        hostLines s (leafPA e) = [] → hostLines s new = [] → (cohWrite s (homeDie a) (a / 256) (a / 64)).isSome → (∀ c ∈ s.nc, c.sector / 1024 ≠ leafPA e / 65536) → s.counted = [] →
        (new + 65536 ≤ leafPA e ∨ leafPA e + 65536 ≤ new) →
          ∃ t, exec (.migratePage asid vpn die) s = .next t ∧ (∀ q ∈ t.placeQ, ¬ (q.asid = asid ∧ q.vpn = vpn ∧ q.target = die)) ∧
            (∃ n, (leafPA e / 65536, n) ∈ t.freed) ∧ memNat t a 8 = ((e &&& ~~~0x000FFFFFFFFF0000#64) ||| BitVec.ofNat 64 new).toNat ∧
            (∀ k, k < 65536 → (new + k < a ∨ a + 8 ≤ new + k) → t.byteAt (new + k) = s.byteAt (leafPA e + k)) ∧
            (∀ b, (b < new ∨ new + 65536 ≤ b) → (b < a ∨ a + 8 ≤ b) → t.byteAt b = s.byteAt b)) ∧
      (∀ new l st, isDeviceMem (leafPA e) = true → systemArea (leafPA e) = false → homeDie (leafPA e) ≠ die.toNat →
        isDeviceMem (leafAddress s asid.toNat vpn.toNat) = true → frameFor s (leafPA e) die.toNat = some new → moveRoom s die.toNat = true →
        pageBusy s (leafPA e) = false → pageBusy s new = false → l ∈ hostLines s (leafPA e) → dirOf s l = some st → st.stable = true → st.holders.getLsbD 4 = true →
          ∃ t x, exec (.migratePage asid vpn die) s = .next t ∧ t.mem = s.mem ∧ t.placeQ = s.placeQ ∧ dirOf t l = some x ∧ x.stable = false ∧
            .migratePage asid vpn die ∈ t.pending)) ∧
    (∀ (off : BitVec 32) (v : Word), off.toNat % 8 = 0 → mgmtEvents s off.toNat v = [.mgmtRegisterWrite off v] → off.toNat ≠ 0x90010 → off.toNat ≠ 0x90018 →
      ¬ (0x10000 ≤ off.toNat ∧ off.toNat < 0x10800) → ¬ (0x90110 ≤ off.toNat ∧ off.toNat < 0x90210 ∧ off.toNat % 0x40 = 0x10) →
        ∃ t, exec (.mgmtRegisterWrite off v) s = .next t ∧ mgmtGet t off.toNat =
            ((mgmtGet s off.toNat &&& ~~~(mgmtRw off.toNat)) ||| (v &&& mgmtRw off.toNat)) &&& ~~~(v &&& mgmtW1c off.toNat) ∧
          (∀ k, k ≠ off.toNat → mgmtGet t k = mgmtGet s k) ∧ t = { s with mgmt := t.mgmt }) ∧
    (∀ (die : BitVec 2) (row : BitVec 32),
      (∃ t, exec (.hbmActRefresh die row) s = .next t ∧ Store.get zeroOf t.act (die.toNat * 2 ^ 32 + row.toNat) = 0 ∧ t.mem = s.mem ∧
        (mgmtGet t (0x40010 + 0x100 * die.toNat)).toNat % 2 ^ 48 = ((mgmtGet s (0x40010 + 0x100 * die.toNat)).toNat % 2 ^ 48 + 1) % 2 ^ 48) ∧
      (∃ t, exec (.actParityError die row) s = .next t ∧ Store.get zeroOf t.act (die.toNat * 2 ^ 32 + row.toNat) = 0 ∧ t.mem = s.mem ∧
        mgmtGet t (0x80088 + 0x100 * die.toNat) = mgmtGet s (0x80088 + 0x100 * die.toNat) + 1)) ∧
    (∀ die : BitVec 2, exec (.errPop die) s = .next { s with errlog := s.errlog.eraseP (fun e => e.die == die) } ∧
      ∃ t, exec (.errOvfClear die) s = .next t ∧ mgmtGet t (0x80030 + 0x100 * die.toNat) = 0 ∧ t.errlog = s.errlog)

/-- 11 R234 to R238, Tables 11.4 and 11.5: what each coherence message does to the directory entry of its line at home and to the RDC line of its agent, and the
message that answers it.
That data stay at home while messages move, and that an event acts on one line, is the model's (log 5); a message for which the tables have no row
changes nothing (log 59); order of events log 6. -/
def Obligations.CoherenceMessages : Prop :=
  ∀ (s : State) (r : BitVec 3) (line : BitVec 44) (l : Nat), line.toNat = l → deviceMem s (l * 256) = true → isCounted s l = false →
    (r.toNat ≤ 4 → (r.toNat = 4 → hostCoherent s = true ∧ s.boot = .running) → r.toNat ≠ homeDie (l * 256) → rdcOf s r.toNat l = none →
      (dirOf s l = none → (setEntries s l).length < 16 → setAwaited s l = false →
        (∃ t, exec (.rds r line) s = .next t ∧ dirOf t l = some (.shared (agentBit r.toNat)) ∧ (rdcOf t r.toNat l).map RdcLine.st = some .is ∧
          .data r line ∈ t.pending) ∧
        (∃ t, exec (.rdx r line) s = .next t ∧ dirOf t l = some (.owned r) ∧ (rdcOf t r.toNat l).map RdcLine.st = some .ie ∧ .datae r line ∈ t.pending)) ∧
      (∀ m, dirOf s l = some (.shared m) →
        (∃ t, exec (.rds r line) s = .next t ∧ dirOf t l = some (.shared (m ||| agentBit r.toNat)) ∧ .data r line ∈ t.pending) ∧
        (m ≠ 0 → ∃ t, exec (.rdx r line) s = .next t ∧ dirOf t l = some (.wi m (.rdx r)) ∧
          ∀ a : BitVec 3, m.getLsbD a.toNat = true → .inv a line ∈ t.pending)) ∧
      (∀ o, o ≠ r → dirOf s l = some (.owned o) →
        (∃ t, exec (.rds r line) s = .next t ∧ dirOf t l = some (.wr o (.rds r) false false) ∧ .recalls o line ∈ t.pending) ∧
        (∃ t, exec (.rdx r line) s = .next t ∧ dirOf t l = some (.wr o (.rdx r) false false) ∧ .recalli o line ∈ t.pending))) ∧
    (∀ m, r.toNat ≤ 4 → (r.toNat = 4 → hostCoherent s = true ∧ s.boot = .running) → r.toNat ≠ homeDie (l * 256) → (rdcOf s r.toNat l).map RdcLine.st = some .s → dirOf s l = some (.shared m) →
      m.getLsbD r.toNat = true → ∃ t, exec (.upg r line) s = .next t ∧ (rdcOf t r.toNat l).map RdcLine.st = some .se ∧
        (m &&& ~~~(agentBit r.toNat) = 0 → dirOf t l = some (.owned r) ∧ .grante r line ∈ t.pending) ∧
        (m &&& ~~~(agentBit r.toNat) ≠ 0 → dirOf t l = some (.wi (m &&& ~~~(agentBit r.toNat)) (.upg r)))) ∧
    (∀ x, dirOf s l = some (.owned r) →
      ((rdcOf s r.toNat l).map RdcLine.st = some .m ∨ (rdcOf s r.toNat l).map RdcLine.st = some .xi →
        ∃ t, exec (.wbd r line x) s = .next t ∧ dirOf t l = none ∧ (rdcOf t r.toNat l).map RdcLine.st = some .xi ∧ .wback r line ∈ t.pending) ∧
      ((rdcOf s r.toNat l).map RdcLine.st = some .e ∨ (rdcOf s r.toNat l).map RdcLine.st = some .xi →
        ∃ t, exec (.evc r line) s = .next t ∧ dirOf t l = none ∧ (rdcOf t r.toNat l).map RdcLine.st = some .xi ∧ .wback r line ∈ t.pending)) ∧
    (∀ m a, dirOf s l = some (.wi m (.rdx a)) → m.getLsbD r.toNat = true →
      ∃ t, exec (.invack r line) s = .next t ∧
        (m &&& ~~~(agentBit r.toNat) = 0 → dirOf t l = some (.owned a) ∧ .datae a line ∈ t.pending) ∧
        (m &&& ~~~(agentBit r.toNat) ≠ 0 → dirOf t l = some (.wi (m &&& ~~~(agentBit r.toNat)) (.rdx a)))) ∧
    (∀ a rc w, dirOf s l = some (.wr r (.rds a) rc w) →
      (∃ t, exec (.ack r line false) s = .next t ∧ dirOf t l = some (.shared (agentBit r.toNat ||| agentBit a.toNat)) ∧ .data a line ∈ t.pending) ∧
      (rc = false → ∃ t, exec (.ack r line true) s = .next t ∧ dirOf t l = some (.wr r (.rds a) false true)) ∧
      (∀ x, ∃ t, exec (.ackd r line x) s = .next t ∧ dirOf t l = some (.shared (agentBit r.toNat ||| agentBit a.toNat)) ∧ .data a line ∈ t.pending)) ∧
    (rdcOf s r.toNat l = none → ∃ t, exec (.inv r line) s = .next t ∧ rdcOf t r.toNat l = none ∧ t.pending = s.hostIn ++ (s.pending ++ [.invack r line])) ∧
    (∀ y, rdcOf s r.toNat l = some y →
      (y.st = .is → ∃ t, exec (.data r line) s = .next t ∧ (rdcOf t r.toNat l).map RdcLine.st = some .s) ∧
      (y.st = .ie → ∃ t z, exec (.datae r line) s = .next t ∧ rdcOf t r.toNat l = some z ∧ z.tags = Vector.replicate 4 (rinOf s r.toNat) ∧
        (if r = 4 ∨ y.stores = 0 then z.st = .e ∧ z.dirty = 0 else z.st = .m ∧ z.dirty = y.stores) ∧
        ∀ h, (true, h) ∈ y.waiters → .run h .hart ∈ t.sched) ∧
      (y.st = .se →
        (∃ t z, exec (.grante r line) s = .next t ∧ rdcOf t r.toNat l = some z ∧ z.tags = Vector.replicate 4 (rinOf s r.toNat) ∧
          (if r = 4 ∨ y.stores = 0 then z.st = .e ∧ z.dirty = 0 else z.st = .m ∧ z.dirty = y.stores) ∧
          ∀ h, (true, h) ∈ y.waiters → .run h .hart ∈ t.sched) ∧
        (∃ t, exec (.inv r line) s = .next t ∧ (rdcOf t r.toNat l).map RdcLine.st = some .ie ∧ t.pending = s.hostIn ++ (s.pending ++ [.invack r line]))) ∧
      (y.st = .s → ∃ t, exec (.inv r line) s = .next t ∧ rdcOf t r.toNat l = none ∧ t.pending = s.hostIn ++ (s.pending ++ [.invack r line])) ∧
      (y.st = .e ∨ y.st = .m → ∀ a, a = (if y.st = .e then .ack r line false else .ackd r line y.dirty) →
        (∃ t, exec (.recalls r line) s = .next t ∧ (rdcOf t r.toNat l).map RdcLine.st = some .s ∧ (rdcOf t r.toNat l).map RdcLine.dirty = some 0 ∧
          t.pending = s.hostIn ++ (s.pending ++ [a])) ∧
        (∃ t, exec (.recalli r line) s = .next t ∧ rdcOf t r.toNat l = none ∧ t.pending = s.hostIn ++ (s.pending ++ [a]))) ∧
      (y.st = .xi →
        (∃ t, exec (.wback r line) s = .next t ∧ rdcOf t r.toNat l = none ∧ t.pending = s.hostIn ++ s.pending) ∧
        (∃ t, exec (.recalls r line) s = .next t ∧ (rdcOf t r.toNat l).map RdcLine.st = some .xi ∧
          t.pending = s.hostIn ++ (s.pending ++ [.ack r line true])) ∧
        (∃ t, exec (.recalli r line) s = .next t ∧ (rdcOf t r.toNat l).map RdcLine.st = some .xi ∧
          t.pending = s.hostIn ++ (s.pending ++ [.ack r line true]))))

/-- 19 R409 to R413, Table 19.1: the timer requests the open interval; the coordinator starts the seal it is asked for; START records the scheduler and opens the
next interval on every die; the drain leaves no dirty copy of the sealed interval and votes; the last vote seals; SEALED makes the interval the newest sealed one,
drops its undo entries and seals the nodes that were DONE in it; a vote that does not come loses the chip and rolls back.
Order of events log 6; the bits of a seal frame on Strait, and what VOTE_TIMEOUT means on another chip than the coordinator, are the model's (log 26);
when parity builds start log 25. -/
def Obligations.SealEvents : Prop :=
  ∀ (s : State) (n : W32),
    (s.rollingBack = false → ((mgmtGet s 0x90000).toNat % 2 ^ 32 ≠ 0 →
        exec .sealTimer s = .next { s with pending := s.pending ++ [.sealRequest (rinOf s 0)] }) ∧
      ((mgmtGet s 0x90000).toNat % 2 ^ 32 = 0 → exec .sealTimer s = .next s)) ∧
    (s.rollingBack = false → rinUpTo (rinOf s 0) s.sealedRin = false →
      (s.sealing = none → isCoordinator s = true → ∃ t, exec (.sealRequest (rinOf s 0)) s = .next t ∧ .start (rinOf s 0) ∈ t.pending) ∧
      (∀ x, s.sealing = some x → rinUpTo (rinOf s 0) x.n = false → exec (.sealRequest (rinOf s 0)) s = .next { s with sealNext := true })) ∧
    (s.rollingBack = false → rinUpTo n s.sealedRin = false → s.sealing = none →
      ∃ t, exec (.start n) s = .next t ∧ (∀ d, d < 4 → rinOf t d = n + 1) ∧ t.sealing = some ⟨n, 2, 0, s.clock, ckptOf s⟩ ∧ .sealDrainDone ∈ t.pending ∧
        t.mem = s.mem ∧ t.vs = s.vs ∧ t.hart = s.hart) ∧
    (∀ x, s.sealing = some x → x.stage = 2 → isCoordinator s = true →
      ∃ t, exec .sealDrainDone s = .next t ∧ t.sealing = some { x with stage := 4 } ∧ (∀ c ∈ t.nc, c.dirty ≠ 0 → rinUpTo c.tag x.n = false) ∧
        (∀ y ∈ t.rdc, y.agent ≠ 4 → y.st = .m → ∀ i, y.dirty.getLsbD i = true → rinUpTo (y.tags.toList.getD i 0) x.n = false) ∧
        .vote (BitVec.ofNat 6 (selfChip s)) x.n ∈ t.pending) ∧
    (∀ x chip, s.sealing = some x → x.n = n → isCoordinator s = true → (members s).getLsbD chip.toNat = true →
      ∃ t, exec (.vote chip n) s = .next t ∧ t.sealing = some { x with votes := x.votes ||| BitVec.ofNat 64 (2 ^ chip.toNat) } ∧
        (members s &&& ~~~(x.votes ||| BitVec.ofNat 64 (2 ^ chip.toNat)) = 0 → members s &&& ~~~x.votes ≠ 0 → .sealed n ∈ t.pending)) ∧
    (∀ x, s.sealing = some x → x.n = n → 4 ≤ x.stage →
      (s.parity = .idle → ∃ t, exec (.sealed n) s = .next t ∧ t.sealedRin = n ∧ t.sealing = none ∧ (∀ e ∈ t.vs, e.undo = true → rinUpTo e.tag n = false) ∧
        (∀ y ∈ t.nodes, y.state = .done → rinUpTo y.doneRin n = false) ∧
        t.ckpt.nodes.map (fun y => { y with pinned := false }) = x.record.nodes.map (fun y => { y.sealAt n with pinned := false })) ∧
      (∀ m g k, s.parity = .build m g k → exec (.sealed n) s = .next { s with sealing := some { x with stage := 5 } })) ∧
    (∀ x, s.sealing = some x → x.stage < 4 → exec (.sealed n) s = .next s) ∧
    (∀ x (chip : BitVec 6), s.sealing = some x → isCoordinator s = true → (members s).getLsbD chip.toNat = true → x.votes.getLsbD chip.toNat = false →
      chip.toNat ≠ selfChip s → s.rollingBack = false →
        ∃ t, exec (.voteTimeout chip) s = .next t ∧ t.lost.getLsbD chip.toNat = true ∧ t.pending.head? = some .rollback ∧ t.mem = s.mem)

/-- 19 R414 to R417, Table 19.2: a rollback stops every hart and engine, empties the caches and the version store, writes each sector that one undo entry of the
open intervals covers back to that entry and leaves sectors without an entry as they are, and opens the interval after the newest sealed one. 20 R430 to R432:
a parity build commits its generation, a rebuild is started or refused, and its end lets leasing go on.
What other chips hold, and which chip is a replacement (log 25), GO bits (log 52) and the restored graphs (log 53) are the model's. -/
def Obligations.RollbackAndParity : Prop :=
  ∀ (s : State),
    (s.unrec = [] → ∃ t, exec .rollback s = .next t ∧ t.hart = Hart.absent ∧ t.others = [] ∧ t.transfers = [] ∧ t.nc = [] ∧ (∀ y ∈ t.rdc, y.agent = 4) ∧
      (∀ e ∈ t.dir, e.st.holders &&& 0xF = 0) ∧ t.vs = [] ∧ t.sealedRin = s.sealedRin ∧ (∀ d, d < 4 → rinOf t d = s.sealedRin + 1) ∧
      t.rollingBack = false ∧ t.sealing = none ∧
      (∀ e, e ∈ s.vs → e.undo = true → rinUpTo e.tag s.sealedRin = false → e.held = false → (∀ f ∈ s.vs, f.sector = e.sector → f = e) →
        (s.vs.filter (fun f => decide (f.sector = e.sector))).length = 1 → memBytes t (e.sector * 64) 64 = natBytes e.data.toNat 64) ∧
      (∀ a, (∀ e ∈ s.vs, e.sector ≠ a / 64) → t.byteAt a = s.byteAt a) ∧
      (∀ x ∈ s.ckpt.nodes, versionOk s.ckpt.version.toNat (Config.imageMinor (Store.get zeroOf s.phys.digests 3)) = true → x.state.inFlight = true →
        x.num ∉ failed s → ∃ y ∈ t.nodes, y.num = x.num ∧ y.state = .ready ∧ .nodeReady x.num ∈ t.pending)) ∧
    (∀ n gen k, s.parity = .build n gen k → (mgmtGet s 0xA0410).toNat ≤ k → groupWhole s = true → ∃ t, exec .parityBuildDone s = .next t ∧
      t.parity = .idle ∧ t.parGen = gen ∧ mgmtGet t 0xA0428 >>> 32 = n.setWidth 64 ∧ (mgmtGet t 0xA0428).getLsbD 9 = (mgmtGet s 0xA0428).getLsbD 9) ∧
    (∀ v : Word, ∃ t, exec (.parRbGo v) s = .next t ∧ mgmtGet t 0xA0430 = v &&& 0x7E ∧
      (s.parity = .idle → parityOn s = true → (mgmtGet s 0xA0418).getLsbD (v.toNat / 2 % 64) = true → v.toNat / 2 % 64 ≠ selfChip s →
        (dirtyStripe s (v.toNat / 2 % 64) = true → (mgmtGet t 0xA0428).getLsbD 9 = true ∧ t.parity = .idle) ∧
        (t.parity = .rebuild (BitVec.ofNat 6 (v.toNat / 2 % 64)) ∨ (mgmtGet t 0xA0428).getLsbD 9 = true))) ∧
    (∀ c, s.parity = .rebuild c →
      (groupWhole s = true → s.rollingBack = false → ∃ t, exec .rebuildDone s = .next t ∧ t.parity = .finish (rinOf s 0) ∧
        t.leaseHeld = s.leaseHeld ∧ .sealRequest (rinOf s 0) ∈ t.pending) ∧
      (groupWhole s = false → exec .rebuildDone s = .next s)) ∧
    (∀ x : BitVec 6, s.parity = .idle → parityOn s = true → (mgmtGet s 0xA0418).getLsbD x.toNat = true →
      (x.toNat = selfChip s → (joinRebuild s x).parity = .restore 0) ∧
      (x.toNat ≠ selfChip s → dirtyStripe s x.toNat = false → (joinRebuild s x).parity = .rebuild x) ∧
      (x.toNat ≠ selfChip s → dirtyStripe s x.toNat = true → joinRebuild s x = s) ∧
      (joinRebuild s x ≠ s → (mgmtGet (joinRebuild s x) 0xA0428).getLsbD 8 = true ∧ (joinRebuild s x).mem = s.mem)) ∧
    (∀ m x, s.parity = .finish m → s.sealing = some x → 4 ≤ x.stage → rinUpTo m x.n = true → ∃ t, exec (.sealed x.n) s = .next t ∧ t.leaseHeld = false ∧
      ((t.parity = .idle ∧ (mgmtGet t 0xA0428).getLsbD 8 = false) ∨ t.parity = .build x.n (!s.parGen) 0))

/-- 20 R423 to R425 and 21 R435 to R441: links train (where 22 Table 22.1 lets them) and go down, frames are forwarded, and the host's writes, reads, atomics and graph posts of device memory
act on the bytes that home holds.
The codes of the host's atomics and the end of a row of replays (log 27, log 26), that an event of the host needs no port that is up (log 50), and
that one which no table carries changes nothing (log 59), are the model's. -/
def Obligations.LinkAndHostEvents : Prop :=
  ∀ (s : State),
    (∀ (port : BitVec 4) (peer : BitVec 6) (dom : Word) (ver : BitVec 8) (lanes : BitVec 4), ver = 0x10 ∨ ver = 0x11 →
      (lanes = 8 ∨ (lanes = 4 ∧ ver = 0x11) → linksStayDown s = false → ∃ t, exec (.straitLinkTrain port peer dom ver lanes) s = .next t ∧
        (mgmtGet t (0xA0000 + 8 * port.toNat)).getLsbD 0 = true ∧
        ((mgmtGet t (0xA0000 + 8 * port.toNat)).getLsbD 1 = true ↔ (dom ≠ mgmtGet s 0x90010 ∨ (mgmtGet s 0x90010).getLsbD peer.toNat = false)) ∧
        (dom = mgmtGet s 0x90010 → (mgmtGet s 0x90010).getLsbD peer.toNat = true →
          t.lost.getLsbD peer.toNat = false ∧ ∀ c ∈ routedBy s port.toNat, t.lost.getLsbD c = false)) ∧
      (linksStayDown s = true ∨ (lanes ≠ 8 ∧ (lanes ≠ 4 ∨ ver = 0x10)) → ∃ t, exec (.straitLinkTrain port peer dom ver lanes) s = .next t ∧
        mgmtGet t (0xA0000 + 8 * port.toNat) = 0)) ∧
    (∀ (port : BitVec 4) (l : Word), l = mgmtGet s (0xA0000 + 8 * port.toNat) →
      ∃ t, exec (.straitLinkDown port) s = .next t ∧ mgmtGet t (0xA0000 + 8 * port.toNat) = 0 ∧
        (l.getLsbD 0 = true → l.getLsbD 1 = false → ∀ c ∈ routedBy s port.toNat, c ≠ selfChip s → (members s).getLsbD c = true →
          t.lost.getLsbD c = true ∧ (s.rollingBack = false → t.pending.head? = some .rollback)) ∧
        (l.getLsbD 0 = false ∨ l.getLsbD 1 = true → t.lost = s.lost ∧ t.pending = s.pending)) ∧
    (∀ port : BitVec 4, ∃ t, exec (.straitFlitReplay port) s = .next t ∧ mgmtGet t 0xA0300 = mgmtGet s 0xA0300 + 1 ∧
      (Store.get zeroOf s.straitFails port.toNat = 15 → .straitLinkDown port ∈ t.pending) ∧
      (Store.get zeroOf s.straitFails port.toNat ≠ 15 → t = { s with mgmt := t.mgmt, straitFails := t.straitFails })) ∧
    (∀ port : BitVec 1, ∃ t, exec (.cwFlitReplay port) s = .next t ∧ mgmtGet t 0xB0020 = mgmtGet s 0xB0020 + 1 ∧
      ((portRec s port.toNat).fails = 31 → .cwPortDown port ∈ t.pending) ∧
      ((portRec s port.toNat).fails ≠ 31 → t = { s with mgmt := t.mgmt, ports := t.ports })) ∧
    (∀ (dst : BitVec 6) (cls : BitVec 2) (body : List Byte),
      (∀ p, dst.toNat ≠ selfChip s → routeTo s dst.toNat cls.toNat = some p →
        exec (.frameForward dst cls body) s = .next { s with straitOut := s.straitOut ++ [⟨BitVec.ofNat 4 p, dst, cls, body⟩] }) ∧
      (dst.toNat = selfChip s ∨ routeTo s dst.toNat cls.toNat = none → exec (.frameForward dst cls body) s = .next s)) ∧
    (∀ (port : BitVec 1) (ver : BitVec 8) (lanes : BitVec 4),
      ((portRec s port.toNat).retrained = true → exec (.cwPortTrain port ver lanes) s = .next s) ∧
      (0x10 ≤ ver.toNat → ver.toNat ≤ 0x13 → (portRec s port.toNat).retrained = false →
        ∃ t, exec (.cwPortTrain port ver lanes) s = .next t ∧
          ((portRec t port.toNat).retrained = true ↔ (mgmtGet t (0xB0008 + 8 * port.toNat)).getLsbD 0 = false) ∧
          ((mgmtGet t (0xB0008 + 8 * port.toNat)).getLsbD 0 = true ↔
            ((lanes = 15 ∧ journalLast s 14 ≠ 4) ∨ ((lanes = 8 ∨ lanes = 15) ∧ 0x12 ≤ ver.toNat))))) ∧
    (∀ port : BitVec 1, ∃ t, exec (.cwPortDown port) s = .next t ∧ mgmtGet t (0xB0008 + 8 * port.toNat) = 0 ∧ t.mem = s.mem) ∧
    (∀ (pa : BitVec 52) (u : State), s.boot = .running → s.hostIn = [] → deviceMem s pa.toNat = true → u = heard s (entryPort s pa.toNat) →
      (∀ bs : List Byte, 0 < bs.length → pa.toNat % 64 + bs.length ≤ 64 → (hostWrite u (pa.toNat / 256) (pa.toNat / 64)).isSome →
        ∃ t, exec (.hostPostedWrite pa bs) s = .next t ∧ memBytes t pa.toNat bs.length = bs ∧ SameBytesOutside s t pa.toNat bs.length ∧
          t.hart.still = s.hart.still) ∧
      (∀ n v, 0 < n → n ≤ 4096 → (∀ k, k < n → deviceMem s (pa.toNat + k) = true) → poisonIn s pa.toNat n = none →
        hostReadLines u (linesOf pa.toNat n) = .ok v →
          ∃ t, exec (.hostRead pa n) s = .next t ∧ t.hostOut = s.hostOut ++ [.readReply (memBytes s pa.toNat n)] ∧ t.hart = s.hart) ∧
      (∀ (op : BitVec 4) (w4 : Bool) (v : Word) (n : Nat), n = (if w4 then 4 else 8) → op.toNat ≤ 8 → pa.toNat % n = 0 → poisonIn s pa.toNat n = none →
        (hostWrite u (pa.toNat / 256) (pa.toNat / 64)).isSome →
          ∃ t, exec (.hostAtomic op w4 pa v) s = .next t ∧ t.hostOut = s.hostOut ++ [.atomicReply (BitVec.ofNat 64 (memNat s pa.toNat n))] ∧
            memNat t pa.toNat n = hostOp op.toNat (8 * n) (memNat s pa.toNat n) (v.toNat % 2 ^ (8 * n)) % 2 ^ (8 * n) ∧
            SameBytesOutside s t pa.toNat n ∧ t.hart.still = s.hart.still) ∧
      (∀ v : Word, hostStores s = true → exec (.graphPost pa v) s = .next { u with hostIn := [.graphPost pa v] }) ∧
      (∀ v : Word, pa.toNat % 8 = 0 → hostStores s = false → (hostWrite u (pa.toNat / 256) (pa.toNat / 64)).isSome →
        ∃ t, exec (.graphPost pa v) s = .next t ∧ memNat t pa.toNat 8 = v.toNat ∧ SameBytesOutside s t pa.toNat 8 ∧
          (∀ g : BitVec 6, .followArmedWord g ∈ t.pending → .followArmedWord g ∈ s.pending ∨ armedByHost s g.toNat pa.toNat = true) ∧
          ((∀ g, g < 64 → armedByHost s g pa.toNat = false) → mgmtGet t 0xB0018 = mgmtGet s 0xB0018 + 1))) ∧
    (∀ (op : BitVec 4) (w4 : Bool) (pa : BitVec 52) (v : Word),
      (pa.toNat % (if w4 then 4 else 8) ≠ 0 → exec (.hostAtomic op w4 pa v) s = .next s) ∧
      (pa.toNat % (if w4 then 4 else 8) = 0 → op.toNat ≤ 8 → s.boot = .running → s.hostIn = [] → deviceMem s pa.toNat = false → isMgmt pa.toNat = false →
        isHost pa.toNat = false →
          ∃ t, exec (.hostAtomic op w4 pa v) s = .next t ∧ t.hostOut.getLast? = some (.atomicReply 0) ∧ SameBytes s t))

/-- 22 R447, R449 to R451, Table 22.2: the live update stops admission, waits for quiet, seals, hands over and is committed by a heartbeat or reverts; the debug
unlock; the measurements.
Nonces (log 13), the address of what is handed over (log 28), the signed message (log 29), GO bits (log 52), and that an end of a wait which is not on
changes nothing (log 59), are the model's. -/
def Obligations.FirmwareEvents : Prop :=
  ∀ (s : State),
    (∀ (v : Word) (d : BitVec 256), s.fw = .idle →
      (∃ t, exec (.fwUpdateGo v true d) s = .next t ∧ t.fw = .quiesce d s.clock ∧ mgmtGet t 0xC0088 = v &&& 0xFFFFFFFF ∧ (quiet s = true → .fwQuiesceDone ∈ t.pending)) ∧
      (∃ t, exec (.fwUpdateGo v false d) s = .next t ∧ t.fw = .idle ∧ mgmtGet t 0xC0090 = (mgmtGet s 0xC0090 &&& 8) ||| 2)) ∧
    (∀ d r, s.fw = .quiesce d r →
      (quiet s = true → ∃ t, exec .fwQuiesceDone s = .next t ∧ t.fw = .sealing d (rinOf s 0) ∧ t.mem = s.mem) ∧
      (∃ t, exec .fwQuiesceTimeout s = .next t ∧ t.fw = .idle ∧ mgmtGet t 0xC0090 = (mgmtGet s 0xC0090 &&& 8) ||| 3)) ∧
    (∀ d n, s.fw = .sealing d n → rinUpTo n s.sealedRin = true →
      vsRoom s 0 (saveNeeds s handoverAddress (roundUp (handoverBytes s n).length 64)) = true → ∃ t, exec .fwHandover s = .next t ∧ t.fw = .await d s.clock ∧
      memNat t handoverAddress 4 = 0x444E4148 ∧ mgmtGet t 0xC0090 = mgmtGet s 0xC0090 ^^^ 8 ∧ Store.get zeroOf t.oz.m 3 = extendM (Store.get zeroOf s.oz.m 3) d) ∧
    (∀ d r, s.fw = .await d r →
      (∀ v, (handoverLength s (Config.imageMinor d)).isSome → ∃ t, exec (.fwHb v) s = .next t ∧ t.fw = .idle ∧
        mgmtGet t 0xC0090 = (mgmtGet s 0xC0090 &&& 8) ||| 1 ∧ mgmtGet t 0xC0098 = v ∧ Store.get zeroOf t.phys.digests 3 = d) ∧
      (∀ v, handoverLength s (Config.imageMinor d) = none → ∃ t, exec (.fwHb v) s = .next t ∧ mgmtGet t 0xC0098 = v ∧ t = { s with mgmt := t.mgmt }) ∧
      (∃ t, exec .fwHbTimeout s = .next t ∧ t.fw = .idle ∧ mgmtGet t 0xC0090 = ((mgmtGet s 0xC0090 ^^^ 8) &&& 8) ||| 4 ∧
        Store.get zeroOf t.oz.m 3 = extendM (Store.get zeroOf s.oz.m 3) (Store.get zeroOf s.phys.digests 3))) ∧
    (∀ tok, s.boot ≠ .dead →
      ((∃ g : BitVec 6, graphOn s g = true) → exec (.debugUnlock tok) s = .next { s with hostOut := s.hostOut ++ [.debugStatus true false] }) ∧
      ((∀ g : BitVec 6, graphOn s g = false) → s.phys.fusesOk = false → ∃ t, exec (.debugUnlock tok) s = .next t ∧ t.hostOut = s.hostOut ++ [.debugStatus false false] ∧
        t.oz = s.oz ∧ (mgmtGet t 0xC00C0).toNat / 2 ^ 32 = ((mgmtGet s 0xC00C0).toNat / 2 ^ 32 + 1) % 2 ^ 32 ∧
        (mgmtGet t 0xC00C0).toNat % 2 ^ 32 = (mgmtGet s 0xC00C0).toNat % 2 ^ 32) ∧
      ((∀ g : BitVec 6, graphOn s g = false) → s.phys.fusesOk = true → ∃ t, exec (.debugUnlock tok) s = .next t ∧
        (tokenOk s tok = true → t.hostOut = s.hostOut ++ [.debugStatus false true] ∧ (∀ k, 2 ≤ k → k ≤ 15 → ozFull t k = false)) ∧
        (tokenOk s tok = false → t.hostOut = s.hostOut ++ [.debugStatus false false] ∧ t.oz = s.oz ∧
          (mgmtGet t 0xC00C0).toNat / 2 ^ 32 = ((mgmtGet s 0xC00C0).toNat / 2 ^ 32 + 1) % 2 ^ 32))) ∧
    (s.boot ≠ .dead →
      (∀ e, exec (.negotiateAlgorithms true e) s = .next { s with
          oz := { s.oz with sigSelected := e },
          hostOut := s.hostOut ++ [.algorithms ⟨[.sha3_256], [.sha3_256], 0, [(.iana, Config.enterpriseNumber, 0x0001)]⟩] }) ∧
      (∀ e, exec (.negotiateAlgorithms false e) s = .next { s with hostOut := s.hostOut ++ [.spdmError] }) ∧
      (∀ nonce, exec (.getMeasurements false nonce) s =
        .next { s with hostOut := s.hostOut ++ [.measurements ((List.range 6).map (fun i => Store.get zeroOf s.oz.m i)) []] }) ∧
      (∀ nonce, s.oz.sigSelected = false → exec (.getMeasurements true nonce) s = .next { s with hostOut := s.hostOut ++ [.spdmError] }))

/-- 23 R452 to R456, Table 23.4: what a cold and a warm reset leave, each event that causes one, and throttling. A cold reset zeroes device memory (but for the
placement profile that the start then writes, log 31) and clears poison; a warm one keeps both; neither leaves a node, a hart, an entry of the version store
or an unreleased egress entry, and host memory stays.
The placement profile's address (log 31) and what a reset reads before it clears registers (log 55) are the model's. -/
def Obligations.ResetEvents : Prop :=
  ∀ (s : State),
    (exec .rstCtlCold s = .next (coldReset s 1) ∧ exec .powerUp s = .next (coldReset s 1) ∧ exec .supplyFault s = .next (coldReset s 4) ∧
      exec .referenceLoss s = .next (coldReset s 4) ∧ exec (.resetInput true) s = .next (coldReset s 1) ∧
      exec .rstCtlWarm s = .next (warmReset s 2) ∧ exec (.resetInput false) s = .next (warmReset s 2) ∧
      (∀ die (tj : BitVec 8), 110 ≤ tj.toNat → exec (.thermalTrip die tj) s = .next (coldReset s 3))) ∧
    (∀ k, (∀ a, isDeviceMem a = true → (a < profileAddress ∨ profileAddress + 2112 ≤ a) → (coldReset s k).byteAt a = 0) ∧
      (∀ a, isHost a = true → (coldReset s k).byteAt a = s.byteAt a) ∧ (coldReset s k).poison = [] ∧
      (∀ d, d < 4 → mgmtGet (coldReset s k) (0xD0018 + 0x40 * d) = BitVec.ofNat 64 k)) ∧
    (∀ k, (∀ a, (a < profileAddress ∨ profileAddress + 2112 ≤ a) → (warmReset s k).byteAt a = s.byteAt a) ∧ (warmReset s k).poison = s.poison ∧
      (∀ d, d < 4 → mgmtGet (warmReset s k) (0xD0018 + 0x40 * d) = BitVec.ofNat 64 k)) ∧
    (∀ k t, t = coldReset s k ∨ t = warmReset s k → t.nodes = [] ∧ t.hart = Hart.absent ∧ t.others = [] ∧ t.vs = [] ∧ t.egress = [] ∧ t.transfers = [] ∧
      t.sealedRin = 0 ∧ (∀ d, rinOf t d = 1) ∧ t.lost = 0) ∧
    (∀ (die : BitVec 2) (tj : BitVec 8),
      (tj.toNat < 100 → ∃ t, exec (.thermalThrottle die tj) s = .next t ∧ t = { s with mgmt := t.mgmt } ∧
        (mgmtGet t (0xD0000 + 0x40 * die.toNat)).getLsbD 3 = (mgmtGet s (0xD0000 + 0x40 * die.toNat)).getLsbD 3) ∧
      (tj.toNat < 110 → ∃ t, exec (.thermalTrip die tj) s = .next t ∧ t = { s with mgmt := t.mgmt }) ∧
      (100 ≤ tj.toNat → ∃ t, exec (.thermalThrottle die tj) s = .next t ∧ mgmtGet t (0xD0000 + 0x40 * die.toNat) = BitVec.ofNat 64 (tj.toNat * 65536 + 8) ∧
        t = { s with mgmt := t.mgmt }) ∧
      (tj.toNat < 90 → ∃ t, exec (.thermalRecover die tj) s = .next t ∧ t = { s with mgmt := t.mgmt } ∧
        mgmtGet t (0xD0000 + 0x40 * die.toNat) = BitVec.ofNat 64 (tj.toNat * 65536 + s.opSel.toNat / 4 ^ die.toNat % 4)))
end

