-- ==== Sys2Proof/Laws/Store.lean ====
section
/-! SUPPORT. Sys2Proof/Laws/Store.lean: reading after writing, and the canonical form, of sparse data. -/
namespace Sys2Proof.Machine

variable {w : Nat} (d : Nat → BitVec w)

theorem Store.get_append_left (m r : Store w) (j : Nat) (h : ∀ e ∈ m, e.1 ≠ j) : Store.get d (m ++ r) j = Store.get d r j := by
  induction m with
  | nil => rfl
  | cons e m ih =>
    have he : j ≠ e.1 := fun hh => h e (by simp) hh.symm
    simp only [List.cons_append, Store.get, he, if_false]
    exact ih (fun x hx => h x (by simp [hx]))

theorem Store.get_filter (m : Store w) (p : Nat → Bool) (j : Nat) (h : p j = true) : Store.get d (m.filter (fun e => p e.1)) j = Store.get d m j := by
  induction m with
  | nil => rfl
  | cons e m ih =>
    by_cases he : p e.1 = true
    · simp only [List.filter_cons, he, if_true, Store.get, ih]
    · have : j ≠ e.1 := fun hh => he (hh ▸ h)
      simp only [List.filter_cons, he, Store.get, this, if_false, ih, Bool.false_eq_true]

theorem Store.get_none (m : Store w) (j : Nat) (h : ∀ e ∈ m, e.1 ≠ j) : Store.get d m j = d j := by
  have := Store.get_append_left d m [] j h
  rwa [List.append_nil] at this

theorem Store.get_append_right (m r : Store w) (j : Nat) (h : ∀ e ∈ r, e.1 ≠ j) : Store.get d (m ++ r) j = Store.get d m j := by
  induction m with
  | nil => exact Store.get_none d r j h
  | cons e m ih => simp only [List.cons_append, Store.get, ih]

theorem Store.fresh_keys (k : Nat) (vs : List (BitVec w)) : ∀ e ∈ Store.fresh d k vs, k ≤ e.1 ∧ e.1 < k + vs.length := by
  induction vs generalizing k with
  | nil => simp [Store.fresh]
  | cons v vs ih =>
    intro e he
    have := ih (k + 1) e
    simp only [Store.fresh] at he
    split at he
    · have := this he; simp only [List.length_cons]; omega
    · rcases List.mem_cons.1 he with rfl | he
      · simp
      · have := this he; simp only [List.length_cons]; omega

theorem Store.get_fresh (k j : Nat) (vs : List (BitVec w)) (h : k ≤ j) (h2 : j < k + vs.length) :
    Store.get d (Store.fresh d k vs) j = vs.getD (j - k) 0 := by
  induction vs generalizing k with
  | nil => simp at h2; omega
  | cons v vs ih =>
    simp only [List.length_cons] at h2
    simp only [Store.fresh]
    by_cases hj : j = k
    · subst hj
      split
      · next hv =>
        rw [Store.get_none d _ _ (fun e he => by have := Store.fresh_keys d (j + 1) vs e he; omega)]
        simp [hv]
      · simp [Store.get]
    · have h3 : j - k = (j - (k + 1)) + 1 := by omega
      split
      · rw [ih (k + 1) (by omega) (by omega), h3, List.getD_cons_succ]
      · simp only [Store.get, hj, if_false]
        rw [ih (k + 1) (by omega) (by omega), h3, List.getD_cons_succ]

/-- A read of a key that a write did not reach. -/
theorem Store.get_write_out (m : Store w) (k j : Nat) (vs : List (BitVec w)) (h : j < k ∨ k + vs.length ≤ j) :
    Store.get d (Store.write d m k vs) j = Store.get d m j := by
  unfold Store.write
  rcases h with h | h
  · rw [Store.get_append_right, Store.get_filter d m (fun a => decide (a < k)) j (by simpa using h)]
    intro e he
    rcases List.mem_append.1 he with he | he
    · have := Store.fresh_keys d k vs e he; omega
    · have := (List.mem_filter.1 he).2; simp at this; omega
  · rw [Store.get_append_left, Store.get_append_left, Store.get_filter d m (fun a => decide (k + vs.length ≤ a)) j (by simpa using h)]
    · intro e he; have := Store.fresh_keys d k vs e he; omega
    · intro e he; have := (List.mem_filter.1 he).2; simp at this; omega

/-- A read of a key that a write reached gives the value written there. -/
theorem Store.get_write_in (m : Store w) (k j : Nat) (vs : List (BitVec w)) (h : k ≤ j) (h2 : j < k + vs.length) :
    Store.get d (Store.write d m k vs) j = vs.getD (j - k) 0 := by
  unfold Store.write
  rw [Store.get_append_left, Store.get_append_right, Store.get_fresh d k j vs h h2]
  · intro e he; have := (List.mem_filter.1 he).2; simp at this; omega
  · intro e he; have := (List.mem_filter.1 he).2; simp at this; omega

@[simp] theorem Store.get_set_same (m : Store w) (k : Nat) (v : BitVec w) : Store.get d (Store.set d m k v) k = v := by
  unfold Store.set
  rw [Store.get_write_in d m k k [v] (Nat.le_refl k) (by simp)]
  simp

theorem Store.get_set_ne (m : Store w) (k j : Nat) (v : BitVec w) (h : j ≠ k) : Store.get d (Store.set d m k v) j = Store.get d m j :=
  Store.get_write_out d m k j [v] (by simp only [List.length_singleton]; omega)

theorem Store.get_set (m : Store w) (k j : Nat) (v : BitVec w) : Store.get d (Store.set d m k v) j = if j = k then v else Store.get d m j := by
  split
  · next h => rw [h, Store.get_set_same]
  · next h => exact Store.get_set_ne d m k j v h

theorem Store.fresh_wf (k : Nat) (vs : List (BitVec w)) : Store.wf d (Store.fresh d k vs) := by
  induction vs generalizing k with
  | nil => exact ⟨List.Pairwise.nil, by simp [Store.fresh]⟩
  | cons v vs ih =>
    simp only [Store.fresh]
    split
    · exact ih (k + 1)
    · next hv =>
      refine ⟨List.Pairwise.cons (fun e he => ?_) (ih (k + 1)).1, fun e he => ?_⟩
      · have := Store.fresh_keys d (k + 1) vs e he; simp only; omega
      · rcases List.mem_cons.1 he with rfl | he
        · exact hv
        · exact (ih (k + 1)).2 e he

/-- Writing keeps the canonical form. -/
theorem Store.write_wf (m : Store w) (k : Nat) (vs : List (BitVec w)) (h : Store.wf d m) : Store.wf d (Store.write d m k vs) := by
  have hf := Store.fresh_wf d k vs
  have hk := Store.fresh_keys d k vs
  unfold Store.write
  refine ⟨List.pairwise_append.2 ⟨h.1.filter _, List.pairwise_append.2 ⟨hf.1, h.1.filter _, ?_⟩, ?_⟩, ?_⟩
  · intro a ha b hb
    have h1 := hk a ha
    have h2 := (List.mem_filter.1 hb).2
    simp only [decide_eq_true_eq] at h2
    omega
  · intro a ha b hb
    have h1 := (List.mem_filter.1 ha).2
    simp only [decide_eq_true_eq] at h1
    rcases List.mem_append.1 hb with hb | hb
    · have := hk b hb; omega
    · have h2 := (List.mem_filter.1 hb).2
      simp only [decide_eq_true_eq] at h2
      omega
  · intro e he
    rcases List.mem_append.1 he with he | he
    · exact h.2 e (List.mem_filter.1 he).1
    · rcases List.mem_append.1 he with he | he
      · exact hf.2 e he
      · exact h.2 e (List.mem_filter.1 he).1

theorem Store.set_wf (m : Store w) (k : Nat) (v : BitVec w) (h : Store.wf d m) : Store.wf d (Store.set d m k v) := Store.write_wf d m k [v] h

theorem Store.nil_wf : Store.wf d ([] : Store w) := ⟨List.Pairwise.nil, by simp⟩

@[simp] theorem Store.length_read (m : Store w) (k n : Nat) : (Store.read d m k n).length = n := by
  induction n generalizing k with
  | zero => rfl
  | succ n ih => simp [Store.read, ih]

/-- Reading a run is reading each of its keys. -/
theorem Store.read_eq_map (m : Store w) (k n : Nat) : Store.read d m k n = (List.range n).map (fun i => Store.get d m (k + i)) := by
  induction n generalizing k with
  | zero => rfl
  | succ n ih =>
    rw [Store.read, ih, List.range_succ_eq_map, List.map_cons, List.map_map]
    simp only [Nat.add_zero, Function.comp_def, Nat.succ_eq_add_one, List.cons.injEq, true_and]
    exact List.map_congr_left (fun i _ => by rw [show k + (i + 1) = k + 1 + i from by omega])

/-- Two stores that agree on a run read alike there. -/
theorem Store.read_congr (m n : Store w) (k c : Nat) (h : ∀ a, k ≤ a → a < k + c → Store.get d m a = Store.get d n a) :
    Store.read d m k c = Store.read d n k c := by
  rw [Store.read_eq_map, Store.read_eq_map]
  exact List.map_congr_left (fun i hi => h _ (by omega) (by have := List.mem_range.1 hi; omega))

/-- A run read back after it has been written. -/
theorem Store.read_write_same (m : Store w) (k : Nat) (vs : List (BitVec w)) : Store.read d (Store.write d m k vs) k vs.length = vs := by
  rw [Store.read_eq_map]
  apply List.ext_getElem (by simp)
  intro i h1 h2
  rw [List.getElem_map, List.getElem_range, Store.get_write_in d m k (k + i) vs (by omega) (by omega), Nat.add_sub_cancel_left]
  simp [List.getD_eq_getElem?_getD, h2]

end Sys2Proof.Machine
end

