-- ==== Sys2Proof/Laws/State.lean ====
section
/-! SUPPORT. Sys2Proof/Laws/State.lean: one lemma for each field of the state under each named update of it, so that no proof unfolds a record update. -/
namespace Sys2Proof.Machine

variable (s : State)

@[simp] theorem raiseEvents_agent (l : List Instr) : (raiseEvents s l).agent = s.agent := rfl
@[simp] theorem raiseEvents_hart (l : List Instr) : (raiseEvents s l).hart = s.hart := rfl
@[simp] theorem raiseEvents_others (l : List Instr) : (raiseEvents s l).others = s.others := rfl
@[simp] theorem raiseEvents_mem (l : List Instr) : (raiseEvents s l).mem = s.mem := rfl
@[simp] theorem raiseEvents_poison (l : List Instr) : (raiseEvents s l).poison = s.poison := rfl
@[simp] theorem raiseEvents_spad (l : List Instr) : (raiseEvents s l).spad = s.spad := rfl
@[simp] theorem raiseEvents_spadPoison (l : List Instr) : (raiseEvents s l).spadPoison = s.spadPoison := rfl
@[simp] theorem raiseEvents_nc (l : List Instr) : (raiseEvents s l).nc = s.nc := rfl
@[simp] theorem raiseEvents_counted (l : List Instr) : (raiseEvents s l).counted = s.counted := rfl
@[simp] theorem raiseEvents_dir (l : List Instr) : (raiseEvents s l).dir = s.dir := rfl
@[simp] theorem raiseEvents_rdc (l : List Instr) : (raiseEvents s l).rdc = s.rdc := rfl
@[simp] theorem raiseEvents_dirQueue (l : List Instr) : (raiseEvents s l).dirQueue = s.dirQueue := rfl
@[simp] theorem raiseEvents_act (l : List Instr) : (raiseEvents s l).act = s.act := rfl
@[simp] theorem raiseEvents_mgmt (l : List Instr) : (raiseEvents s l).mgmt = s.mgmt := rfl
@[simp] theorem raiseEvents_rin (l : List Instr) : (raiseEvents s l).rin = s.rin := rfl
@[simp] theorem raiseEvents_sealedRin (l : List Instr) : (raiseEvents s l).sealedRin = s.sealedRin := rfl
@[simp] theorem raiseEvents_sealing (l : List Instr) : (raiseEvents s l).sealing = s.sealing := rfl
@[simp] theorem raiseEvents_sealNext (l : List Instr) : (raiseEvents s l).sealNext = s.sealNext := rfl
@[simp] theorem raiseEvents_fillReq (l : List Instr) : (raiseEvents s l).fillReq = s.fillReq := rfl
@[simp] theorem raiseEvents_vsWaits (l : List Instr) : (raiseEvents s l).vsWaits = s.vsWaits := rfl
@[simp] theorem raiseEvents_lost (l : List Instr) : (raiseEvents s l).lost = s.lost := rfl
@[simp] theorem raiseEvents_leaseHeld (l : List Instr) : (raiseEvents s l).leaseHeld = s.leaseHeld := rfl
@[simp] theorem raiseEvents_vs (l : List Instr) : (raiseEvents s l).vs = s.vs := rfl
@[simp] theorem raiseEvents_egress (l : List Instr) : (raiseEvents s l).egress = s.egress := rfl
@[simp] theorem raiseEvents_ckpt (l : List Instr) : (raiseEvents s l).ckpt = s.ckpt := rfl
@[simp] theorem raiseEvents_parity (l : List Instr) : (raiseEvents s l).parity = s.parity := rfl
@[simp] theorem raiseEvents_parWrites (l : List Instr) : (raiseEvents s l).parWrites = s.parWrites := rfl
@[simp] theorem raiseEvents_parGen (l : List Instr) : (raiseEvents s l).parGen = s.parGen := rfl
@[simp] theorem raiseEvents_graphs (l : List Instr) : (raiseEvents s l).graphs = s.graphs := rfl
@[simp] theorem raiseEvents_nodes (l : List Instr) : (raiseEvents s l).nodes = s.nodes := rfl
@[simp] theorem raiseEvents_nextNode (l : List Instr) : (raiseEvents s l).nextNode = s.nextNode := rfl
@[simp] theorem raiseEvents_rot (l : List Instr) : (raiseEvents s l).rot = s.rot := rfl
@[simp] theorem raiseEvents_rotUsed (l : List Instr) : (raiseEvents s l).rotUsed = s.rotUsed := rfl
@[simp] theorem raiseEvents_arrivals (l : List Instr) : (raiseEvents s l).arrivals = s.arrivals := rfl
@[simp] theorem raiseEvents_nextHid (l : List Instr) : (raiseEvents s l).nextHid = s.nextHid := rfl
@[simp] theorem raiseEvents_spadZero (l : List Instr) : (raiseEvents s l).spadZero = s.spadZero := rfl
@[simp] theorem raiseEvents_lastCore (l : List Instr) : (raiseEvents s l).lastCore = s.lastCore := rfl
@[simp] theorem raiseEvents_inval (l : List Instr) : (raiseEvents s l).inval = s.inval := rfl
@[simp] theorem raiseEvents_freed (l : List Instr) : (raiseEvents s l).freed = s.freed := rfl
@[simp] theorem raiseEvents_placeQ (l : List Instr) : (raiseEvents s l).placeQ = s.placeQ := rfl
@[simp] theorem raiseEvents_resQ (l : List Instr) : (raiseEvents s l).resQ = s.resQ := rfl
@[simp] theorem raiseEvents_deferred (l : List Instr) : (raiseEvents s l).deferred = s.deferred := rfl
@[simp] theorem raiseEvents_transfers (l : List Instr) : (raiseEvents s l).transfers = s.transfers := rfl
@[simp] theorem raiseEvents_nextXfer (l : List Instr) : (raiseEvents s l).nextXfer = s.nextXfer := rfl
@[simp] theorem raiseEvents_peers (l : List Instr) : (raiseEvents s l).peers = s.peers := rfl
@[simp] theorem raiseEvents_collCounts (l : List Instr) : (raiseEvents s l).collCounts = s.collCounts := rfl
@[simp] theorem raiseEvents_errlog (l : List Instr) : (raiseEvents s l).errlog = s.errlog := rfl
@[simp] theorem raiseEvents_errSeq (l : List Instr) : (raiseEvents s l).errSeq = s.errSeq := rfl
@[simp] theorem raiseEvents_hostOut (l : List Instr) : (raiseEvents s l).hostOut = s.hostOut := rfl
@[simp] theorem raiseEvents_straitOut (l : List Instr) : (raiseEvents s l).straitOut = s.straitOut := rfl
@[simp] theorem raiseEvents_hostIn (l : List Instr) : (raiseEvents s l).hostIn = s.hostIn := rfl
@[simp] theorem raiseEvents_ports (l : List Instr) : (raiseEvents s l).ports = s.ports := rfl
@[simp] theorem raiseEvents_straitFails (l : List Instr) : (raiseEvents s l).straitFails = s.straitFails := rfl
@[simp] theorem raiseEvents_rollingBack (l : List Instr) : (raiseEvents s l).rollingBack = s.rollingBack := rfl
@[simp] theorem raiseEvents_unrec (l : List Instr) : (raiseEvents s l).unrec = s.unrec := rfl
@[simp] theorem raiseEvents_oz (l : List Instr) : (raiseEvents s l).oz = s.oz := rfl
@[simp] theorem raiseEvents_boot (l : List Instr) : (raiseEvents s l).boot = s.boot := rfl
@[simp] theorem raiseEvents_fw (l : List Instr) : (raiseEvents s l).fw = s.fw := rfl
@[simp] theorem raiseEvents_opSel (l : List Instr) : (raiseEvents s l).opSel = s.opSel := rfl
@[simp] theorem raiseEvents_phys (l : List Instr) : (raiseEvents s l).phys = s.phys := rfl
@[simp] theorem raiseEvents_pending (l : List Instr) : (raiseEvents s l).pending = s.pending ++ l := rfl
@[simp] theorem raiseEvents_sched (l : List Instr) : (raiseEvents s l).sched = s.sched := rfl
@[simp] theorem raiseEvents_clock (l : List Instr) : (raiseEvents s l).clock = s.clock := rfl
@[simp] theorem raiseEvents_turns (l : List Instr) : (raiseEvents s l).turns = s.turns := rfl
@[simp] theorem raiseEvents_free (l : List Instr) : (raiseEvents s l).free = s.free := rfl

@[simp] theorem raiseFirst_agent (l : List Instr) : (raiseFirst s l).agent = s.agent := rfl
@[simp] theorem raiseFirst_hart (l : List Instr) : (raiseFirst s l).hart = s.hart := rfl
@[simp] theorem raiseFirst_others (l : List Instr) : (raiseFirst s l).others = s.others := rfl
@[simp] theorem raiseFirst_mem (l : List Instr) : (raiseFirst s l).mem = s.mem := rfl
@[simp] theorem raiseFirst_poison (l : List Instr) : (raiseFirst s l).poison = s.poison := rfl
@[simp] theorem raiseFirst_spad (l : List Instr) : (raiseFirst s l).spad = s.spad := rfl
@[simp] theorem raiseFirst_spadPoison (l : List Instr) : (raiseFirst s l).spadPoison = s.spadPoison := rfl
@[simp] theorem raiseFirst_nc (l : List Instr) : (raiseFirst s l).nc = s.nc := rfl
@[simp] theorem raiseFirst_counted (l : List Instr) : (raiseFirst s l).counted = s.counted := rfl
@[simp] theorem raiseFirst_dir (l : List Instr) : (raiseFirst s l).dir = s.dir := rfl
@[simp] theorem raiseFirst_rdc (l : List Instr) : (raiseFirst s l).rdc = s.rdc := rfl
@[simp] theorem raiseFirst_dirQueue (l : List Instr) : (raiseFirst s l).dirQueue = s.dirQueue := rfl
@[simp] theorem raiseFirst_act (l : List Instr) : (raiseFirst s l).act = s.act := rfl
@[simp] theorem raiseFirst_mgmt (l : List Instr) : (raiseFirst s l).mgmt = s.mgmt := rfl
@[simp] theorem raiseFirst_rin (l : List Instr) : (raiseFirst s l).rin = s.rin := rfl
@[simp] theorem raiseFirst_sealedRin (l : List Instr) : (raiseFirst s l).sealedRin = s.sealedRin := rfl
@[simp] theorem raiseFirst_sealing (l : List Instr) : (raiseFirst s l).sealing = s.sealing := rfl
@[simp] theorem raiseFirst_sealNext (l : List Instr) : (raiseFirst s l).sealNext = s.sealNext := rfl
@[simp] theorem raiseFirst_fillReq (l : List Instr) : (raiseFirst s l).fillReq = s.fillReq := rfl
@[simp] theorem raiseFirst_vsWaits (l : List Instr) : (raiseFirst s l).vsWaits = s.vsWaits := rfl
@[simp] theorem raiseFirst_lost (l : List Instr) : (raiseFirst s l).lost = s.lost := rfl
@[simp] theorem raiseFirst_leaseHeld (l : List Instr) : (raiseFirst s l).leaseHeld = s.leaseHeld := rfl
@[simp] theorem raiseFirst_vs (l : List Instr) : (raiseFirst s l).vs = s.vs := rfl
@[simp] theorem raiseFirst_egress (l : List Instr) : (raiseFirst s l).egress = s.egress := rfl
@[simp] theorem raiseFirst_ckpt (l : List Instr) : (raiseFirst s l).ckpt = s.ckpt := rfl
@[simp] theorem raiseFirst_parity (l : List Instr) : (raiseFirst s l).parity = s.parity := rfl
@[simp] theorem raiseFirst_parWrites (l : List Instr) : (raiseFirst s l).parWrites = s.parWrites := rfl
@[simp] theorem raiseFirst_parGen (l : List Instr) : (raiseFirst s l).parGen = s.parGen := rfl
@[simp] theorem raiseFirst_graphs (l : List Instr) : (raiseFirst s l).graphs = s.graphs := rfl
@[simp] theorem raiseFirst_nodes (l : List Instr) : (raiseFirst s l).nodes = s.nodes := rfl
@[simp] theorem raiseFirst_nextNode (l : List Instr) : (raiseFirst s l).nextNode = s.nextNode := rfl
@[simp] theorem raiseFirst_rot (l : List Instr) : (raiseFirst s l).rot = s.rot := rfl
@[simp] theorem raiseFirst_rotUsed (l : List Instr) : (raiseFirst s l).rotUsed = s.rotUsed := rfl
@[simp] theorem raiseFirst_arrivals (l : List Instr) : (raiseFirst s l).arrivals = s.arrivals := rfl
@[simp] theorem raiseFirst_nextHid (l : List Instr) : (raiseFirst s l).nextHid = s.nextHid := rfl
@[simp] theorem raiseFirst_spadZero (l : List Instr) : (raiseFirst s l).spadZero = s.spadZero := rfl
@[simp] theorem raiseFirst_lastCore (l : List Instr) : (raiseFirst s l).lastCore = s.lastCore := rfl
@[simp] theorem raiseFirst_inval (l : List Instr) : (raiseFirst s l).inval = s.inval := rfl
@[simp] theorem raiseFirst_freed (l : List Instr) : (raiseFirst s l).freed = s.freed := rfl
@[simp] theorem raiseFirst_placeQ (l : List Instr) : (raiseFirst s l).placeQ = s.placeQ := rfl
@[simp] theorem raiseFirst_resQ (l : List Instr) : (raiseFirst s l).resQ = s.resQ := rfl
@[simp] theorem raiseFirst_deferred (l : List Instr) : (raiseFirst s l).deferred = s.deferred := rfl
@[simp] theorem raiseFirst_transfers (l : List Instr) : (raiseFirst s l).transfers = s.transfers := rfl
@[simp] theorem raiseFirst_nextXfer (l : List Instr) : (raiseFirst s l).nextXfer = s.nextXfer := rfl
@[simp] theorem raiseFirst_peers (l : List Instr) : (raiseFirst s l).peers = s.peers := rfl
@[simp] theorem raiseFirst_collCounts (l : List Instr) : (raiseFirst s l).collCounts = s.collCounts := rfl
@[simp] theorem raiseFirst_errlog (l : List Instr) : (raiseFirst s l).errlog = s.errlog := rfl
@[simp] theorem raiseFirst_errSeq (l : List Instr) : (raiseFirst s l).errSeq = s.errSeq := rfl
@[simp] theorem raiseFirst_hostOut (l : List Instr) : (raiseFirst s l).hostOut = s.hostOut := rfl
@[simp] theorem raiseFirst_straitOut (l : List Instr) : (raiseFirst s l).straitOut = s.straitOut := rfl
@[simp] theorem raiseFirst_hostIn (l : List Instr) : (raiseFirst s l).hostIn = s.hostIn := rfl
@[simp] theorem raiseFirst_ports (l : List Instr) : (raiseFirst s l).ports = s.ports := rfl
@[simp] theorem raiseFirst_straitFails (l : List Instr) : (raiseFirst s l).straitFails = s.straitFails := rfl
@[simp] theorem raiseFirst_rollingBack (l : List Instr) : (raiseFirst s l).rollingBack = s.rollingBack := rfl
@[simp] theorem raiseFirst_unrec (l : List Instr) : (raiseFirst s l).unrec = s.unrec := rfl
@[simp] theorem raiseFirst_oz (l : List Instr) : (raiseFirst s l).oz = s.oz := rfl
@[simp] theorem raiseFirst_boot (l : List Instr) : (raiseFirst s l).boot = s.boot := rfl
@[simp] theorem raiseFirst_fw (l : List Instr) : (raiseFirst s l).fw = s.fw := rfl
@[simp] theorem raiseFirst_opSel (l : List Instr) : (raiseFirst s l).opSel = s.opSel := rfl
@[simp] theorem raiseFirst_phys (l : List Instr) : (raiseFirst s l).phys = s.phys := rfl
@[simp] theorem raiseFirst_pending (l : List Instr) : (raiseFirst s l).pending = l ++ s.pending := rfl
@[simp] theorem raiseFirst_sched (l : List Instr) : (raiseFirst s l).sched = s.sched := rfl
@[simp] theorem raiseFirst_clock (l : List Instr) : (raiseFirst s l).clock = s.clock := rfl
@[simp] theorem raiseFirst_turns (l : List Instr) : (raiseFirst s l).turns = s.turns := rfl
@[simp] theorem raiseFirst_free (l : List Instr) : (raiseFirst s l).free = s.free := rfl

@[simp] theorem bumpFree_agent : (bumpFree s).agent = s.agent := rfl
@[simp] theorem bumpFree_hart : (bumpFree s).hart = s.hart := rfl
@[simp] theorem bumpFree_others : (bumpFree s).others = s.others := rfl
@[simp] theorem bumpFree_mem : (bumpFree s).mem = s.mem := rfl
@[simp] theorem bumpFree_poison : (bumpFree s).poison = s.poison := rfl
@[simp] theorem bumpFree_spad : (bumpFree s).spad = s.spad := rfl
@[simp] theorem bumpFree_spadPoison : (bumpFree s).spadPoison = s.spadPoison := rfl
@[simp] theorem bumpFree_nc : (bumpFree s).nc = s.nc := rfl
@[simp] theorem bumpFree_counted : (bumpFree s).counted = s.counted := rfl
@[simp] theorem bumpFree_dir : (bumpFree s).dir = s.dir := rfl
@[simp] theorem bumpFree_rdc : (bumpFree s).rdc = s.rdc := rfl
@[simp] theorem bumpFree_dirQueue : (bumpFree s).dirQueue = s.dirQueue := rfl
@[simp] theorem bumpFree_act : (bumpFree s).act = s.act := rfl
@[simp] theorem bumpFree_mgmt : (bumpFree s).mgmt = s.mgmt := rfl
@[simp] theorem bumpFree_rin : (bumpFree s).rin = s.rin := rfl
@[simp] theorem bumpFree_sealedRin : (bumpFree s).sealedRin = s.sealedRin := rfl
@[simp] theorem bumpFree_sealing : (bumpFree s).sealing = s.sealing := rfl
@[simp] theorem bumpFree_sealNext : (bumpFree s).sealNext = s.sealNext := rfl
@[simp] theorem bumpFree_fillReq : (bumpFree s).fillReq = s.fillReq := rfl
@[simp] theorem bumpFree_vsWaits : (bumpFree s).vsWaits = s.vsWaits := rfl
@[simp] theorem bumpFree_lost : (bumpFree s).lost = s.lost := rfl
@[simp] theorem bumpFree_leaseHeld : (bumpFree s).leaseHeld = s.leaseHeld := rfl
@[simp] theorem bumpFree_vs : (bumpFree s).vs = s.vs := rfl
@[simp] theorem bumpFree_egress : (bumpFree s).egress = s.egress := rfl
@[simp] theorem bumpFree_ckpt : (bumpFree s).ckpt = s.ckpt := rfl
@[simp] theorem bumpFree_parity : (bumpFree s).parity = s.parity := rfl
@[simp] theorem bumpFree_parWrites : (bumpFree s).parWrites = s.parWrites := rfl
@[simp] theorem bumpFree_parGen : (bumpFree s).parGen = s.parGen := rfl
@[simp] theorem bumpFree_graphs : (bumpFree s).graphs = s.graphs := rfl
@[simp] theorem bumpFree_nodes : (bumpFree s).nodes = s.nodes := rfl
@[simp] theorem bumpFree_nextNode : (bumpFree s).nextNode = s.nextNode := rfl
@[simp] theorem bumpFree_rot : (bumpFree s).rot = s.rot := rfl
@[simp] theorem bumpFree_rotUsed : (bumpFree s).rotUsed = s.rotUsed := rfl
@[simp] theorem bumpFree_arrivals : (bumpFree s).arrivals = s.arrivals := rfl
@[simp] theorem bumpFree_nextHid : (bumpFree s).nextHid = s.nextHid := rfl
@[simp] theorem bumpFree_spadZero : (bumpFree s).spadZero = s.spadZero := rfl
@[simp] theorem bumpFree_lastCore : (bumpFree s).lastCore = s.lastCore := rfl
@[simp] theorem bumpFree_inval : (bumpFree s).inval = s.inval := rfl
@[simp] theorem bumpFree_freed : (bumpFree s).freed = s.freed := rfl
@[simp] theorem bumpFree_placeQ : (bumpFree s).placeQ = s.placeQ := rfl
@[simp] theorem bumpFree_resQ : (bumpFree s).resQ = s.resQ := rfl
@[simp] theorem bumpFree_deferred : (bumpFree s).deferred = s.deferred := rfl
@[simp] theorem bumpFree_transfers : (bumpFree s).transfers = s.transfers := rfl
@[simp] theorem bumpFree_nextXfer : (bumpFree s).nextXfer = s.nextXfer := rfl
@[simp] theorem bumpFree_peers : (bumpFree s).peers = s.peers := rfl
@[simp] theorem bumpFree_collCounts : (bumpFree s).collCounts = s.collCounts := rfl
@[simp] theorem bumpFree_errlog : (bumpFree s).errlog = s.errlog := rfl
@[simp] theorem bumpFree_errSeq : (bumpFree s).errSeq = s.errSeq := rfl
@[simp] theorem bumpFree_hostOut : (bumpFree s).hostOut = s.hostOut := rfl
@[simp] theorem bumpFree_straitOut : (bumpFree s).straitOut = s.straitOut := rfl
@[simp] theorem bumpFree_hostIn : (bumpFree s).hostIn = s.hostIn := rfl
@[simp] theorem bumpFree_ports : (bumpFree s).ports = s.ports := rfl
@[simp] theorem bumpFree_straitFails : (bumpFree s).straitFails = s.straitFails := rfl
@[simp] theorem bumpFree_rollingBack : (bumpFree s).rollingBack = s.rollingBack := rfl
@[simp] theorem bumpFree_unrec : (bumpFree s).unrec = s.unrec := rfl
@[simp] theorem bumpFree_oz : (bumpFree s).oz = s.oz := rfl
@[simp] theorem bumpFree_boot : (bumpFree s).boot = s.boot := rfl
@[simp] theorem bumpFree_fw : (bumpFree s).fw = s.fw := rfl
@[simp] theorem bumpFree_opSel : (bumpFree s).opSel = s.opSel := rfl
@[simp] theorem bumpFree_phys : (bumpFree s).phys = s.phys := rfl
@[simp] theorem bumpFree_pending : (bumpFree s).pending = s.pending := rfl
@[simp] theorem bumpFree_sched : (bumpFree s).sched = s.sched := rfl
@[simp] theorem bumpFree_clock : (bumpFree s).clock = s.clock := rfl
@[simp] theorem bumpFree_turns : (bumpFree s).turns = s.turns := rfl
@[simp] theorem bumpFree_free : (bumpFree s).free = s.free + 1 := rfl

@[simp] theorem updNode_agent (n : Nat) (f : Node → Node) : (updNode s n f).agent = s.agent := rfl
@[simp] theorem updNode_hart (n : Nat) (f : Node → Node) : (updNode s n f).hart = s.hart := rfl
@[simp] theorem updNode_others (n : Nat) (f : Node → Node) : (updNode s n f).others = s.others := rfl
@[simp] theorem updNode_mem (n : Nat) (f : Node → Node) : (updNode s n f).mem = s.mem := rfl
@[simp] theorem updNode_poison (n : Nat) (f : Node → Node) : (updNode s n f).poison = s.poison := rfl
@[simp] theorem updNode_spad (n : Nat) (f : Node → Node) : (updNode s n f).spad = s.spad := rfl
@[simp] theorem updNode_spadPoison (n : Nat) (f : Node → Node) : (updNode s n f).spadPoison = s.spadPoison := rfl
@[simp] theorem updNode_nc (n : Nat) (f : Node → Node) : (updNode s n f).nc = s.nc := rfl
@[simp] theorem updNode_counted (n : Nat) (f : Node → Node) : (updNode s n f).counted = s.counted := rfl
@[simp] theorem updNode_dir (n : Nat) (f : Node → Node) : (updNode s n f).dir = s.dir := rfl
@[simp] theorem updNode_rdc (n : Nat) (f : Node → Node) : (updNode s n f).rdc = s.rdc := rfl
@[simp] theorem updNode_dirQueue (n : Nat) (f : Node → Node) : (updNode s n f).dirQueue = s.dirQueue := rfl
@[simp] theorem updNode_act (n : Nat) (f : Node → Node) : (updNode s n f).act = s.act := rfl
@[simp] theorem updNode_mgmt (n : Nat) (f : Node → Node) : (updNode s n f).mgmt = s.mgmt := rfl
@[simp] theorem updNode_rin (n : Nat) (f : Node → Node) : (updNode s n f).rin = s.rin := rfl
@[simp] theorem updNode_sealedRin (n : Nat) (f : Node → Node) : (updNode s n f).sealedRin = s.sealedRin := rfl
@[simp] theorem updNode_sealing (n : Nat) (f : Node → Node) : (updNode s n f).sealing = s.sealing := rfl
@[simp] theorem updNode_sealNext (n : Nat) (f : Node → Node) : (updNode s n f).sealNext = s.sealNext := rfl
@[simp] theorem updNode_fillReq (n : Nat) (f : Node → Node) : (updNode s n f).fillReq = s.fillReq := rfl
@[simp] theorem updNode_vsWaits (n : Nat) (f : Node → Node) : (updNode s n f).vsWaits = s.vsWaits := rfl
@[simp] theorem updNode_lost (n : Nat) (f : Node → Node) : (updNode s n f).lost = s.lost := rfl
@[simp] theorem updNode_leaseHeld (n : Nat) (f : Node → Node) : (updNode s n f).leaseHeld = s.leaseHeld := rfl
@[simp] theorem updNode_vs (n : Nat) (f : Node → Node) : (updNode s n f).vs = s.vs := rfl
@[simp] theorem updNode_egress (n : Nat) (f : Node → Node) : (updNode s n f).egress = s.egress := rfl
@[simp] theorem updNode_ckpt (n : Nat) (f : Node → Node) : (updNode s n f).ckpt = s.ckpt := rfl
@[simp] theorem updNode_parity (n : Nat) (f : Node → Node) : (updNode s n f).parity = s.parity := rfl
@[simp] theorem updNode_parWrites (n : Nat) (f : Node → Node) : (updNode s n f).parWrites = s.parWrites := rfl
@[simp] theorem updNode_parGen (n : Nat) (f : Node → Node) : (updNode s n f).parGen = s.parGen := rfl
@[simp] theorem updNode_graphs (n : Nat) (f : Node → Node) : (updNode s n f).graphs = s.graphs := rfl
@[simp] theorem updNode_nextNode (n : Nat) (f : Node → Node) : (updNode s n f).nextNode = s.nextNode := rfl
@[simp] theorem updNode_rot (n : Nat) (f : Node → Node) : (updNode s n f).rot = s.rot := rfl
@[simp] theorem updNode_rotUsed (n : Nat) (f : Node → Node) : (updNode s n f).rotUsed = s.rotUsed := rfl
@[simp] theorem updNode_arrivals (n : Nat) (f : Node → Node) : (updNode s n f).arrivals = s.arrivals := rfl
@[simp] theorem updNode_nextHid (n : Nat) (f : Node → Node) : (updNode s n f).nextHid = s.nextHid := rfl
@[simp] theorem updNode_spadZero (n : Nat) (f : Node → Node) : (updNode s n f).spadZero = s.spadZero := rfl
@[simp] theorem updNode_lastCore (n : Nat) (f : Node → Node) : (updNode s n f).lastCore = s.lastCore := rfl
@[simp] theorem updNode_inval (n : Nat) (f : Node → Node) : (updNode s n f).inval = s.inval := rfl
@[simp] theorem updNode_freed (n : Nat) (f : Node → Node) : (updNode s n f).freed = s.freed := rfl
@[simp] theorem updNode_placeQ (n : Nat) (f : Node → Node) : (updNode s n f).placeQ = s.placeQ := rfl
@[simp] theorem updNode_resQ (n : Nat) (f : Node → Node) : (updNode s n f).resQ = s.resQ := rfl
@[simp] theorem updNode_deferred (n : Nat) (f : Node → Node) : (updNode s n f).deferred = s.deferred := rfl
@[simp] theorem updNode_transfers (n : Nat) (f : Node → Node) : (updNode s n f).transfers = s.transfers := rfl
@[simp] theorem updNode_nextXfer (n : Nat) (f : Node → Node) : (updNode s n f).nextXfer = s.nextXfer := rfl
@[simp] theorem updNode_peers (n : Nat) (f : Node → Node) : (updNode s n f).peers = s.peers := rfl
@[simp] theorem updNode_collCounts (n : Nat) (f : Node → Node) : (updNode s n f).collCounts = s.collCounts := rfl
@[simp] theorem updNode_errlog (n : Nat) (f : Node → Node) : (updNode s n f).errlog = s.errlog := rfl
@[simp] theorem updNode_errSeq (n : Nat) (f : Node → Node) : (updNode s n f).errSeq = s.errSeq := rfl
@[simp] theorem updNode_hostOut (n : Nat) (f : Node → Node) : (updNode s n f).hostOut = s.hostOut := rfl
@[simp] theorem updNode_straitOut (n : Nat) (f : Node → Node) : (updNode s n f).straitOut = s.straitOut := rfl
@[simp] theorem updNode_hostIn (n : Nat) (f : Node → Node) : (updNode s n f).hostIn = s.hostIn := rfl
@[simp] theorem updNode_ports (n : Nat) (f : Node → Node) : (updNode s n f).ports = s.ports := rfl
@[simp] theorem updNode_straitFails (n : Nat) (f : Node → Node) : (updNode s n f).straitFails = s.straitFails := rfl
@[simp] theorem updNode_rollingBack (n : Nat) (f : Node → Node) : (updNode s n f).rollingBack = s.rollingBack := rfl
@[simp] theorem updNode_unrec (n : Nat) (f : Node → Node) : (updNode s n f).unrec = s.unrec := rfl
@[simp] theorem updNode_oz (n : Nat) (f : Node → Node) : (updNode s n f).oz = s.oz := rfl
@[simp] theorem updNode_boot (n : Nat) (f : Node → Node) : (updNode s n f).boot = s.boot := rfl
@[simp] theorem updNode_fw (n : Nat) (f : Node → Node) : (updNode s n f).fw = s.fw := rfl
@[simp] theorem updNode_opSel (n : Nat) (f : Node → Node) : (updNode s n f).opSel = s.opSel := rfl
@[simp] theorem updNode_phys (n : Nat) (f : Node → Node) : (updNode s n f).phys = s.phys := rfl
@[simp] theorem updNode_pending (n : Nat) (f : Node → Node) : (updNode s n f).pending = s.pending := rfl
@[simp] theorem updNode_sched (n : Nat) (f : Node → Node) : (updNode s n f).sched = s.sched := rfl
@[simp] theorem updNode_clock (n : Nat) (f : Node → Node) : (updNode s n f).clock = s.clock := rfl
@[simp] theorem updNode_turns (n : Nat) (f : Node → Node) : (updNode s n f).turns = s.turns := rfl
@[simp] theorem updNode_free (n : Nat) (f : Node → Node) : (updNode s n f).free = s.free := rfl

@[simp] theorem updHarts_agent (p : Hart → Bool) (f : Hart → Hart) : (updHarts s p f).agent = s.agent := rfl
@[simp] theorem updHarts_mem (p : Hart → Bool) (f : Hart → Hart) : (updHarts s p f).mem = s.mem := rfl
@[simp] theorem updHarts_poison (p : Hart → Bool) (f : Hart → Hart) : (updHarts s p f).poison = s.poison := rfl
@[simp] theorem updHarts_spad (p : Hart → Bool) (f : Hart → Hart) : (updHarts s p f).spad = s.spad := rfl
@[simp] theorem updHarts_spadPoison (p : Hart → Bool) (f : Hart → Hart) : (updHarts s p f).spadPoison = s.spadPoison := rfl
@[simp] theorem updHarts_nc (p : Hart → Bool) (f : Hart → Hart) : (updHarts s p f).nc = s.nc := rfl
@[simp] theorem updHarts_counted (p : Hart → Bool) (f : Hart → Hart) : (updHarts s p f).counted = s.counted := rfl
@[simp] theorem updHarts_dir (p : Hart → Bool) (f : Hart → Hart) : (updHarts s p f).dir = s.dir := rfl
@[simp] theorem updHarts_rdc (p : Hart → Bool) (f : Hart → Hart) : (updHarts s p f).rdc = s.rdc := rfl
@[simp] theorem updHarts_dirQueue (p : Hart → Bool) (f : Hart → Hart) : (updHarts s p f).dirQueue = s.dirQueue := rfl
@[simp] theorem updHarts_act (p : Hart → Bool) (f : Hart → Hart) : (updHarts s p f).act = s.act := rfl
@[simp] theorem updHarts_mgmt (p : Hart → Bool) (f : Hart → Hart) : (updHarts s p f).mgmt = s.mgmt := rfl
@[simp] theorem updHarts_rin (p : Hart → Bool) (f : Hart → Hart) : (updHarts s p f).rin = s.rin := rfl
@[simp] theorem updHarts_sealedRin (p : Hart → Bool) (f : Hart → Hart) : (updHarts s p f).sealedRin = s.sealedRin := rfl
@[simp] theorem updHarts_sealing (p : Hart → Bool) (f : Hart → Hart) : (updHarts s p f).sealing = s.sealing := rfl
@[simp] theorem updHarts_sealNext (p : Hart → Bool) (f : Hart → Hart) : (updHarts s p f).sealNext = s.sealNext := rfl
@[simp] theorem updHarts_fillReq (p : Hart → Bool) (f : Hart → Hart) : (updHarts s p f).fillReq = s.fillReq := rfl
@[simp] theorem updHarts_vsWaits (p : Hart → Bool) (f : Hart → Hart) : (updHarts s p f).vsWaits = s.vsWaits := rfl
@[simp] theorem updHarts_lost (p : Hart → Bool) (f : Hart → Hart) : (updHarts s p f).lost = s.lost := rfl
@[simp] theorem updHarts_leaseHeld (p : Hart → Bool) (f : Hart → Hart) : (updHarts s p f).leaseHeld = s.leaseHeld := rfl
@[simp] theorem updHarts_vs (p : Hart → Bool) (f : Hart → Hart) : (updHarts s p f).vs = s.vs := rfl
@[simp] theorem updHarts_egress (p : Hart → Bool) (f : Hart → Hart) : (updHarts s p f).egress = s.egress := rfl
@[simp] theorem updHarts_ckpt (p : Hart → Bool) (f : Hart → Hart) : (updHarts s p f).ckpt = s.ckpt := rfl
@[simp] theorem updHarts_parity (p : Hart → Bool) (f : Hart → Hart) : (updHarts s p f).parity = s.parity := rfl
@[simp] theorem updHarts_parWrites (p : Hart → Bool) (f : Hart → Hart) : (updHarts s p f).parWrites = s.parWrites := rfl
@[simp] theorem updHarts_parGen (p : Hart → Bool) (f : Hart → Hart) : (updHarts s p f).parGen = s.parGen := rfl
@[simp] theorem updHarts_graphs (p : Hart → Bool) (f : Hart → Hart) : (updHarts s p f).graphs = s.graphs := rfl
@[simp] theorem updHarts_nodes (p : Hart → Bool) (f : Hart → Hart) : (updHarts s p f).nodes = s.nodes := rfl
@[simp] theorem updHarts_nextNode (p : Hart → Bool) (f : Hart → Hart) : (updHarts s p f).nextNode = s.nextNode := rfl
@[simp] theorem updHarts_rot (p : Hart → Bool) (f : Hart → Hart) : (updHarts s p f).rot = s.rot := rfl
@[simp] theorem updHarts_rotUsed (p : Hart → Bool) (f : Hart → Hart) : (updHarts s p f).rotUsed = s.rotUsed := rfl
@[simp] theorem updHarts_arrivals (p : Hart → Bool) (f : Hart → Hart) : (updHarts s p f).arrivals = s.arrivals := rfl
@[simp] theorem updHarts_nextHid (p : Hart → Bool) (f : Hart → Hart) : (updHarts s p f).nextHid = s.nextHid := rfl
@[simp] theorem updHarts_spadZero (p : Hart → Bool) (f : Hart → Hart) : (updHarts s p f).spadZero = s.spadZero := rfl
@[simp] theorem updHarts_lastCore (p : Hart → Bool) (f : Hart → Hart) : (updHarts s p f).lastCore = s.lastCore := rfl
@[simp] theorem updHarts_inval (p : Hart → Bool) (f : Hart → Hart) : (updHarts s p f).inval = s.inval := rfl
@[simp] theorem updHarts_freed (p : Hart → Bool) (f : Hart → Hart) : (updHarts s p f).freed = s.freed := rfl
@[simp] theorem updHarts_placeQ (p : Hart → Bool) (f : Hart → Hart) : (updHarts s p f).placeQ = s.placeQ := rfl
@[simp] theorem updHarts_resQ (p : Hart → Bool) (f : Hart → Hart) : (updHarts s p f).resQ = s.resQ := rfl
@[simp] theorem updHarts_deferred (p : Hart → Bool) (f : Hart → Hart) : (updHarts s p f).deferred = s.deferred := rfl
@[simp] theorem updHarts_transfers (p : Hart → Bool) (f : Hart → Hart) : (updHarts s p f).transfers = s.transfers := rfl
@[simp] theorem updHarts_nextXfer (p : Hart → Bool) (f : Hart → Hart) : (updHarts s p f).nextXfer = s.nextXfer := rfl
@[simp] theorem updHarts_peers (p : Hart → Bool) (f : Hart → Hart) : (updHarts s p f).peers = s.peers := rfl
@[simp] theorem updHarts_collCounts (p : Hart → Bool) (f : Hart → Hart) : (updHarts s p f).collCounts = s.collCounts := rfl
@[simp] theorem updHarts_errlog (p : Hart → Bool) (f : Hart → Hart) : (updHarts s p f).errlog = s.errlog := rfl
@[simp] theorem updHarts_errSeq (p : Hart → Bool) (f : Hart → Hart) : (updHarts s p f).errSeq = s.errSeq := rfl
@[simp] theorem updHarts_hostOut (p : Hart → Bool) (f : Hart → Hart) : (updHarts s p f).hostOut = s.hostOut := rfl
@[simp] theorem updHarts_straitOut (p : Hart → Bool) (f : Hart → Hart) : (updHarts s p f).straitOut = s.straitOut := rfl
@[simp] theorem updHarts_hostIn (p : Hart → Bool) (f : Hart → Hart) : (updHarts s p f).hostIn = s.hostIn := rfl
@[simp] theorem updHarts_ports (p : Hart → Bool) (f : Hart → Hart) : (updHarts s p f).ports = s.ports := rfl
@[simp] theorem updHarts_straitFails (p : Hart → Bool) (f : Hart → Hart) : (updHarts s p f).straitFails = s.straitFails := rfl
@[simp] theorem updHarts_rollingBack (p : Hart → Bool) (f : Hart → Hart) : (updHarts s p f).rollingBack = s.rollingBack := rfl
@[simp] theorem updHarts_unrec (p : Hart → Bool) (f : Hart → Hart) : (updHarts s p f).unrec = s.unrec := rfl
@[simp] theorem updHarts_oz (p : Hart → Bool) (f : Hart → Hart) : (updHarts s p f).oz = s.oz := rfl
@[simp] theorem updHarts_boot (p : Hart → Bool) (f : Hart → Hart) : (updHarts s p f).boot = s.boot := rfl
@[simp] theorem updHarts_fw (p : Hart → Bool) (f : Hart → Hart) : (updHarts s p f).fw = s.fw := rfl
@[simp] theorem updHarts_opSel (p : Hart → Bool) (f : Hart → Hart) : (updHarts s p f).opSel = s.opSel := rfl
@[simp] theorem updHarts_phys (p : Hart → Bool) (f : Hart → Hart) : (updHarts s p f).phys = s.phys := rfl
@[simp] theorem updHarts_pending (p : Hart → Bool) (f : Hart → Hart) : (updHarts s p f).pending = s.pending := rfl
@[simp] theorem updHarts_sched (p : Hart → Bool) (f : Hart → Hart) : (updHarts s p f).sched = s.sched := rfl
@[simp] theorem updHarts_clock (p : Hart → Bool) (f : Hart → Hart) : (updHarts s p f).clock = s.clock := rfl
@[simp] theorem updHarts_turns (p : Hart → Bool) (f : Hart → Hart) : (updHarts s p f).turns = s.turns := rfl
@[simp] theorem updHarts_free (p : Hart → Bool) (f : Hart → Hart) : (updHarts s p f).free = s.free := rfl

@[simp] theorem setPoison_agent (k : Nat) (b : Bool) : (setPoison s k b).agent = s.agent := rfl
@[simp] theorem setPoison_hart (k : Nat) (b : Bool) : (setPoison s k b).hart = s.hart := rfl
@[simp] theorem setPoison_others (k : Nat) (b : Bool) : (setPoison s k b).others = s.others := rfl
@[simp] theorem setPoison_mem (k : Nat) (b : Bool) : (setPoison s k b).mem = s.mem := rfl
@[simp] theorem setPoison_spad (k : Nat) (b : Bool) : (setPoison s k b).spad = s.spad := rfl
@[simp] theorem setPoison_spadPoison (k : Nat) (b : Bool) : (setPoison s k b).spadPoison = s.spadPoison := rfl
@[simp] theorem setPoison_nc (k : Nat) (b : Bool) : (setPoison s k b).nc = s.nc := rfl
@[simp] theorem setPoison_counted (k : Nat) (b : Bool) : (setPoison s k b).counted = s.counted := rfl
@[simp] theorem setPoison_dir (k : Nat) (b : Bool) : (setPoison s k b).dir = s.dir := rfl
@[simp] theorem setPoison_rdc (k : Nat) (b : Bool) : (setPoison s k b).rdc = s.rdc := rfl
@[simp] theorem setPoison_dirQueue (k : Nat) (b : Bool) : (setPoison s k b).dirQueue = s.dirQueue := rfl
@[simp] theorem setPoison_act (k : Nat) (b : Bool) : (setPoison s k b).act = s.act := rfl
@[simp] theorem setPoison_mgmt (k : Nat) (b : Bool) : (setPoison s k b).mgmt = s.mgmt := rfl
@[simp] theorem setPoison_rin (k : Nat) (b : Bool) : (setPoison s k b).rin = s.rin := rfl
@[simp] theorem setPoison_sealedRin (k : Nat) (b : Bool) : (setPoison s k b).sealedRin = s.sealedRin := rfl
@[simp] theorem setPoison_sealing (k : Nat) (b : Bool) : (setPoison s k b).sealing = s.sealing := rfl
@[simp] theorem setPoison_sealNext (k : Nat) (b : Bool) : (setPoison s k b).sealNext = s.sealNext := rfl
@[simp] theorem setPoison_fillReq (k : Nat) (b : Bool) : (setPoison s k b).fillReq = s.fillReq := rfl
@[simp] theorem setPoison_vsWaits (k : Nat) (b : Bool) : (setPoison s k b).vsWaits = s.vsWaits := rfl
@[simp] theorem setPoison_lost (k : Nat) (b : Bool) : (setPoison s k b).lost = s.lost := rfl
@[simp] theorem setPoison_leaseHeld (k : Nat) (b : Bool) : (setPoison s k b).leaseHeld = s.leaseHeld := rfl
@[simp] theorem setPoison_vs (k : Nat) (b : Bool) : (setPoison s k b).vs = s.vs := rfl
@[simp] theorem setPoison_egress (k : Nat) (b : Bool) : (setPoison s k b).egress = s.egress := rfl
@[simp] theorem setPoison_ckpt (k : Nat) (b : Bool) : (setPoison s k b).ckpt = s.ckpt := rfl
@[simp] theorem setPoison_parity (k : Nat) (b : Bool) : (setPoison s k b).parity = s.parity := rfl
@[simp] theorem setPoison_parWrites (k : Nat) (b : Bool) : (setPoison s k b).parWrites = s.parWrites := rfl
@[simp] theorem setPoison_parGen (k : Nat) (b : Bool) : (setPoison s k b).parGen = s.parGen := rfl
@[simp] theorem setPoison_graphs (k : Nat) (b : Bool) : (setPoison s k b).graphs = s.graphs := rfl
@[simp] theorem setPoison_nodes (k : Nat) (b : Bool) : (setPoison s k b).nodes = s.nodes := rfl
@[simp] theorem setPoison_nextNode (k : Nat) (b : Bool) : (setPoison s k b).nextNode = s.nextNode := rfl
@[simp] theorem setPoison_rot (k : Nat) (b : Bool) : (setPoison s k b).rot = s.rot := rfl
@[simp] theorem setPoison_rotUsed (k : Nat) (b : Bool) : (setPoison s k b).rotUsed = s.rotUsed := rfl
@[simp] theorem setPoison_arrivals (k : Nat) (b : Bool) : (setPoison s k b).arrivals = s.arrivals := rfl
@[simp] theorem setPoison_nextHid (k : Nat) (b : Bool) : (setPoison s k b).nextHid = s.nextHid := rfl
@[simp] theorem setPoison_spadZero (k : Nat) (b : Bool) : (setPoison s k b).spadZero = s.spadZero := rfl
@[simp] theorem setPoison_lastCore (k : Nat) (b : Bool) : (setPoison s k b).lastCore = s.lastCore := rfl
@[simp] theorem setPoison_inval (k : Nat) (b : Bool) : (setPoison s k b).inval = s.inval := rfl
@[simp] theorem setPoison_freed (k : Nat) (b : Bool) : (setPoison s k b).freed = s.freed := rfl
@[simp] theorem setPoison_placeQ (k : Nat) (b : Bool) : (setPoison s k b).placeQ = s.placeQ := rfl
@[simp] theorem setPoison_resQ (k : Nat) (b : Bool) : (setPoison s k b).resQ = s.resQ := rfl
@[simp] theorem setPoison_deferred (k : Nat) (b : Bool) : (setPoison s k b).deferred = s.deferred := rfl
@[simp] theorem setPoison_transfers (k : Nat) (b : Bool) : (setPoison s k b).transfers = s.transfers := rfl
@[simp] theorem setPoison_nextXfer (k : Nat) (b : Bool) : (setPoison s k b).nextXfer = s.nextXfer := rfl
@[simp] theorem setPoison_peers (k : Nat) (b : Bool) : (setPoison s k b).peers = s.peers := rfl
@[simp] theorem setPoison_collCounts (k : Nat) (b : Bool) : (setPoison s k b).collCounts = s.collCounts := rfl
@[simp] theorem setPoison_errlog (k : Nat) (b : Bool) : (setPoison s k b).errlog = s.errlog := rfl
@[simp] theorem setPoison_errSeq (k : Nat) (b : Bool) : (setPoison s k b).errSeq = s.errSeq := rfl
@[simp] theorem setPoison_hostOut (k : Nat) (b : Bool) : (setPoison s k b).hostOut = s.hostOut := rfl
@[simp] theorem setPoison_straitOut (k : Nat) (b : Bool) : (setPoison s k b).straitOut = s.straitOut := rfl
@[simp] theorem setPoison_hostIn (k : Nat) (b : Bool) : (setPoison s k b).hostIn = s.hostIn := rfl
@[simp] theorem setPoison_ports (k : Nat) (b : Bool) : (setPoison s k b).ports = s.ports := rfl
@[simp] theorem setPoison_straitFails (k : Nat) (b : Bool) : (setPoison s k b).straitFails = s.straitFails := rfl
@[simp] theorem setPoison_rollingBack (k : Nat) (b : Bool) : (setPoison s k b).rollingBack = s.rollingBack := rfl
@[simp] theorem setPoison_unrec (k : Nat) (b : Bool) : (setPoison s k b).unrec = s.unrec := rfl
@[simp] theorem setPoison_oz (k : Nat) (b : Bool) : (setPoison s k b).oz = s.oz := rfl
@[simp] theorem setPoison_boot (k : Nat) (b : Bool) : (setPoison s k b).boot = s.boot := rfl
@[simp] theorem setPoison_fw (k : Nat) (b : Bool) : (setPoison s k b).fw = s.fw := rfl
@[simp] theorem setPoison_opSel (k : Nat) (b : Bool) : (setPoison s k b).opSel = s.opSel := rfl
@[simp] theorem setPoison_phys (k : Nat) (b : Bool) : (setPoison s k b).phys = s.phys := rfl
@[simp] theorem setPoison_pending (k : Nat) (b : Bool) : (setPoison s k b).pending = s.pending := rfl
@[simp] theorem setPoison_sched (k : Nat) (b : Bool) : (setPoison s k b).sched = s.sched := rfl
@[simp] theorem setPoison_clock (k : Nat) (b : Bool) : (setPoison s k b).clock = s.clock := rfl
@[simp] theorem setPoison_turns (k : Nat) (b : Bool) : (setPoison s k b).turns = s.turns := rfl
@[simp] theorem setPoison_free (k : Nat) (b : Bool) : (setPoison s k b).free = s.free := rfl

@[simp] theorem mgmtPut_agent (k : Nat) (v : Word) : (mgmtPut s k v).agent = s.agent := rfl
@[simp] theorem mgmtPut_hart (k : Nat) (v : Word) : (mgmtPut s k v).hart = s.hart := rfl
@[simp] theorem mgmtPut_others (k : Nat) (v : Word) : (mgmtPut s k v).others = s.others := rfl
@[simp] theorem mgmtPut_mem (k : Nat) (v : Word) : (mgmtPut s k v).mem = s.mem := rfl
@[simp] theorem mgmtPut_poison (k : Nat) (v : Word) : (mgmtPut s k v).poison = s.poison := rfl
@[simp] theorem mgmtPut_spad (k : Nat) (v : Word) : (mgmtPut s k v).spad = s.spad := rfl
@[simp] theorem mgmtPut_spadPoison (k : Nat) (v : Word) : (mgmtPut s k v).spadPoison = s.spadPoison := rfl
@[simp] theorem mgmtPut_nc (k : Nat) (v : Word) : (mgmtPut s k v).nc = s.nc := rfl
@[simp] theorem mgmtPut_counted (k : Nat) (v : Word) : (mgmtPut s k v).counted = s.counted := rfl
@[simp] theorem mgmtPut_dir (k : Nat) (v : Word) : (mgmtPut s k v).dir = s.dir := rfl
@[simp] theorem mgmtPut_rdc (k : Nat) (v : Word) : (mgmtPut s k v).rdc = s.rdc := rfl
@[simp] theorem mgmtPut_dirQueue (k : Nat) (v : Word) : (mgmtPut s k v).dirQueue = s.dirQueue := rfl
@[simp] theorem mgmtPut_act (k : Nat) (v : Word) : (mgmtPut s k v).act = s.act := rfl
@[simp] theorem mgmtPut_rin (k : Nat) (v : Word) : (mgmtPut s k v).rin = s.rin := rfl
@[simp] theorem mgmtPut_sealedRin (k : Nat) (v : Word) : (mgmtPut s k v).sealedRin = s.sealedRin := rfl
@[simp] theorem mgmtPut_sealing (k : Nat) (v : Word) : (mgmtPut s k v).sealing = s.sealing := rfl
@[simp] theorem mgmtPut_sealNext (k : Nat) (v : Word) : (mgmtPut s k v).sealNext = s.sealNext := rfl
@[simp] theorem mgmtPut_fillReq (k : Nat) (v : Word) : (mgmtPut s k v).fillReq = s.fillReq := rfl
@[simp] theorem mgmtPut_vsWaits (k : Nat) (v : Word) : (mgmtPut s k v).vsWaits = s.vsWaits := rfl
@[simp] theorem mgmtPut_lost (k : Nat) (v : Word) : (mgmtPut s k v).lost = s.lost := rfl
@[simp] theorem mgmtPut_leaseHeld (k : Nat) (v : Word) : (mgmtPut s k v).leaseHeld = s.leaseHeld := rfl
@[simp] theorem mgmtPut_vs (k : Nat) (v : Word) : (mgmtPut s k v).vs = s.vs := rfl
@[simp] theorem mgmtPut_egress (k : Nat) (v : Word) : (mgmtPut s k v).egress = s.egress := rfl
@[simp] theorem mgmtPut_ckpt (k : Nat) (v : Word) : (mgmtPut s k v).ckpt = s.ckpt := rfl
@[simp] theorem mgmtPut_parity (k : Nat) (v : Word) : (mgmtPut s k v).parity = s.parity := rfl
@[simp] theorem mgmtPut_parWrites (k : Nat) (v : Word) : (mgmtPut s k v).parWrites = s.parWrites := rfl
@[simp] theorem mgmtPut_parGen (k : Nat) (v : Word) : (mgmtPut s k v).parGen = s.parGen := rfl
@[simp] theorem mgmtPut_graphs (k : Nat) (v : Word) : (mgmtPut s k v).graphs = s.graphs := rfl
@[simp] theorem mgmtPut_nodes (k : Nat) (v : Word) : (mgmtPut s k v).nodes = s.nodes := rfl
@[simp] theorem mgmtPut_nextNode (k : Nat) (v : Word) : (mgmtPut s k v).nextNode = s.nextNode := rfl
@[simp] theorem mgmtPut_rot (k : Nat) (v : Word) : (mgmtPut s k v).rot = s.rot := rfl
@[simp] theorem mgmtPut_rotUsed (k : Nat) (v : Word) : (mgmtPut s k v).rotUsed = s.rotUsed := rfl
@[simp] theorem mgmtPut_arrivals (k : Nat) (v : Word) : (mgmtPut s k v).arrivals = s.arrivals := rfl
@[simp] theorem mgmtPut_nextHid (k : Nat) (v : Word) : (mgmtPut s k v).nextHid = s.nextHid := rfl
@[simp] theorem mgmtPut_spadZero (k : Nat) (v : Word) : (mgmtPut s k v).spadZero = s.spadZero := rfl
@[simp] theorem mgmtPut_lastCore (k : Nat) (v : Word) : (mgmtPut s k v).lastCore = s.lastCore := rfl
@[simp] theorem mgmtPut_inval (k : Nat) (v : Word) : (mgmtPut s k v).inval = s.inval := rfl
@[simp] theorem mgmtPut_freed (k : Nat) (v : Word) : (mgmtPut s k v).freed = s.freed := rfl
@[simp] theorem mgmtPut_placeQ (k : Nat) (v : Word) : (mgmtPut s k v).placeQ = s.placeQ := rfl
@[simp] theorem mgmtPut_resQ (k : Nat) (v : Word) : (mgmtPut s k v).resQ = s.resQ := rfl
@[simp] theorem mgmtPut_deferred (k : Nat) (v : Word) : (mgmtPut s k v).deferred = s.deferred := rfl
@[simp] theorem mgmtPut_transfers (k : Nat) (v : Word) : (mgmtPut s k v).transfers = s.transfers := rfl
@[simp] theorem mgmtPut_nextXfer (k : Nat) (v : Word) : (mgmtPut s k v).nextXfer = s.nextXfer := rfl
@[simp] theorem mgmtPut_peers (k : Nat) (v : Word) : (mgmtPut s k v).peers = s.peers := rfl
@[simp] theorem mgmtPut_collCounts (k : Nat) (v : Word) : (mgmtPut s k v).collCounts = s.collCounts := rfl
@[simp] theorem mgmtPut_errlog (k : Nat) (v : Word) : (mgmtPut s k v).errlog = s.errlog := rfl
@[simp] theorem mgmtPut_errSeq (k : Nat) (v : Word) : (mgmtPut s k v).errSeq = s.errSeq := rfl
@[simp] theorem mgmtPut_hostOut (k : Nat) (v : Word) : (mgmtPut s k v).hostOut = s.hostOut := rfl
@[simp] theorem mgmtPut_straitOut (k : Nat) (v : Word) : (mgmtPut s k v).straitOut = s.straitOut := rfl
@[simp] theorem mgmtPut_hostIn (k : Nat) (v : Word) : (mgmtPut s k v).hostIn = s.hostIn := rfl
@[simp] theorem mgmtPut_ports (k : Nat) (v : Word) : (mgmtPut s k v).ports = s.ports := rfl
@[simp] theorem mgmtPut_straitFails (k : Nat) (v : Word) : (mgmtPut s k v).straitFails = s.straitFails := rfl
@[simp] theorem mgmtPut_rollingBack (k : Nat) (v : Word) : (mgmtPut s k v).rollingBack = s.rollingBack := rfl
@[simp] theorem mgmtPut_unrec (k : Nat) (v : Word) : (mgmtPut s k v).unrec = s.unrec := rfl
@[simp] theorem mgmtPut_oz (k : Nat) (v : Word) : (mgmtPut s k v).oz = s.oz := rfl
@[simp] theorem mgmtPut_boot (k : Nat) (v : Word) : (mgmtPut s k v).boot = s.boot := rfl
@[simp] theorem mgmtPut_fw (k : Nat) (v : Word) : (mgmtPut s k v).fw = s.fw := rfl
@[simp] theorem mgmtPut_opSel (k : Nat) (v : Word) : (mgmtPut s k v).opSel = s.opSel := rfl
@[simp] theorem mgmtPut_phys (k : Nat) (v : Word) : (mgmtPut s k v).phys = s.phys := rfl
@[simp] theorem mgmtPut_pending (k : Nat) (v : Word) : (mgmtPut s k v).pending = s.pending := rfl
@[simp] theorem mgmtPut_sched (k : Nat) (v : Word) : (mgmtPut s k v).sched = s.sched := rfl
@[simp] theorem mgmtPut_clock (k : Nat) (v : Word) : (mgmtPut s k v).clock = s.clock := rfl
@[simp] theorem mgmtPut_turns (k : Nat) (v : Word) : (mgmtPut s k v).turns = s.turns := rfl
@[simp] theorem mgmtPut_free (k : Nat) (v : Word) : (mgmtPut s k v).free = s.free := rfl

@[simp] theorem interrupt_agent (c d k : Nat) (a : Word) : (interrupt s c d k a).agent = s.agent := rfl
@[simp] theorem interrupt_hart (c d k : Nat) (a : Word) : (interrupt s c d k a).hart = s.hart := rfl
@[simp] theorem interrupt_others (c d k : Nat) (a : Word) : (interrupt s c d k a).others = s.others := rfl
@[simp] theorem interrupt_mem (c d k : Nat) (a : Word) : (interrupt s c d k a).mem = s.mem := rfl
@[simp] theorem interrupt_poison (c d k : Nat) (a : Word) : (interrupt s c d k a).poison = s.poison := rfl
@[simp] theorem interrupt_spad (c d k : Nat) (a : Word) : (interrupt s c d k a).spad = s.spad := rfl
@[simp] theorem interrupt_spadPoison (c d k : Nat) (a : Word) : (interrupt s c d k a).spadPoison = s.spadPoison := rfl
@[simp] theorem interrupt_nc (c d k : Nat) (a : Word) : (interrupt s c d k a).nc = s.nc := rfl
@[simp] theorem interrupt_counted (c d k : Nat) (a : Word) : (interrupt s c d k a).counted = s.counted := rfl
@[simp] theorem interrupt_dir (c d k : Nat) (a : Word) : (interrupt s c d k a).dir = s.dir := rfl
@[simp] theorem interrupt_rdc (c d k : Nat) (a : Word) : (interrupt s c d k a).rdc = s.rdc := rfl
@[simp] theorem interrupt_dirQueue (c d k : Nat) (a : Word) : (interrupt s c d k a).dirQueue = s.dirQueue := rfl
@[simp] theorem interrupt_act (c d k : Nat) (a : Word) : (interrupt s c d k a).act = s.act := rfl
@[simp] theorem interrupt_mgmt (c d k : Nat) (a : Word) : (interrupt s c d k a).mgmt = s.mgmt := rfl
@[simp] theorem interrupt_rin (c d k : Nat) (a : Word) : (interrupt s c d k a).rin = s.rin := rfl
@[simp] theorem interrupt_sealedRin (c d k : Nat) (a : Word) : (interrupt s c d k a).sealedRin = s.sealedRin := rfl
@[simp] theorem interrupt_sealing (c d k : Nat) (a : Word) : (interrupt s c d k a).sealing = s.sealing := rfl
@[simp] theorem interrupt_sealNext (c d k : Nat) (a : Word) : (interrupt s c d k a).sealNext = s.sealNext := rfl
@[simp] theorem interrupt_fillReq (c d k : Nat) (a : Word) : (interrupt s c d k a).fillReq = s.fillReq := rfl
@[simp] theorem interrupt_vsWaits (c d k : Nat) (a : Word) : (interrupt s c d k a).vsWaits = s.vsWaits := rfl
@[simp] theorem interrupt_lost (c d k : Nat) (a : Word) : (interrupt s c d k a).lost = s.lost := rfl
@[simp] theorem interrupt_leaseHeld (c d k : Nat) (a : Word) : (interrupt s c d k a).leaseHeld = s.leaseHeld := rfl
@[simp] theorem interrupt_vs (c d k : Nat) (a : Word) : (interrupt s c d k a).vs = s.vs := rfl
@[simp] theorem interrupt_egress (c d k : Nat) (a : Word) : (interrupt s c d k a).egress = s.egress := rfl
@[simp] theorem interrupt_ckpt (c d k : Nat) (a : Word) : (interrupt s c d k a).ckpt = s.ckpt := rfl
@[simp] theorem interrupt_parity (c d k : Nat) (a : Word) : (interrupt s c d k a).parity = s.parity := rfl
@[simp] theorem interrupt_parWrites (c d k : Nat) (a : Word) : (interrupt s c d k a).parWrites = s.parWrites := rfl
@[simp] theorem interrupt_parGen (c d k : Nat) (a : Word) : (interrupt s c d k a).parGen = s.parGen := rfl
@[simp] theorem interrupt_graphs (c d k : Nat) (a : Word) : (interrupt s c d k a).graphs = s.graphs := rfl
@[simp] theorem interrupt_nodes (c d k : Nat) (a : Word) : (interrupt s c d k a).nodes = s.nodes := rfl
@[simp] theorem interrupt_nextNode (c d k : Nat) (a : Word) : (interrupt s c d k a).nextNode = s.nextNode := rfl
@[simp] theorem interrupt_rot (c d k : Nat) (a : Word) : (interrupt s c d k a).rot = s.rot := rfl
@[simp] theorem interrupt_rotUsed (c d k : Nat) (a : Word) : (interrupt s c d k a).rotUsed = s.rotUsed := rfl
@[simp] theorem interrupt_arrivals (c d k : Nat) (a : Word) : (interrupt s c d k a).arrivals = s.arrivals := rfl
@[simp] theorem interrupt_nextHid (c d k : Nat) (a : Word) : (interrupt s c d k a).nextHid = s.nextHid := rfl
@[simp] theorem interrupt_spadZero (c d k : Nat) (a : Word) : (interrupt s c d k a).spadZero = s.spadZero := rfl
@[simp] theorem interrupt_lastCore (c d k : Nat) (a : Word) : (interrupt s c d k a).lastCore = s.lastCore := rfl
@[simp] theorem interrupt_inval (c d k : Nat) (a : Word) : (interrupt s c d k a).inval = s.inval := rfl
@[simp] theorem interrupt_freed (c d k : Nat) (a : Word) : (interrupt s c d k a).freed = s.freed := rfl
@[simp] theorem interrupt_placeQ (c d k : Nat) (a : Word) : (interrupt s c d k a).placeQ = s.placeQ := rfl
@[simp] theorem interrupt_resQ (c d k : Nat) (a : Word) : (interrupt s c d k a).resQ = s.resQ := rfl
@[simp] theorem interrupt_deferred (c d k : Nat) (a : Word) : (interrupt s c d k a).deferred = s.deferred := rfl
@[simp] theorem interrupt_transfers (c d k : Nat) (a : Word) : (interrupt s c d k a).transfers = s.transfers := rfl
@[simp] theorem interrupt_nextXfer (c d k : Nat) (a : Word) : (interrupt s c d k a).nextXfer = s.nextXfer := rfl
@[simp] theorem interrupt_peers (c d k : Nat) (a : Word) : (interrupt s c d k a).peers = s.peers := rfl
@[simp] theorem interrupt_collCounts (c d k : Nat) (a : Word) : (interrupt s c d k a).collCounts = s.collCounts := rfl
@[simp] theorem interrupt_errlog (c d k : Nat) (a : Word) : (interrupt s c d k a).errlog = s.errlog := rfl
@[simp] theorem interrupt_errSeq (c d k : Nat) (a : Word) : (interrupt s c d k a).errSeq = s.errSeq := rfl
@[simp] theorem interrupt_straitOut (c d k : Nat) (a : Word) : (interrupt s c d k a).straitOut = s.straitOut := rfl
@[simp] theorem interrupt_hostIn (c d k : Nat) (a : Word) : (interrupt s c d k a).hostIn = s.hostIn := rfl
@[simp] theorem interrupt_ports (c d k : Nat) (a : Word) : (interrupt s c d k a).ports = s.ports := rfl
@[simp] theorem interrupt_straitFails (c d k : Nat) (a : Word) : (interrupt s c d k a).straitFails = s.straitFails := rfl
@[simp] theorem interrupt_rollingBack (c d k : Nat) (a : Word) : (interrupt s c d k a).rollingBack = s.rollingBack := rfl
@[simp] theorem interrupt_unrec (c d k : Nat) (a : Word) : (interrupt s c d k a).unrec = s.unrec := rfl
@[simp] theorem interrupt_oz (c d k : Nat) (a : Word) : (interrupt s c d k a).oz = s.oz := rfl
@[simp] theorem interrupt_boot (c d k : Nat) (a : Word) : (interrupt s c d k a).boot = s.boot := rfl
@[simp] theorem interrupt_fw (c d k : Nat) (a : Word) : (interrupt s c d k a).fw = s.fw := rfl
@[simp] theorem interrupt_opSel (c d k : Nat) (a : Word) : (interrupt s c d k a).opSel = s.opSel := rfl
@[simp] theorem interrupt_phys (c d k : Nat) (a : Word) : (interrupt s c d k a).phys = s.phys := rfl
@[simp] theorem interrupt_pending (c d k : Nat) (a : Word) : (interrupt s c d k a).pending = s.pending := rfl
@[simp] theorem interrupt_sched (c d k : Nat) (a : Word) : (interrupt s c d k a).sched = s.sched := rfl
@[simp] theorem interrupt_clock (c d k : Nat) (a : Word) : (interrupt s c d k a).clock = s.clock := rfl
@[simp] theorem interrupt_turns (c d k : Nat) (a : Word) : (interrupt s c d k a).turns = s.turns := rfl
@[simp] theorem interrupt_free (c d k : Nat) (a : Word) : (interrupt s c d k a).free = s.free := rfl

@[simp] theorem endCount_agent (l : Nat) : (endCount s l).agent = s.agent := rfl
@[simp] theorem endCount_hart (l : Nat) : (endCount s l).hart = s.hart := rfl
@[simp] theorem endCount_others (l : Nat) : (endCount s l).others = s.others := rfl
@[simp] theorem endCount_mem (l : Nat) : (endCount s l).mem = s.mem := rfl
@[simp] theorem endCount_poison (l : Nat) : (endCount s l).poison = s.poison := rfl
@[simp] theorem endCount_spad (l : Nat) : (endCount s l).spad = s.spad := rfl
@[simp] theorem endCount_spadPoison (l : Nat) : (endCount s l).spadPoison = s.spadPoison := rfl
@[simp] theorem endCount_nc (l : Nat) : (endCount s l).nc = s.nc := rfl
@[simp] theorem endCount_dir (l : Nat) : (endCount s l).dir = s.dir := rfl
@[simp] theorem endCount_rdc (l : Nat) : (endCount s l).rdc = s.rdc := rfl
@[simp] theorem endCount_dirQueue (l : Nat) : (endCount s l).dirQueue = s.dirQueue := rfl
@[simp] theorem endCount_act (l : Nat) : (endCount s l).act = s.act := rfl
@[simp] theorem endCount_mgmt (l : Nat) : (endCount s l).mgmt = s.mgmt := rfl
@[simp] theorem endCount_rin (l : Nat) : (endCount s l).rin = s.rin := rfl
@[simp] theorem endCount_sealedRin (l : Nat) : (endCount s l).sealedRin = s.sealedRin := rfl
@[simp] theorem endCount_sealing (l : Nat) : (endCount s l).sealing = s.sealing := rfl
@[simp] theorem endCount_sealNext (l : Nat) : (endCount s l).sealNext = s.sealNext := rfl
@[simp] theorem endCount_fillReq (l : Nat) : (endCount s l).fillReq = s.fillReq := rfl
@[simp] theorem endCount_vsWaits (l : Nat) : (endCount s l).vsWaits = s.vsWaits := rfl
@[simp] theorem endCount_lost (l : Nat) : (endCount s l).lost = s.lost := rfl
@[simp] theorem endCount_leaseHeld (l : Nat) : (endCount s l).leaseHeld = s.leaseHeld := rfl
@[simp] theorem endCount_vs (l : Nat) : (endCount s l).vs = s.vs := rfl
@[simp] theorem endCount_egress (l : Nat) : (endCount s l).egress = s.egress := rfl
@[simp] theorem endCount_ckpt (l : Nat) : (endCount s l).ckpt = s.ckpt := rfl
@[simp] theorem endCount_parity (l : Nat) : (endCount s l).parity = s.parity := rfl
@[simp] theorem endCount_parWrites (l : Nat) : (endCount s l).parWrites = s.parWrites := rfl
@[simp] theorem endCount_parGen (l : Nat) : (endCount s l).parGen = s.parGen := rfl
@[simp] theorem endCount_graphs (l : Nat) : (endCount s l).graphs = s.graphs := rfl
@[simp] theorem endCount_nodes (l : Nat) : (endCount s l).nodes = s.nodes := rfl
@[simp] theorem endCount_nextNode (l : Nat) : (endCount s l).nextNode = s.nextNode := rfl
@[simp] theorem endCount_rot (l : Nat) : (endCount s l).rot = s.rot := rfl
@[simp] theorem endCount_rotUsed (l : Nat) : (endCount s l).rotUsed = s.rotUsed := rfl
@[simp] theorem endCount_arrivals (l : Nat) : (endCount s l).arrivals = s.arrivals := rfl
@[simp] theorem endCount_nextHid (l : Nat) : (endCount s l).nextHid = s.nextHid := rfl
@[simp] theorem endCount_spadZero (l : Nat) : (endCount s l).spadZero = s.spadZero := rfl
@[simp] theorem endCount_lastCore (l : Nat) : (endCount s l).lastCore = s.lastCore := rfl
@[simp] theorem endCount_inval (l : Nat) : (endCount s l).inval = s.inval := rfl
@[simp] theorem endCount_freed (l : Nat) : (endCount s l).freed = s.freed := rfl
@[simp] theorem endCount_placeQ (l : Nat) : (endCount s l).placeQ = s.placeQ := rfl
@[simp] theorem endCount_resQ (l : Nat) : (endCount s l).resQ = s.resQ := rfl
@[simp] theorem endCount_deferred (l : Nat) : (endCount s l).deferred = s.deferred := rfl
@[simp] theorem endCount_transfers (l : Nat) : (endCount s l).transfers = s.transfers := rfl
@[simp] theorem endCount_nextXfer (l : Nat) : (endCount s l).nextXfer = s.nextXfer := rfl
@[simp] theorem endCount_peers (l : Nat) : (endCount s l).peers = s.peers := rfl
@[simp] theorem endCount_collCounts (l : Nat) : (endCount s l).collCounts = s.collCounts := rfl
@[simp] theorem endCount_errlog (l : Nat) : (endCount s l).errlog = s.errlog := rfl
@[simp] theorem endCount_errSeq (l : Nat) : (endCount s l).errSeq = s.errSeq := rfl
@[simp] theorem endCount_hostOut (l : Nat) : (endCount s l).hostOut = s.hostOut := rfl
@[simp] theorem endCount_straitOut (l : Nat) : (endCount s l).straitOut = s.straitOut := rfl
@[simp] theorem endCount_hostIn (l : Nat) : (endCount s l).hostIn = s.hostIn := rfl
@[simp] theorem endCount_ports (l : Nat) : (endCount s l).ports = s.ports := rfl
@[simp] theorem endCount_straitFails (l : Nat) : (endCount s l).straitFails = s.straitFails := rfl
@[simp] theorem endCount_rollingBack (l : Nat) : (endCount s l).rollingBack = s.rollingBack := rfl
@[simp] theorem endCount_unrec (l : Nat) : (endCount s l).unrec = s.unrec := rfl
@[simp] theorem endCount_oz (l : Nat) : (endCount s l).oz = s.oz := rfl
@[simp] theorem endCount_boot (l : Nat) : (endCount s l).boot = s.boot := rfl
@[simp] theorem endCount_fw (l : Nat) : (endCount s l).fw = s.fw := rfl
@[simp] theorem endCount_opSel (l : Nat) : (endCount s l).opSel = s.opSel := rfl
@[simp] theorem endCount_phys (l : Nat) : (endCount s l).phys = s.phys := rfl
@[simp] theorem endCount_pending (l : Nat) : (endCount s l).pending = s.pending := rfl
@[simp] theorem endCount_sched (l : Nat) : (endCount s l).sched = s.sched := rfl
@[simp] theorem endCount_clock (l : Nat) : (endCount s l).clock = s.clock := rfl
@[simp] theorem endCount_turns (l : Nat) : (endCount s l).turns = s.turns := rfl
@[simp] theorem endCount_free (l : Nat) : (endCount s l).free = s.free := rfl

@[simp] theorem dropDet_agent (n : Nat) : (dropDet s n).agent = s.agent := rfl
@[simp] theorem dropDet_hart (n : Nat) : (dropDet s n).hart = s.hart := rfl
@[simp] theorem dropDet_others (n : Nat) : (dropDet s n).others = s.others := rfl
@[simp] theorem dropDet_mem (n : Nat) : (dropDet s n).mem = s.mem := rfl
@[simp] theorem dropDet_poison (n : Nat) : (dropDet s n).poison = s.poison := rfl
@[simp] theorem dropDet_spad (n : Nat) : (dropDet s n).spad = s.spad := rfl
@[simp] theorem dropDet_spadPoison (n : Nat) : (dropDet s n).spadPoison = s.spadPoison := rfl
@[simp] theorem dropDet_nc (n : Nat) : (dropDet s n).nc = s.nc := rfl
@[simp] theorem dropDet_counted (n : Nat) : (dropDet s n).counted = s.counted := rfl
@[simp] theorem dropDet_dir (n : Nat) : (dropDet s n).dir = s.dir := rfl
@[simp] theorem dropDet_rdc (n : Nat) : (dropDet s n).rdc = s.rdc := rfl
@[simp] theorem dropDet_dirQueue (n : Nat) : (dropDet s n).dirQueue = s.dirQueue := rfl
@[simp] theorem dropDet_act (n : Nat) : (dropDet s n).act = s.act := rfl
@[simp] theorem dropDet_mgmt (n : Nat) : (dropDet s n).mgmt = s.mgmt := rfl
@[simp] theorem dropDet_rin (n : Nat) : (dropDet s n).rin = s.rin := rfl
@[simp] theorem dropDet_sealedRin (n : Nat) : (dropDet s n).sealedRin = s.sealedRin := rfl
@[simp] theorem dropDet_sealing (n : Nat) : (dropDet s n).sealing = s.sealing := rfl
@[simp] theorem dropDet_sealNext (n : Nat) : (dropDet s n).sealNext = s.sealNext := rfl
@[simp] theorem dropDet_fillReq (n : Nat) : (dropDet s n).fillReq = s.fillReq := rfl
@[simp] theorem dropDet_vsWaits (n : Nat) : (dropDet s n).vsWaits = s.vsWaits := rfl
@[simp] theorem dropDet_lost (n : Nat) : (dropDet s n).lost = s.lost := rfl
@[simp] theorem dropDet_leaseHeld (n : Nat) : (dropDet s n).leaseHeld = s.leaseHeld := rfl
@[simp] theorem dropDet_egress (n : Nat) : (dropDet s n).egress = s.egress := rfl
@[simp] theorem dropDet_ckpt (n : Nat) : (dropDet s n).ckpt = s.ckpt := rfl
@[simp] theorem dropDet_parity (n : Nat) : (dropDet s n).parity = s.parity := rfl
@[simp] theorem dropDet_parWrites (n : Nat) : (dropDet s n).parWrites = s.parWrites := rfl
@[simp] theorem dropDet_parGen (n : Nat) : (dropDet s n).parGen = s.parGen := rfl
@[simp] theorem dropDet_graphs (n : Nat) : (dropDet s n).graphs = s.graphs := rfl
@[simp] theorem dropDet_nodes (n : Nat) : (dropDet s n).nodes = s.nodes := rfl
@[simp] theorem dropDet_nextNode (n : Nat) : (dropDet s n).nextNode = s.nextNode := rfl
@[simp] theorem dropDet_rot (n : Nat) : (dropDet s n).rot = s.rot := rfl
@[simp] theorem dropDet_rotUsed (n : Nat) : (dropDet s n).rotUsed = s.rotUsed := rfl
@[simp] theorem dropDet_arrivals (n : Nat) : (dropDet s n).arrivals = s.arrivals := rfl
@[simp] theorem dropDet_nextHid (n : Nat) : (dropDet s n).nextHid = s.nextHid := rfl
@[simp] theorem dropDet_spadZero (n : Nat) : (dropDet s n).spadZero = s.spadZero := rfl
@[simp] theorem dropDet_lastCore (n : Nat) : (dropDet s n).lastCore = s.lastCore := rfl
@[simp] theorem dropDet_inval (n : Nat) : (dropDet s n).inval = s.inval := rfl
@[simp] theorem dropDet_freed (n : Nat) : (dropDet s n).freed = s.freed := rfl
@[simp] theorem dropDet_placeQ (n : Nat) : (dropDet s n).placeQ = s.placeQ := rfl
@[simp] theorem dropDet_resQ (n : Nat) : (dropDet s n).resQ = s.resQ := rfl
@[simp] theorem dropDet_deferred (n : Nat) : (dropDet s n).deferred = s.deferred := rfl
@[simp] theorem dropDet_transfers (n : Nat) : (dropDet s n).transfers = s.transfers := rfl
@[simp] theorem dropDet_nextXfer (n : Nat) : (dropDet s n).nextXfer = s.nextXfer := rfl
@[simp] theorem dropDet_peers (n : Nat) : (dropDet s n).peers = s.peers := rfl
@[simp] theorem dropDet_collCounts (n : Nat) : (dropDet s n).collCounts = s.collCounts := rfl
@[simp] theorem dropDet_errlog (n : Nat) : (dropDet s n).errlog = s.errlog := rfl
@[simp] theorem dropDet_errSeq (n : Nat) : (dropDet s n).errSeq = s.errSeq := rfl
@[simp] theorem dropDet_hostOut (n : Nat) : (dropDet s n).hostOut = s.hostOut := rfl
@[simp] theorem dropDet_straitOut (n : Nat) : (dropDet s n).straitOut = s.straitOut := rfl
@[simp] theorem dropDet_hostIn (n : Nat) : (dropDet s n).hostIn = s.hostIn := rfl
@[simp] theorem dropDet_ports (n : Nat) : (dropDet s n).ports = s.ports := rfl
@[simp] theorem dropDet_straitFails (n : Nat) : (dropDet s n).straitFails = s.straitFails := rfl
@[simp] theorem dropDet_rollingBack (n : Nat) : (dropDet s n).rollingBack = s.rollingBack := rfl
@[simp] theorem dropDet_unrec (n : Nat) : (dropDet s n).unrec = s.unrec := rfl
@[simp] theorem dropDet_oz (n : Nat) : (dropDet s n).oz = s.oz := rfl
@[simp] theorem dropDet_boot (n : Nat) : (dropDet s n).boot = s.boot := rfl
@[simp] theorem dropDet_fw (n : Nat) : (dropDet s n).fw = s.fw := rfl
@[simp] theorem dropDet_opSel (n : Nat) : (dropDet s n).opSel = s.opSel := rfl
@[simp] theorem dropDet_phys (n : Nat) : (dropDet s n).phys = s.phys := rfl
@[simp] theorem dropDet_pending (n : Nat) : (dropDet s n).pending = s.pending := rfl
@[simp] theorem dropDet_sched (n : Nat) : (dropDet s n).sched = s.sched := rfl
@[simp] theorem dropDet_clock (n : Nat) : (dropDet s n).clock = s.clock := rfl
@[simp] theorem dropDet_turns (n : Nat) : (dropDet s n).turns = s.turns := rfl
@[simp] theorem dropDet_free (n : Nat) : (dropDet s n).free = s.free := rfl

@[simp] theorem modVec_agent (f : Vec → Vec) : (s.modVec f).agent = s.agent := rfl
@[simp] theorem modVec_hart (f : Vec → Vec) : (s.modVec f).hart = { s.hart with vec := f s.hart.vec } := rfl
@[simp] theorem modVec_others (f : Vec → Vec) : (s.modVec f).others = s.others := rfl
@[simp] theorem modVec_mem (f : Vec → Vec) : (s.modVec f).mem = s.mem := rfl
@[simp] theorem modVec_poison (f : Vec → Vec) : (s.modVec f).poison = s.poison := rfl
@[simp] theorem modVec_spad (f : Vec → Vec) : (s.modVec f).spad = s.spad := rfl
@[simp] theorem modVec_spadPoison (f : Vec → Vec) : (s.modVec f).spadPoison = s.spadPoison := rfl
@[simp] theorem modVec_nc (f : Vec → Vec) : (s.modVec f).nc = s.nc := rfl
@[simp] theorem modVec_counted (f : Vec → Vec) : (s.modVec f).counted = s.counted := rfl
@[simp] theorem modVec_dir (f : Vec → Vec) : (s.modVec f).dir = s.dir := rfl
@[simp] theorem modVec_rdc (f : Vec → Vec) : (s.modVec f).rdc = s.rdc := rfl
@[simp] theorem modVec_dirQueue (f : Vec → Vec) : (s.modVec f).dirQueue = s.dirQueue := rfl
@[simp] theorem modVec_act (f : Vec → Vec) : (s.modVec f).act = s.act := rfl
@[simp] theorem modVec_mgmt (f : Vec → Vec) : (s.modVec f).mgmt = s.mgmt := rfl
@[simp] theorem modVec_rin (f : Vec → Vec) : (s.modVec f).rin = s.rin := rfl
@[simp] theorem modVec_sealedRin (f : Vec → Vec) : (s.modVec f).sealedRin = s.sealedRin := rfl
@[simp] theorem modVec_sealing (f : Vec → Vec) : (s.modVec f).sealing = s.sealing := rfl
@[simp] theorem modVec_sealNext (f : Vec → Vec) : (s.modVec f).sealNext = s.sealNext := rfl
@[simp] theorem modVec_fillReq (f : Vec → Vec) : (s.modVec f).fillReq = s.fillReq := rfl
@[simp] theorem modVec_vsWaits (f : Vec → Vec) : (s.modVec f).vsWaits = s.vsWaits := rfl
@[simp] theorem modVec_lost (f : Vec → Vec) : (s.modVec f).lost = s.lost := rfl
@[simp] theorem modVec_leaseHeld (f : Vec → Vec) : (s.modVec f).leaseHeld = s.leaseHeld := rfl
@[simp] theorem modVec_vs (f : Vec → Vec) : (s.modVec f).vs = s.vs := rfl
@[simp] theorem modVec_egress (f : Vec → Vec) : (s.modVec f).egress = s.egress := rfl
@[simp] theorem modVec_ckpt (f : Vec → Vec) : (s.modVec f).ckpt = s.ckpt := rfl
@[simp] theorem modVec_parity (f : Vec → Vec) : (s.modVec f).parity = s.parity := rfl
@[simp] theorem modVec_parWrites (f : Vec → Vec) : (s.modVec f).parWrites = s.parWrites := rfl
@[simp] theorem modVec_parGen (f : Vec → Vec) : (s.modVec f).parGen = s.parGen := rfl
@[simp] theorem modVec_graphs (f : Vec → Vec) : (s.modVec f).graphs = s.graphs := rfl
@[simp] theorem modVec_nodes (f : Vec → Vec) : (s.modVec f).nodes = s.nodes := rfl
@[simp] theorem modVec_nextNode (f : Vec → Vec) : (s.modVec f).nextNode = s.nextNode := rfl
@[simp] theorem modVec_rot (f : Vec → Vec) : (s.modVec f).rot = s.rot := rfl
@[simp] theorem modVec_rotUsed (f : Vec → Vec) : (s.modVec f).rotUsed = s.rotUsed := rfl
@[simp] theorem modVec_arrivals (f : Vec → Vec) : (s.modVec f).arrivals = s.arrivals := rfl
@[simp] theorem modVec_nextHid (f : Vec → Vec) : (s.modVec f).nextHid = s.nextHid := rfl
@[simp] theorem modVec_spadZero (f : Vec → Vec) : (s.modVec f).spadZero = s.spadZero := rfl
@[simp] theorem modVec_lastCore (f : Vec → Vec) : (s.modVec f).lastCore = s.lastCore := rfl
@[simp] theorem modVec_inval (f : Vec → Vec) : (s.modVec f).inval = s.inval := rfl
@[simp] theorem modVec_freed (f : Vec → Vec) : (s.modVec f).freed = s.freed := rfl
@[simp] theorem modVec_placeQ (f : Vec → Vec) : (s.modVec f).placeQ = s.placeQ := rfl
@[simp] theorem modVec_resQ (f : Vec → Vec) : (s.modVec f).resQ = s.resQ := rfl
@[simp] theorem modVec_deferred (f : Vec → Vec) : (s.modVec f).deferred = s.deferred := rfl
@[simp] theorem modVec_transfers (f : Vec → Vec) : (s.modVec f).transfers = s.transfers := rfl
@[simp] theorem modVec_nextXfer (f : Vec → Vec) : (s.modVec f).nextXfer = s.nextXfer := rfl
@[simp] theorem modVec_peers (f : Vec → Vec) : (s.modVec f).peers = s.peers := rfl
@[simp] theorem modVec_collCounts (f : Vec → Vec) : (s.modVec f).collCounts = s.collCounts := rfl
@[simp] theorem modVec_errlog (f : Vec → Vec) : (s.modVec f).errlog = s.errlog := rfl
@[simp] theorem modVec_errSeq (f : Vec → Vec) : (s.modVec f).errSeq = s.errSeq := rfl
@[simp] theorem modVec_hostOut (f : Vec → Vec) : (s.modVec f).hostOut = s.hostOut := rfl
@[simp] theorem modVec_straitOut (f : Vec → Vec) : (s.modVec f).straitOut = s.straitOut := rfl
@[simp] theorem modVec_hostIn (f : Vec → Vec) : (s.modVec f).hostIn = s.hostIn := rfl
@[simp] theorem modVec_ports (f : Vec → Vec) : (s.modVec f).ports = s.ports := rfl
@[simp] theorem modVec_straitFails (f : Vec → Vec) : (s.modVec f).straitFails = s.straitFails := rfl
@[simp] theorem modVec_rollingBack (f : Vec → Vec) : (s.modVec f).rollingBack = s.rollingBack := rfl
@[simp] theorem modVec_unrec (f : Vec → Vec) : (s.modVec f).unrec = s.unrec := rfl
@[simp] theorem modVec_oz (f : Vec → Vec) : (s.modVec f).oz = s.oz := rfl
@[simp] theorem modVec_boot (f : Vec → Vec) : (s.modVec f).boot = s.boot := rfl
@[simp] theorem modVec_fw (f : Vec → Vec) : (s.modVec f).fw = s.fw := rfl
@[simp] theorem modVec_opSel (f : Vec → Vec) : (s.modVec f).opSel = s.opSel := rfl
@[simp] theorem modVec_phys (f : Vec → Vec) : (s.modVec f).phys = s.phys := rfl
@[simp] theorem modVec_pending (f : Vec → Vec) : (s.modVec f).pending = s.pending := rfl
@[simp] theorem modVec_sched (f : Vec → Vec) : (s.modVec f).sched = s.sched := rfl
@[simp] theorem modVec_clock (f : Vec → Vec) : (s.modVec f).clock = s.clock := rfl
@[simp] theorem modVec_turns (f : Vec → Vec) : (s.modVec f).turns = s.turns := rfl
@[simp] theorem modVec_free (f : Vec → Vec) : (s.modVec f).free = s.free := rfl

@[simp] theorem modMat_agent (f : Mat → Mat) : (s.modMat f).agent = s.agent := rfl
@[simp] theorem modMat_hart (f : Mat → Mat) : (s.modMat f).hart = { s.hart with mat := f s.hart.mat } := rfl
@[simp] theorem modMat_others (f : Mat → Mat) : (s.modMat f).others = s.others := rfl
@[simp] theorem modMat_mem (f : Mat → Mat) : (s.modMat f).mem = s.mem := rfl
@[simp] theorem modMat_poison (f : Mat → Mat) : (s.modMat f).poison = s.poison := rfl
@[simp] theorem modMat_spad (f : Mat → Mat) : (s.modMat f).spad = s.spad := rfl
@[simp] theorem modMat_spadPoison (f : Mat → Mat) : (s.modMat f).spadPoison = s.spadPoison := rfl
@[simp] theorem modMat_nc (f : Mat → Mat) : (s.modMat f).nc = s.nc := rfl
@[simp] theorem modMat_counted (f : Mat → Mat) : (s.modMat f).counted = s.counted := rfl
@[simp] theorem modMat_dir (f : Mat → Mat) : (s.modMat f).dir = s.dir := rfl
@[simp] theorem modMat_rdc (f : Mat → Mat) : (s.modMat f).rdc = s.rdc := rfl
@[simp] theorem modMat_dirQueue (f : Mat → Mat) : (s.modMat f).dirQueue = s.dirQueue := rfl
@[simp] theorem modMat_act (f : Mat → Mat) : (s.modMat f).act = s.act := rfl
@[simp] theorem modMat_mgmt (f : Mat → Mat) : (s.modMat f).mgmt = s.mgmt := rfl
@[simp] theorem modMat_rin (f : Mat → Mat) : (s.modMat f).rin = s.rin := rfl
@[simp] theorem modMat_sealedRin (f : Mat → Mat) : (s.modMat f).sealedRin = s.sealedRin := rfl
@[simp] theorem modMat_sealing (f : Mat → Mat) : (s.modMat f).sealing = s.sealing := rfl
@[simp] theorem modMat_sealNext (f : Mat → Mat) : (s.modMat f).sealNext = s.sealNext := rfl
@[simp] theorem modMat_fillReq (f : Mat → Mat) : (s.modMat f).fillReq = s.fillReq := rfl
@[simp] theorem modMat_vsWaits (f : Mat → Mat) : (s.modMat f).vsWaits = s.vsWaits := rfl
@[simp] theorem modMat_lost (f : Mat → Mat) : (s.modMat f).lost = s.lost := rfl
@[simp] theorem modMat_leaseHeld (f : Mat → Mat) : (s.modMat f).leaseHeld = s.leaseHeld := rfl
@[simp] theorem modMat_vs (f : Mat → Mat) : (s.modMat f).vs = s.vs := rfl
@[simp] theorem modMat_egress (f : Mat → Mat) : (s.modMat f).egress = s.egress := rfl
@[simp] theorem modMat_ckpt (f : Mat → Mat) : (s.modMat f).ckpt = s.ckpt := rfl
@[simp] theorem modMat_parity (f : Mat → Mat) : (s.modMat f).parity = s.parity := rfl
@[simp] theorem modMat_parWrites (f : Mat → Mat) : (s.modMat f).parWrites = s.parWrites := rfl
@[simp] theorem modMat_parGen (f : Mat → Mat) : (s.modMat f).parGen = s.parGen := rfl
@[simp] theorem modMat_graphs (f : Mat → Mat) : (s.modMat f).graphs = s.graphs := rfl
@[simp] theorem modMat_nodes (f : Mat → Mat) : (s.modMat f).nodes = s.nodes := rfl
@[simp] theorem modMat_nextNode (f : Mat → Mat) : (s.modMat f).nextNode = s.nextNode := rfl
@[simp] theorem modMat_rot (f : Mat → Mat) : (s.modMat f).rot = s.rot := rfl
@[simp] theorem modMat_rotUsed (f : Mat → Mat) : (s.modMat f).rotUsed = s.rotUsed := rfl
@[simp] theorem modMat_arrivals (f : Mat → Mat) : (s.modMat f).arrivals = s.arrivals := rfl
@[simp] theorem modMat_nextHid (f : Mat → Mat) : (s.modMat f).nextHid = s.nextHid := rfl
@[simp] theorem modMat_spadZero (f : Mat → Mat) : (s.modMat f).spadZero = s.spadZero := rfl
@[simp] theorem modMat_lastCore (f : Mat → Mat) : (s.modMat f).lastCore = s.lastCore := rfl
@[simp] theorem modMat_inval (f : Mat → Mat) : (s.modMat f).inval = s.inval := rfl
@[simp] theorem modMat_freed (f : Mat → Mat) : (s.modMat f).freed = s.freed := rfl
@[simp] theorem modMat_placeQ (f : Mat → Mat) : (s.modMat f).placeQ = s.placeQ := rfl
@[simp] theorem modMat_resQ (f : Mat → Mat) : (s.modMat f).resQ = s.resQ := rfl
@[simp] theorem modMat_deferred (f : Mat → Mat) : (s.modMat f).deferred = s.deferred := rfl
@[simp] theorem modMat_transfers (f : Mat → Mat) : (s.modMat f).transfers = s.transfers := rfl
@[simp] theorem modMat_nextXfer (f : Mat → Mat) : (s.modMat f).nextXfer = s.nextXfer := rfl
@[simp] theorem modMat_peers (f : Mat → Mat) : (s.modMat f).peers = s.peers := rfl
@[simp] theorem modMat_collCounts (f : Mat → Mat) : (s.modMat f).collCounts = s.collCounts := rfl
@[simp] theorem modMat_errlog (f : Mat → Mat) : (s.modMat f).errlog = s.errlog := rfl
@[simp] theorem modMat_errSeq (f : Mat → Mat) : (s.modMat f).errSeq = s.errSeq := rfl
@[simp] theorem modMat_hostOut (f : Mat → Mat) : (s.modMat f).hostOut = s.hostOut := rfl
@[simp] theorem modMat_straitOut (f : Mat → Mat) : (s.modMat f).straitOut = s.straitOut := rfl
@[simp] theorem modMat_hostIn (f : Mat → Mat) : (s.modMat f).hostIn = s.hostIn := rfl
@[simp] theorem modMat_ports (f : Mat → Mat) : (s.modMat f).ports = s.ports := rfl
@[simp] theorem modMat_straitFails (f : Mat → Mat) : (s.modMat f).straitFails = s.straitFails := rfl
@[simp] theorem modMat_rollingBack (f : Mat → Mat) : (s.modMat f).rollingBack = s.rollingBack := rfl
@[simp] theorem modMat_unrec (f : Mat → Mat) : (s.modMat f).unrec = s.unrec := rfl
@[simp] theorem modMat_oz (f : Mat → Mat) : (s.modMat f).oz = s.oz := rfl
@[simp] theorem modMat_boot (f : Mat → Mat) : (s.modMat f).boot = s.boot := rfl
@[simp] theorem modMat_fw (f : Mat → Mat) : (s.modMat f).fw = s.fw := rfl
@[simp] theorem modMat_opSel (f : Mat → Mat) : (s.modMat f).opSel = s.opSel := rfl
@[simp] theorem modMat_phys (f : Mat → Mat) : (s.modMat f).phys = s.phys := rfl
@[simp] theorem modMat_pending (f : Mat → Mat) : (s.modMat f).pending = s.pending := rfl
@[simp] theorem modMat_sched (f : Mat → Mat) : (s.modMat f).sched = s.sched := rfl
@[simp] theorem modMat_clock (f : Mat → Mat) : (s.modMat f).clock = s.clock := rfl
@[simp] theorem modMat_turns (f : Mat → Mat) : (s.modMat f).turns = s.turns := rfl
@[simp] theorem modMat_free (f : Mat → Mat) : (s.modMat f).free = s.free := rfl

@[simp] theorem modDist_agent (f : Dist → Dist) : (s.modDist f).agent = s.agent := rfl
@[simp] theorem modDist_hart (f : Dist → Dist) : (s.modDist f).hart = { s.hart with dist := f s.hart.dist } := rfl
@[simp] theorem modDist_others (f : Dist → Dist) : (s.modDist f).others = s.others := rfl
@[simp] theorem modDist_mem (f : Dist → Dist) : (s.modDist f).mem = s.mem := rfl
@[simp] theorem modDist_poison (f : Dist → Dist) : (s.modDist f).poison = s.poison := rfl
@[simp] theorem modDist_spad (f : Dist → Dist) : (s.modDist f).spad = s.spad := rfl
@[simp] theorem modDist_spadPoison (f : Dist → Dist) : (s.modDist f).spadPoison = s.spadPoison := rfl
@[simp] theorem modDist_nc (f : Dist → Dist) : (s.modDist f).nc = s.nc := rfl
@[simp] theorem modDist_counted (f : Dist → Dist) : (s.modDist f).counted = s.counted := rfl
@[simp] theorem modDist_dir (f : Dist → Dist) : (s.modDist f).dir = s.dir := rfl
@[simp] theorem modDist_rdc (f : Dist → Dist) : (s.modDist f).rdc = s.rdc := rfl
@[simp] theorem modDist_dirQueue (f : Dist → Dist) : (s.modDist f).dirQueue = s.dirQueue := rfl
@[simp] theorem modDist_act (f : Dist → Dist) : (s.modDist f).act = s.act := rfl
@[simp] theorem modDist_mgmt (f : Dist → Dist) : (s.modDist f).mgmt = s.mgmt := rfl
@[simp] theorem modDist_rin (f : Dist → Dist) : (s.modDist f).rin = s.rin := rfl
@[simp] theorem modDist_sealedRin (f : Dist → Dist) : (s.modDist f).sealedRin = s.sealedRin := rfl
@[simp] theorem modDist_sealing (f : Dist → Dist) : (s.modDist f).sealing = s.sealing := rfl
@[simp] theorem modDist_sealNext (f : Dist → Dist) : (s.modDist f).sealNext = s.sealNext := rfl
@[simp] theorem modDist_fillReq (f : Dist → Dist) : (s.modDist f).fillReq = s.fillReq := rfl
@[simp] theorem modDist_vsWaits (f : Dist → Dist) : (s.modDist f).vsWaits = s.vsWaits := rfl
@[simp] theorem modDist_lost (f : Dist → Dist) : (s.modDist f).lost = s.lost := rfl
@[simp] theorem modDist_leaseHeld (f : Dist → Dist) : (s.modDist f).leaseHeld = s.leaseHeld := rfl
@[simp] theorem modDist_vs (f : Dist → Dist) : (s.modDist f).vs = s.vs := rfl
@[simp] theorem modDist_egress (f : Dist → Dist) : (s.modDist f).egress = s.egress := rfl
@[simp] theorem modDist_ckpt (f : Dist → Dist) : (s.modDist f).ckpt = s.ckpt := rfl
@[simp] theorem modDist_parity (f : Dist → Dist) : (s.modDist f).parity = s.parity := rfl
@[simp] theorem modDist_parWrites (f : Dist → Dist) : (s.modDist f).parWrites = s.parWrites := rfl
@[simp] theorem modDist_parGen (f : Dist → Dist) : (s.modDist f).parGen = s.parGen := rfl
@[simp] theorem modDist_graphs (f : Dist → Dist) : (s.modDist f).graphs = s.graphs := rfl
@[simp] theorem modDist_nodes (f : Dist → Dist) : (s.modDist f).nodes = s.nodes := rfl
@[simp] theorem modDist_nextNode (f : Dist → Dist) : (s.modDist f).nextNode = s.nextNode := rfl
@[simp] theorem modDist_rot (f : Dist → Dist) : (s.modDist f).rot = s.rot := rfl
@[simp] theorem modDist_rotUsed (f : Dist → Dist) : (s.modDist f).rotUsed = s.rotUsed := rfl
@[simp] theorem modDist_arrivals (f : Dist → Dist) : (s.modDist f).arrivals = s.arrivals := rfl
@[simp] theorem modDist_nextHid (f : Dist → Dist) : (s.modDist f).nextHid = s.nextHid := rfl
@[simp] theorem modDist_spadZero (f : Dist → Dist) : (s.modDist f).spadZero = s.spadZero := rfl
@[simp] theorem modDist_lastCore (f : Dist → Dist) : (s.modDist f).lastCore = s.lastCore := rfl
@[simp] theorem modDist_inval (f : Dist → Dist) : (s.modDist f).inval = s.inval := rfl
@[simp] theorem modDist_freed (f : Dist → Dist) : (s.modDist f).freed = s.freed := rfl
@[simp] theorem modDist_placeQ (f : Dist → Dist) : (s.modDist f).placeQ = s.placeQ := rfl
@[simp] theorem modDist_resQ (f : Dist → Dist) : (s.modDist f).resQ = s.resQ := rfl
@[simp] theorem modDist_deferred (f : Dist → Dist) : (s.modDist f).deferred = s.deferred := rfl
@[simp] theorem modDist_transfers (f : Dist → Dist) : (s.modDist f).transfers = s.transfers := rfl
@[simp] theorem modDist_nextXfer (f : Dist → Dist) : (s.modDist f).nextXfer = s.nextXfer := rfl
@[simp] theorem modDist_peers (f : Dist → Dist) : (s.modDist f).peers = s.peers := rfl
@[simp] theorem modDist_collCounts (f : Dist → Dist) : (s.modDist f).collCounts = s.collCounts := rfl
@[simp] theorem modDist_errlog (f : Dist → Dist) : (s.modDist f).errlog = s.errlog := rfl
@[simp] theorem modDist_errSeq (f : Dist → Dist) : (s.modDist f).errSeq = s.errSeq := rfl
@[simp] theorem modDist_hostOut (f : Dist → Dist) : (s.modDist f).hostOut = s.hostOut := rfl
@[simp] theorem modDist_straitOut (f : Dist → Dist) : (s.modDist f).straitOut = s.straitOut := rfl
@[simp] theorem modDist_hostIn (f : Dist → Dist) : (s.modDist f).hostIn = s.hostIn := rfl
@[simp] theorem modDist_ports (f : Dist → Dist) : (s.modDist f).ports = s.ports := rfl
@[simp] theorem modDist_straitFails (f : Dist → Dist) : (s.modDist f).straitFails = s.straitFails := rfl
@[simp] theorem modDist_rollingBack (f : Dist → Dist) : (s.modDist f).rollingBack = s.rollingBack := rfl
@[simp] theorem modDist_unrec (f : Dist → Dist) : (s.modDist f).unrec = s.unrec := rfl
@[simp] theorem modDist_oz (f : Dist → Dist) : (s.modDist f).oz = s.oz := rfl
@[simp] theorem modDist_boot (f : Dist → Dist) : (s.modDist f).boot = s.boot := rfl
@[simp] theorem modDist_fw (f : Dist → Dist) : (s.modDist f).fw = s.fw := rfl
@[simp] theorem modDist_opSel (f : Dist → Dist) : (s.modDist f).opSel = s.opSel := rfl
@[simp] theorem modDist_phys (f : Dist → Dist) : (s.modDist f).phys = s.phys := rfl
@[simp] theorem modDist_pending (f : Dist → Dist) : (s.modDist f).pending = s.pending := rfl
@[simp] theorem modDist_sched (f : Dist → Dist) : (s.modDist f).sched = s.sched := rfl
@[simp] theorem modDist_clock (f : Dist → Dist) : (s.modDist f).clock = s.clock := rfl
@[simp] theorem modDist_turns (f : Dist → Dist) : (s.modDist f).turns = s.turns := rfl
@[simp] theorem modDist_free (f : Dist → Dist) : (s.modDist f).free = s.free := rfl

@[simp] theorem stallHart_agent : (stallHart s).agent = s.agent := rfl
@[simp] theorem stallHart_others : (stallHart s).others = s.others := rfl
@[simp] theorem stallHart_mem : (stallHart s).mem = s.mem := rfl
@[simp] theorem stallHart_poison : (stallHart s).poison = s.poison := rfl
@[simp] theorem stallHart_spad : (stallHart s).spad = s.spad := rfl
@[simp] theorem stallHart_spadPoison : (stallHart s).spadPoison = s.spadPoison := rfl
@[simp] theorem stallHart_nc : (stallHart s).nc = s.nc := rfl
@[simp] theorem stallHart_counted : (stallHart s).counted = s.counted := rfl
@[simp] theorem stallHart_dir : (stallHart s).dir = s.dir := rfl
@[simp] theorem stallHart_rdc : (stallHart s).rdc = s.rdc := rfl
@[simp] theorem stallHart_dirQueue : (stallHart s).dirQueue = s.dirQueue := rfl
@[simp] theorem stallHart_act : (stallHart s).act = s.act := rfl
@[simp] theorem stallHart_mgmt : (stallHart s).mgmt = s.mgmt := rfl
@[simp] theorem stallHart_rin : (stallHart s).rin = s.rin := rfl
@[simp] theorem stallHart_sealedRin : (stallHart s).sealedRin = s.sealedRin := rfl
@[simp] theorem stallHart_sealing : (stallHart s).sealing = s.sealing := rfl
@[simp] theorem stallHart_sealNext : (stallHart s).sealNext = s.sealNext := rfl
@[simp] theorem stallHart_fillReq : (stallHart s).fillReq = s.fillReq := rfl
@[simp] theorem stallHart_vsWaits : (stallHart s).vsWaits = s.vsWaits := rfl
@[simp] theorem stallHart_lost : (stallHart s).lost = s.lost := rfl
@[simp] theorem stallHart_leaseHeld : (stallHart s).leaseHeld = s.leaseHeld := rfl
@[simp] theorem stallHart_vs : (stallHart s).vs = s.vs := rfl
@[simp] theorem stallHart_egress : (stallHart s).egress = s.egress := rfl
@[simp] theorem stallHart_ckpt : (stallHart s).ckpt = s.ckpt := rfl
@[simp] theorem stallHart_parity : (stallHart s).parity = s.parity := rfl
@[simp] theorem stallHart_parWrites : (stallHart s).parWrites = s.parWrites := rfl
@[simp] theorem stallHart_parGen : (stallHart s).parGen = s.parGen := rfl
@[simp] theorem stallHart_graphs : (stallHart s).graphs = s.graphs := rfl
@[simp] theorem stallHart_nodes : (stallHart s).nodes = s.nodes := rfl
@[simp] theorem stallHart_nextNode : (stallHart s).nextNode = s.nextNode := rfl
@[simp] theorem stallHart_rot : (stallHart s).rot = s.rot := rfl
@[simp] theorem stallHart_rotUsed : (stallHart s).rotUsed = s.rotUsed := rfl
@[simp] theorem stallHart_arrivals : (stallHart s).arrivals = s.arrivals := rfl
@[simp] theorem stallHart_nextHid : (stallHart s).nextHid = s.nextHid := rfl
@[simp] theorem stallHart_spadZero : (stallHart s).spadZero = s.spadZero := rfl
@[simp] theorem stallHart_lastCore : (stallHart s).lastCore = s.lastCore := rfl
@[simp] theorem stallHart_inval : (stallHart s).inval = s.inval := rfl
@[simp] theorem stallHart_freed : (stallHart s).freed = s.freed := rfl
@[simp] theorem stallHart_placeQ : (stallHart s).placeQ = s.placeQ := rfl
@[simp] theorem stallHart_resQ : (stallHart s).resQ = s.resQ := rfl
@[simp] theorem stallHart_deferred : (stallHart s).deferred = s.deferred := rfl
@[simp] theorem stallHart_transfers : (stallHart s).transfers = s.transfers := rfl
@[simp] theorem stallHart_nextXfer : (stallHart s).nextXfer = s.nextXfer := rfl
@[simp] theorem stallHart_peers : (stallHart s).peers = s.peers := rfl
@[simp] theorem stallHart_collCounts : (stallHart s).collCounts = s.collCounts := rfl
@[simp] theorem stallHart_errlog : (stallHart s).errlog = s.errlog := rfl
@[simp] theorem stallHart_errSeq : (stallHart s).errSeq = s.errSeq := rfl
@[simp] theorem stallHart_hostOut : (stallHart s).hostOut = s.hostOut := rfl
@[simp] theorem stallHart_straitOut : (stallHart s).straitOut = s.straitOut := rfl
@[simp] theorem stallHart_hostIn : (stallHart s).hostIn = s.hostIn := rfl
@[simp] theorem stallHart_ports : (stallHart s).ports = s.ports := rfl
@[simp] theorem stallHart_straitFails : (stallHart s).straitFails = s.straitFails := rfl
@[simp] theorem stallHart_rollingBack : (stallHart s).rollingBack = s.rollingBack := rfl
@[simp] theorem stallHart_unrec : (stallHart s).unrec = s.unrec := rfl
@[simp] theorem stallHart_oz : (stallHart s).oz = s.oz := rfl
@[simp] theorem stallHart_boot : (stallHart s).boot = s.boot := rfl
@[simp] theorem stallHart_fw : (stallHart s).fw = s.fw := rfl
@[simp] theorem stallHart_opSel : (stallHart s).opSel = s.opSel := rfl
@[simp] theorem stallHart_phys : (stallHart s).phys = s.phys := rfl
@[simp] theorem stallHart_pending : (stallHart s).pending = s.pending := rfl
@[simp] theorem stallHart_sched : (stallHart s).sched = s.sched := rfl
@[simp] theorem stallHart_clock : (stallHart s).clock = s.clock := rfl
@[simp] theorem stallHart_turns : (stallHart s).turns = s.turns := rfl
@[simp] theorem stallHart_free : (stallHart s).free = s.free := rfl

@[simp] theorem Hart.enterTrap_hid (h : Hart) (c : Nat) (v p : Word) (x y : Bool) : (h.enterTrap c v p x y).hid = h.hid := rfl
@[simp] theorem Hart.enterTrap_status (h : Hart) (c : Nat) (v p : Word) (x y : Bool) : (h.enterTrap c v p x y).status = h.status := rfl
@[simp] theorem Hart.enterTrap_out (h : Hart) (c : Nat) (v p : Word) (x y : Bool) : (h.enterTrap c v p x y).out = h.out := rfl
@[simp] theorem Hart.enterTrap_saveAt (h : Hart) (c : Nat) (v p : Word) (x y : Bool) : (h.enterTrap c v p x y).saveAt = h.saveAt := rfl
@[simp] theorem Hart.enterTrap_wait (h : Hart) (c : Nat) (v p : Word) (x y : Bool) : (h.enterTrap c v p x y).wait = Wait.none := rfl
@[simp] theorem Hart.enterTrap_since (h : Hart) (c : Nat) (v p : Word) (x y : Bool) : (h.enterTrap c v p x y).since = h.since := rfl
@[simp] theorem Hart.enterTrap_parkedAt (h : Hart) (c : Nat) (v p : Word) (x y : Bool) : (h.enterTrap c v p x y).parkedAt = h.parkedAt := rfl
@[simp] theorem Hart.enterTrap_retiredAt (h : Hart) (c : Nat) (v p : Word) (x y : Bool) : (h.enterTrap c v p x y).retiredAt = h.retiredAt := rfl
@[simp] theorem Hart.enterTrap_node (h : Hart) (c : Nat) (v p : Word) (x y : Bool) : (h.enterTrap c v p x y).node = h.node := rfl
@[simp] theorem Hart.enterTrap_task (h : Hart) (c : Nat) (v p : Word) (x y : Bool) : (h.enterTrap c v p x y).task = h.task := rfl
@[simp] theorem Hart.enterTrap_lcore (h : Hart) (c : Nat) (v p : Word) (x y : Bool) : (h.enterTrap c v p x y).lcore = h.lcore := rfl
@[simp] theorem Hart.enterTrap_pcore (h : Hart) (c : Nat) (v p : Word) (x y : Bool) : (h.enterTrap c v p x y).pcore = h.pcore := rfl
@[simp] theorem Hart.enterTrap_ctx (h : Hart) (c : Nat) (v p : Word) (x y : Bool) : (h.enterTrap c v p x y).ctx = h.ctx := rfl
@[simp] theorem Hart.enterTrap_pfirst (h : Hart) (c : Nat) (v p : Word) (x y : Bool) : (h.enterTrap c v p x y).pfirst = h.pfirst := rfl
@[simp] theorem Hart.enterTrap_parts (h : Hart) (c : Nat) (v p : Word) (x y : Bool) : (h.enterTrap c v p x y).parts = h.parts := rfl
@[simp] theorem Hart.enterTrap_vregs (h : Hart) (c : Nat) (v p : Word) (x y : Bool) : (h.enterTrap c v p x y).vregs = h.vregs := rfl
@[simp] theorem Hart.enterTrap_slots (h : Hart) (c : Nat) (v p : Word) (x y : Bool) : (h.enterTrap c v p x y).slots = h.slots := rfl
@[simp] theorem Hart.enterTrap_hsplit (h : Hart) (c : Nat) (v p : Word) (x y : Bool) : (h.enterTrap c v p x y).hsplit = h.hsplit := rfl
@[simp] theorem Hart.enterTrap_prio (h : Hart) (c : Nat) (v p : Word) (x y : Bool) : (h.enterTrap c v p x y).prio = h.prio := rfl
@[simp] theorem Hart.enterTrap_det (h : Hart) (c : Nat) (v p : Word) (x y : Bool) : (h.enterTrap c v p x y).det = h.det := rfl
@[simp] theorem Hart.enterTrap_wid (h : Hart) (c : Nat) (v p : Word) (x y : Bool) : (h.enterTrap c v p x y).wid = h.wid := rfl
@[simp] theorem Hart.enterTrap_widf (h : Hart) (c : Nat) (v p : Word) (x y : Bool) : (h.enterTrap c v p x y).widf = h.widf := rfl
@[simp] theorem Hart.enterTrap_vec (h : Hart) (c : Nat) (v p : Word) (x y : Bool) : (h.enterTrap c v p x y).vec = h.vec := rfl
@[simp] theorem Hart.enterTrap_mat (h : Hart) (c : Nat) (v p : Word) (x y : Bool) : (h.enterTrap c v p x y).mat = h.mat := rfl
@[simp] theorem Hart.enterTrap_dist (h : Hart) (c : Nat) (v p : Word) (x y : Bool) : (h.enterTrap c v p x y).dist = h.dist := rfl
@[simp] theorem Hart.enterTrap_inj (h : Hart) (c : Nat) (v p : Word) (x y : Bool) : (h.enterTrap c v p x y).inj = h.inj := rfl
@[simp] theorem Hart.enterTrap_lane (h : Hart) (c : Nat) (v p : Word) (x y : Bool) : (h.enterTrap c v p x y).lane = h.lane := rfl
@[simp] theorem Hart.enterTrap_detm (h : Hart) (c : Nat) (v p : Word) (x y : Bool) : (h.enterTrap c v p x y).detm = h.detm := rfl
@[simp] theorem Hart.enterTrap_ctr (h : Hart) (c : Nat) (v p : Word) (x y : Bool) : (h.enterTrap c v p x y).ctr = h.ctr := rfl
@[simp] theorem Hart.enterTrap_pmId (h : Hart) (c : Nat) (v p : Word) (x y : Bool) : (h.enterTrap c v p x y).pmId = h.pmId := rfl
@[simp] theorem Hart.enterTrap_pmOcc (h : Hart) (c : Nat) (v p : Word) (x y : Bool) : (h.enterTrap c v p x y).pmOcc = h.pmOcc := rfl
@[simp] theorem Hart.enterTrap_monitor (h : Hart) (c : Nat) (v p : Word) (x y : Bool) : (h.enterTrap c v p x y).monitor = none := rfl
@[simp] theorem Hart.enterTrap_window (h : Hart) (c : Nat) (v p : Word) (x y : Bool) : (h.enterTrap c v p x y).window = h.window := rfl
@[simp] theorem Hart.enterTrap_passed (h : Hart) (c : Nat) (v p : Word) (x y : Bool) : (h.enterTrap c v p x y).passed = h.passed := rfl
@[simp] theorem Hart.enterTrap_aged (h : Hart) (c : Nat) (v p : Word) (x y : Bool) : (h.enterTrap c v p x y).aged = h.aged := rfl
@[simp] theorem Hart.enterTrap_adv (h : Hart) (c : Nat) (v p : Word) (x y : Bool) : (h.enterTrap c v p x y).adv = h.adv := rfl

@[simp] theorem Hart.served_hid (h : Hart) (k n : Nat) : (h.served k n).hid = h.hid := rfl
@[simp] theorem Hart.served_status (h : Hart) (k n : Nat) : (h.served k n).status = h.status := rfl
@[simp] theorem Hart.served_out (h : Hart) (k n : Nat) : (h.served k n).out = h.out := rfl
@[simp] theorem Hart.served_saveAt (h : Hart) (k n : Nat) : (h.served k n).saveAt = h.saveAt := rfl
@[simp] theorem Hart.served_wait (h : Hart) (k n : Nat) : (h.served k n).wait = h.wait := rfl
@[simp] theorem Hart.served_since (h : Hart) (k n : Nat) : (h.served k n).since = n := rfl
@[simp] theorem Hart.served_parkedAt (h : Hart) (k n : Nat) : (h.served k n).parkedAt = h.parkedAt := rfl
@[simp] theorem Hart.served_retiredAt (h : Hart) (k n : Nat) : (h.served k n).retiredAt = n := rfl
@[simp] theorem Hart.served_node (h : Hart) (k n : Nat) : (h.served k n).node = h.node := rfl
@[simp] theorem Hart.served_task (h : Hart) (k n : Nat) : (h.served k n).task = h.task := rfl
@[simp] theorem Hart.served_lcore (h : Hart) (k n : Nat) : (h.served k n).lcore = h.lcore := rfl
@[simp] theorem Hart.served_pcore (h : Hart) (k n : Nat) : (h.served k n).pcore = h.pcore := rfl
@[simp] theorem Hart.served_ctx (h : Hart) (k n : Nat) : (h.served k n).ctx = h.ctx := rfl
@[simp] theorem Hart.served_pfirst (h : Hart) (k n : Nat) : (h.served k n).pfirst = h.pfirst := rfl
@[simp] theorem Hart.served_parts (h : Hart) (k n : Nat) : (h.served k n).parts = h.parts := rfl
@[simp] theorem Hart.served_vregs (h : Hart) (k n : Nat) : (h.served k n).vregs = h.vregs := rfl
@[simp] theorem Hart.served_slots (h : Hart) (k n : Nat) : (h.served k n).slots = h.slots := rfl
@[simp] theorem Hart.served_hsplit (h : Hart) (k n : Nat) : (h.served k n).hsplit = h.hsplit := rfl
@[simp] theorem Hart.served_prio (h : Hart) (k n : Nat) : (h.served k n).prio = h.prio := rfl
@[simp] theorem Hart.served_det (h : Hart) (k n : Nat) : (h.served k n).det = h.det := rfl
@[simp] theorem Hart.served_wid (h : Hart) (k n : Nat) : (h.served k n).wid = h.wid := rfl
@[simp] theorem Hart.served_widf (h : Hart) (k n : Nat) : (h.served k n).widf = h.widf := rfl
@[simp] theorem Hart.served_front (h : Hart) (k n : Nat) : (h.served k n).front = h.front := rfl
@[simp] theorem Hart.served_vec (h : Hart) (k n : Nat) : (h.served k n).vec = h.vec := rfl
@[simp] theorem Hart.served_mat (h : Hart) (k n : Nat) : (h.served k n).mat = h.mat := rfl
@[simp] theorem Hart.served_dist (h : Hart) (k n : Nat) : (h.served k n).dist = h.dist := rfl
@[simp] theorem Hart.served_trap (h : Hart) (k n : Nat) : (h.served k n).trap = h.trap := rfl
@[simp] theorem Hart.served_inj (h : Hart) (k n : Nat) : (h.served k n).inj = h.inj := rfl
@[simp] theorem Hart.served_lane (h : Hart) (k n : Nat) : (h.served k n).lane = h.lane := rfl
@[simp] theorem Hart.served_detm (h : Hart) (k n : Nat) : (h.served k n).detm = h.detm := rfl
@[simp] theorem Hart.served_pmId (h : Hart) (k n : Nat) : (h.served k n).pmId = h.pmId := rfl
@[simp] theorem Hart.served_pmOcc (h : Hart) (k n : Nat) : (h.served k n).pmOcc = h.pmOcc := rfl
@[simp] theorem Hart.served_monitor (h : Hart) (k n : Nat) : (h.served k n).monitor = h.monitor := rfl
@[simp] theorem Hart.served_window (h : Hart) (k n : Nat) : (h.served k n).window = h.window := rfl
@[simp] theorem Hart.served_passed (h : Hart) (k n : Nat) : (h.served k n).passed = 0 := rfl
@[simp] theorem Hart.served_aged (h : Hart) (k n : Nat) : (h.served k n).aged = false := rfl
@[simp] theorem Hart.served_adv (h : Hart) (k n : Nat) : (h.served k n).adv = h.adv := rfl

@[simp] theorem Hart.leaveTrap_hid (h : Hart) : (h.leaveTrap).hid = h.hid := rfl
@[simp] theorem Hart.leaveTrap_status (h : Hart) : (h.leaveTrap).status = h.status := rfl
@[simp] theorem Hart.leaveTrap_out (h : Hart) : (h.leaveTrap).out = h.out := rfl
@[simp] theorem Hart.leaveTrap_saveAt (h : Hart) : (h.leaveTrap).saveAt = h.saveAt := rfl
@[simp] theorem Hart.leaveTrap_wait (h : Hart) : (h.leaveTrap).wait = h.wait := rfl
@[simp] theorem Hart.leaveTrap_since (h : Hart) : (h.leaveTrap).since = h.since := rfl
@[simp] theorem Hart.leaveTrap_parkedAt (h : Hart) : (h.leaveTrap).parkedAt = h.parkedAt := rfl
@[simp] theorem Hart.leaveTrap_retiredAt (h : Hart) : (h.leaveTrap).retiredAt = h.retiredAt := rfl
@[simp] theorem Hart.leaveTrap_node (h : Hart) : (h.leaveTrap).node = h.node := rfl
@[simp] theorem Hart.leaveTrap_task (h : Hart) : (h.leaveTrap).task = h.task := rfl
@[simp] theorem Hart.leaveTrap_lcore (h : Hart) : (h.leaveTrap).lcore = h.lcore := rfl
@[simp] theorem Hart.leaveTrap_pcore (h : Hart) : (h.leaveTrap).pcore = h.pcore := rfl
@[simp] theorem Hart.leaveTrap_ctx (h : Hart) : (h.leaveTrap).ctx = h.ctx := rfl
@[simp] theorem Hart.leaveTrap_pfirst (h : Hart) : (h.leaveTrap).pfirst = h.pfirst := rfl
@[simp] theorem Hart.leaveTrap_parts (h : Hart) : (h.leaveTrap).parts = h.parts := rfl
@[simp] theorem Hart.leaveTrap_vregs (h : Hart) : (h.leaveTrap).vregs = h.vregs := rfl
@[simp] theorem Hart.leaveTrap_slots (h : Hart) : (h.leaveTrap).slots = h.slots := rfl
@[simp] theorem Hart.leaveTrap_hsplit (h : Hart) : (h.leaveTrap).hsplit = h.hsplit := rfl
@[simp] theorem Hart.leaveTrap_prio (h : Hart) : (h.leaveTrap).prio = h.prio := rfl
@[simp] theorem Hart.leaveTrap_det (h : Hart) : (h.leaveTrap).det = h.det := rfl
@[simp] theorem Hart.leaveTrap_wid (h : Hart) : (h.leaveTrap).wid = h.wid := rfl
@[simp] theorem Hart.leaveTrap_widf (h : Hart) : (h.leaveTrap).widf = h.widf := rfl
@[simp] theorem Hart.leaveTrap_vec (h : Hart) : (h.leaveTrap).vec = h.vec := rfl
@[simp] theorem Hart.leaveTrap_mat (h : Hart) : (h.leaveTrap).mat = h.mat := rfl
@[simp] theorem Hart.leaveTrap_dist (h : Hart) : (h.leaveTrap).dist = h.dist := rfl
@[simp] theorem Hart.leaveTrap_lane (h : Hart) : (h.leaveTrap).lane = h.lane := rfl
@[simp] theorem Hart.leaveTrap_detm (h : Hart) : (h.leaveTrap).detm = h.detm := rfl
@[simp] theorem Hart.leaveTrap_ctr (h : Hart) : (h.leaveTrap).ctr = h.ctr := rfl
@[simp] theorem Hart.leaveTrap_pmId (h : Hart) : (h.leaveTrap).pmId = h.pmId := rfl
@[simp] theorem Hart.leaveTrap_pmOcc (h : Hart) : (h.leaveTrap).pmOcc = h.pmOcc := rfl
@[simp] theorem Hart.leaveTrap_monitor (h : Hart) : (h.leaveTrap).monitor = h.monitor := rfl
@[simp] theorem Hart.leaveTrap_window (h : Hart) : (h.leaveTrap).window = h.window := rfl
@[simp] theorem Hart.leaveTrap_passed (h : Hart) : (h.leaveTrap).passed = h.passed := rfl
@[simp] theorem Hart.leaveTrap_aged (h : Hart) : (h.leaveTrap).aged = h.aged := rfl
@[simp] theorem Hart.leaveTrap_adv (h : Hart) : (h.leaveTrap).adv = h.adv := rfl

end Sys2Proof.Machine
end

