-- ==== Sys2Proof/Laws/Front.lean ====
section
/-! SUPPORT. Sys2Proof/Laws/Front.lean: what the shared operations on a hart's front end do: register reads and writes, retirement, transfers. -/
namespace Sys2Proof.Machine

variable {s : State}

theorem front_of_hart (h : s.agent = .hart) : s.front = s.hart.front := by simp only [State.front, h]

theorem setFront_of_hart (h : s.agent = .hart) (f : Front) : s.setFront f = { s with hart := { s.hart with front := f } } := by
  simp only [State.setFront, h]

@[simp] theorem setFront_agent (f : Front) : (s.setFront f).agent = s.agent := by unfold State.setFront; cases s.agent <;> rfl
@[simp] theorem setFront_mem (f : Front) : (s.setFront f).mem = s.mem := by unfold State.setFront; cases s.agent <;> rfl
@[simp] theorem setFront_front (f : Front) : (s.setFront f).front = f := by
  unfold State.setFront State.front; cases h : s.agent <;> simp
@[simp] theorem setFront_trap (f : Front) : (s.setFront f).hart.trap = s.hart.trap := by unfold State.setFront; cases s.agent <;> rfl
@[simp] theorem setSreg_agent (n : Nat) (v : Word) : (s.setSreg n v).agent = s.agent := setFront_agent _
@[simp] theorem setSreg_mem (n : Nat) (v : Word) : (s.setSreg n v).mem = s.mem := setFront_mem _
@[simp] theorem setSreg_front (n : Nat) (v : Word) : (s.setSreg n v).front = s.front.wr n v := setFront_front _
@[simp] theorem setFront_inHandler (f : Front) : (s.setFront f).inHandler = s.inHandler := by
  simp only [State.inHandler, setFront_agent, setFront_trap]
@[simp] theorem setSreg_inHandler (n : Nat) (v : Word) : (s.setSreg n v).inHandler = s.inHandler := setFront_inHandler _

@[simp] theorem Front.wr_pc (f : Front) (n : Nat) (v : Word) : (f.wr n v).pc = f.pc := by unfold Front.wr; split <;> rfl
@[simp] theorem Front.wr_wbase (f : Front) (n : Nat) (v : Word) : (f.wr n v).wbase = f.wbase := by unfold Front.wr; split <;> rfl
@[simp] theorem Front.wr_lc (f : Front) (n : Nat) (v : Word) : (f.wr n v).lc = f.lc := by unfold Front.wr; split <;> rfl
@[simp] theorem Front.wr_levels (f : Front) (n : Nat) (v : Word) : (f.wr n v).levels = f.levels := by unfold Front.wr; split <;> rfl
@[simp] theorem Front.seqFrom_regs (f : Front) (b : Bool) (a : Word) : (f.seqFrom b a).regs = f.regs := by unfold Front.seqFrom; split <;> rfl
@[simp] theorem Front.seqFrom_wbase (f : Front) (b : Bool) (a : Word) : (f.seqFrom b a).wbase = f.wbase := by unfold Front.seqFrom; split <;> rfl
@[simp] theorem Front.jump_regs (f : Front) (b : Bool) (a : Word) : (f.jump b a).regs = f.regs := by unfold Front.jump; split <;> rfl
@[simp] theorem Front.jump_wbase (f : Front) (b : Bool) (a : Word) : (f.jump b a).wbase = f.wbase := by unfold Front.jump; split <;> rfl
@[simp] theorem Front.jump_pc (f : Front) (b : Bool) (a : Word) : (f.jump b a).pc = a := by unfold Front.jump; split <;> rfl

/-- Outside every loop, or in a handler, control falls through (06 R132, R134). -/
theorem Front.seqFrom_pc (f : Front) (b : Bool) (a : Word) (h : f.levels = []) : (f.seqFrom b a).pc = a + 4 := by
  unfold Front.seqFrom; split
  · rfl
  · simp [h, loopRule]

/-- A physical register after a write of a scalar name (05 R94). -/
theorem Front.get_wr (f : Front) (n p : Nat) (v : Word) :
    Store.get zeroOf (f.wr n v).regs p = if n ≠ 0 ∧ p = f.wbase.toNat + n then v else Store.get zeroOf f.regs p := by
  unfold Front.wr Front.phys
  by_cases hn : n = 0
  · simp [hn]
  · simp only [hn, if_false, not_false_eq_true, true_and, ne_eq]
    exact Store.get_set zeroOf _ _ _ _

/-- A scalar name after a write of a scalar name: s0 reads zero, the written name reads the value. -/
theorem Front.rd_wr (f : Front) (n k : Nat) (v : Word) : (f.wr n v).rd k = if k = 0 then 0 else if k = n then v else f.rd k := by
  by_cases hk : k = 0
  · simp [Front.rd, hk]
  · simp only [Front.rd, Front.phys, hk, if_false, Front.wr_wbase, Front.get_wr]
    by_cases hkn : k = n
    · subst hkn; simp [hk]
    · rw [if_neg (by omega), if_neg hkn]

/-- The instruction at pc retires on a hart: front end, counters, free values. -/
theorem retire_of_hart (h : s.agent = .hart) :
    s.retire = { s with hart := { s.hart with front := s.hart.front.seqFrom s.inHandler s.hart.front.pc,
                                              ctr := s.hart.ctr.retire s.free, passed := 0, aged := false, since := s.clock, retiredAt := s.clock }, free := s.free + 1 } := by
  simp only [State.retire, State.counted1, h, front_of_hart h, setFront_of_hart h, bumpFree, Hart.served]

theorem jumpTo_of_hart (h : s.agent = .hart) (a : Word) :
    s.jumpTo a = { s with hart := { s.hart with front := s.hart.front.jump s.inHandler a,
                                                ctr := s.hart.ctr.retire s.free, passed := 0, aged := false, since := s.clock, retiredAt := s.clock }, free := s.free + 1 } := by
  simp only [State.jumpTo, State.counted1, h, front_of_hart h, setFront_of_hart h, bumpFree, Hart.served]

theorem retire_agent_of_hart (h : s.agent = .hart) : s.retire.agent = .hart := by rw [retire_of_hart h]; exact h

theorem retire_onlyFront (h : s.agent = .hart) : OnlyFront s s.retire := by rw [retire_of_hart h]; rfl

theorem retire_retired (h : s.agent = .hart) : Retired s s.retire := by rw [retire_of_hart h]; rfl

theorem OnlyFront.trans {a b c : State} (h : OnlyFront a b) (g : OnlyFront b c) : OnlyFront a c := by
  unfold OnlyFront at *; rw [g, h]; rfl

theorem OnlyFront.mem {a b : State} (h : OnlyFront a b) : b.mem = a.mem := by rw [h]

theorem OnlyFront.sameBytes {a b : State} (h : OnlyFront a b) : SameBytes a b := fun x => by simp only [State.byteAt, h.mem]

theorem setFront_onlyFront (h : s.agent = .hart) (f : Front) : OnlyFront s (s.setFront f) := by
  rw [setFront_of_hart h]; rfl

/-- A scalar result written and the instruction retired on a hart: what changes, and the registers. -/
theorem setSreg_retire_frame (h : s.agent = .hart) (d : Nat) (v : Word) :
    OnlyFront s (s.setSreg d v).retire ∧ Retired s (s.setSreg d v).retire ∧ SameBytes s (s.setSreg d v).retire ∧
      SameRegs s (s.setSreg d v).retire (destRegs s d) ∧ (d ≠ 0 → (s.setSreg d v).retire.preg (s.hart.front.wbase.toNat + d) = v) ∧
      (s.setSreg d v).retire.hart.front.wbase = s.hart.front.wbase ∧ FellThrough s (s.setSreg d v).retire := by
  have ha : (s.setSreg d v).agent = .hart := by rw [setSreg_agent]; exact h
  have h1 : OnlyFront s (s.setSreg d v).retire := (setFront_onlyFront h _).trans (retire_onlyFront ha)
  have h2 : (s.setSreg d v).hart.front = s.hart.front.wr d v := by rw [State.setSreg, setFront_of_hart h, front_of_hart h]
  have h3 : (s.setSreg d v).retire.hart.front = (s.hart.front.wr d v).seqFrom s.inHandler s.hart.front.pc := by
    rw [retire_of_hart ha, h2, setSreg_inHandler, Front.wr_pc]
  refine ⟨h1, ?_, h1.sameBytes, ?_, ?_, ?_, ?_⟩
  · rw [retire_of_hart ha, State.setSreg, setFront_of_hart h]; rfl
  · intro p hp
    simp only [State.preg, h3, Front.seqFrom_regs, Front.get_wr]
    rw [if_neg]
    rintro ⟨hd, rfl⟩
    simp [destRegs, hd] at hp
  · intro hd
    simp [State.preg, h3, Front.get_wr, hd]
  · simp [h3]
  · intro hl
    rw [front_of_hart h] at hl ⊢
    rw [front_of_hart (retire_agent_of_hart ha), h3, Front.seqFrom_pc _ _ _ (by simpa using hl)]

end Sys2Proof.Machine
end

