-- ==== Sys2Proof/Laws/Access.lean ====
section
/-! SUPPORT. Sys2Proof/Laws/Access.lean: what the steps of an instruction that may stop do (`X`), and what accesses do that meet nothing in their way. -/
namespace Sys2Proof.Machine

section steps
variable {α β : Type} (s : State)

@[simp] theorem X.pure_run (a : α) : (pure a : X α) s = .ok (a, s) := rfl

theorem X.bind_run (m : X α) (f : α → X β) :
    (m >>= f) s = (match m s with
      | .ok r => f r.1 r.2
      | .error e => .error e) := by
  show (StateT.bind m f) s = _
  unfold StateT.bind
  cases m s <;> simp [bind, Except.bind]

theorem X.bind_ok {m : X α} {f : α → X β} {s t : State} {a : α} (h : m s = .ok (a, t)) : (m >>= f) s = f a t := by
  rw [X.bind_run, h]

theorem X.bind_error {m : X α} {f : α → X β} {s : State} {e : Stop} (h : m s = .error e) : (m >>= f) s = .error e := by
  rw [X.bind_run, h]

@[simp] theorem xRead_run (f : State → α) : xRead f s = .ok (f s, s) := rfl
@[simp] theorem xMod_run (f : State → State) : xMod f s = .ok ((), f s) := rfl
@[simp] theorem xS_run (n : Nat) : xS n s = .ok (s.sreg n, s) := rfl
@[simp] theorem xSetS_run (n : Nat) (v : Word) : xSetS n v s = .ok ((), s.setSreg n v) := rfl
@[simp] theorem xRetire_run : xRetire s = .ok ((), s.retire) := rfl
@[simp] theorem xNeed_true (c : Cause) (v : Word) : xNeed true c v s = .ok ((), s) := rfl
@[simp] theorem xNeed_false (c : Cause) (v : Word) : xNeed false c v s = .error (.trap c v false s) := rfl
@[simp] theorem xOperands_true : xOperands true s = .ok ((), s) := rfl
@[simp] theorem xOperands_false : xOperands false s = .error (.trap .illegalOperand 0 false s) := rfl
@[simp] theorem xTrap_run (c : Cause) (v : Word) : (xTrap c v : X α) s = .error (.trap c v false s) := rfl

theorem runX_ok {m : X Unit} {s t : State} (h : m s = .ok ((), t)) : runX m s = .next t := by unfold runX; rw [h]

/-- A trap raised before the state has changed is taken at pc (18 R387). -/
theorem runX_trap {m : X Unit} {s : State} {c : Cause} {v : Word} (h : m s = .error (.trap c v false s)) : runX m s = .next (takeTrap s c v) := by
  unfold runX; rw [h]; rfl

theorem hartOnly_hart {m : State → Host.Outcome State Fault Refusal} {s : State} (h : s.agent = .hart) : hartOnly s m = m s := by
  unfold hartOnly; rw [h]

theorem xCheck_none {va n : Nat} {rd wr ex : Bool} {s : State} (h : checkAccess s s.hart.node va n rd wr ex = none) :
    xCheck va n rd wr ex s = .ok ((), s) := by unfold xCheck; rw [h]

theorem xCheck_some {va n : Nat} {rd wr ex : Bool} {s : State} {c : Cause} {v : Word} (h : checkAccess s s.hart.node va n rd wr ex = some (c, v)) :
    xCheck va n rd wr ex s = .error (.trap c v false s) := by unfold xCheck; rw [h]

theorem xLoadNo_none {n : Nat} {s : State} (h : injKind s.hart.inj.tinject ≠ 4) : xLoadNo n s = .ok (0, s) := by
  unfold xLoadNo; simp [h]

theorem xLoadEvent_none {no va : Nat} {s : State} (h : injKind s.hart.inj.tinject ≠ 4) : xLoadEvent no va s = .ok ((), s) := by
  unfold xLoadEvent; simp [h]

theorem loadDone_none {s : State} (h : injKind s.hart.inj.tinject ≠ 4) : s.loadDone = s := by
  unfold State.loadDone; simp [h]

/-- Without a transfer of the hart the interlock waits for nothing (15 R341). -/
theorem interlock_none {s : State} (h : s.noTransfers = true) (sp wr : Bool) (lo n : Nat) : interlock s.who sp lo n wr s = .ok ((), s) := by
  unfold interlock
  rw [X.bind_ok (xRead_run s _)]
  have : s.transfers.filter (fun t => decide (t.hid = s.who.hid) && xferHit t sp lo n wr) = [] := by
    rw [List.filter_eq_nil_iff]
    intro t ht
    have := List.all_eq_true.1 h t ht
    simp only [decide_eq_true_eq] at this
    simp [State.who, whoHart, this]
  rw [this]; rfl

theorem xferWaitAll_none {s : State} (h : s.noTransfers = true) : xferWaitAll s.hart.hid s = .ok ((), s) := by
  unfold xferWaitAll
  rw [X.bind_ok (xRead_run s _)]
  have : s.transfers.filter (fun t => decide (t.hid = s.hart.hid)) = [] := by
    rw [List.filter_eq_nil_iff]
    intro t ht
    have := List.all_eq_true.1 h t ht
    simpa using this
  rw [this]; rfl

end steps

/-- A part of the state that coherent reads and writes move: directory, RDC lines, the recall counters, the intervals of dies that take data. -/
def State.withCaches (s : State) (d : List DirEntry) (r : List RdcLine) (m : Store 64) (i : Store 32) : State := { s with dir := d, rdc := r, mgmt := m, rin := i }

@[simp] theorem withCaches_mem (s : State) (d : List DirEntry) (r : List RdcLine) (m : Store 64) (i : Store 32) :
    (s.withCaches d r m i).mem = s.mem := rfl
@[simp] theorem withCaches_hart (s : State) (d : List DirEntry) (r : List RdcLine) (m : Store 64) (i : Store 32) :
    (s.withCaches d r m i).hart = s.hart := rfl
@[simp] theorem withCaches_agent (s : State) (d : List DirEntry) (r : List RdcLine) (m : Store 64) (i : Store 32) :
    (s.withCaches d r m i).agent = s.agent := rfl
@[simp] theorem withCaches_others (s : State) (d : List DirEntry) (r : List RdcLine) (m : Store 64) (i : Store 32) :
    (s.withCaches d r m i).others = s.others := rfl
@[simp] theorem withCaches_nodes (s : State) (d : List DirEntry) (r : List RdcLine) (m : Store 64) (i : Store 32) :
    (s.withCaches d r m i).nodes = s.nodes := rfl
@[simp] theorem withCaches_poison (s : State) (d : List DirEntry) (r : List RdcLine) (m : Store 64) (i : Store 32) :
    (s.withCaches d r m i).poison = s.poison := rfl
@[simp] theorem withCaches_vs (s : State) (d : List DirEntry) (r : List RdcLine) (m : Store 64) (i : Store 32) :
    (s.withCaches d r m i).vs = s.vs := rfl

/-- Only directory, RDC lines, management registers and intervals may differ. -/
def OnlyCaches (s t : State) : Prop := t = s.withCaches t.dir t.rdc t.mgmt t.rin

theorem OnlyCaches.refl (s : State) : OnlyCaches s s := rfl
theorem OnlyCaches.trans {a b c : State} (h : OnlyCaches a b) (g : OnlyCaches b c) : OnlyCaches a c := by
  unfold OnlyCaches State.withCaches at *; rw [g, h]
theorem OnlyCaches.hart {a b : State} (h : OnlyCaches a b) : b.hart = a.hart := by rw [h]; rfl
theorem OnlyCaches.agent {a b : State} (h : OnlyCaches a b) : b.agent = a.agent := by rw [h]; rfl
theorem OnlyCaches.mem {a b : State} (h : OnlyCaches a b) : b.mem = a.mem := by rw [h]; rfl

theorem setDir_onlyCaches (s : State) (l : Nat) (x : Option DirState) : OnlyCaches s (setDir s l x) := by cases x <;> rfl
theorem setRdc_onlyCaches (s : State) (a l : Nat) (x : Option (RdcState × BitVec 4)) : OnlyCaches s (setRdc s a l x) := by cases x <;> rfl

theorem dropCopies_onlyCaches (s : State) (m : BitVec 5) (l : Nat) : OnlyCaches s (dropCopies s m l) := by
  unfold dropCopies
  generalize agentsOf m = as
  induction as generalizing s with
  | nil => rfl
  | cons a as ih => exact (setRdc_onlyCaches s a l none).trans (ih _)

theorem dirtySector_onlyCaches (s : State) (a l k : Nat) : OnlyCaches s (dirtySector s a l k) := (setRdc_onlyCaches s a l _).trans rfl

theorem makeRoom_onlyCaches {s t : State} {l : Nat} (h : makeRoom s l = some t) : OnlyCaches s t := by
  simp only [makeRoom] at h
  split at h
  · cases h
  split at h
  · cases h; rfl
  split at h
  · cases h
  split at h
  · cases h
  · cases h
    exact ((dropCopies_onlyCaches s _ _).trans (setDir_onlyCaches _ _ _)).trans rfl

/-- A coherent read moves directory, RDC lines and the recall counter only. -/
theorem cohRead_onlyCaches {s t : State} {a l : Nat} (h : cohRead s a l = some t) : OnlyCaches s t := by
  simp only [cohRead] at h
  split at h
  · cases h; rfl
  split at h
  · split at h
    · cases h; rfl
    · cases h; rfl
    · split at h <;> cases h
      exact (setRdc_onlyCaches _ _ _ _).trans (setDir_onlyCaches _ _ _)
    · cases h
  · split at h
    · split at h <;> cases h <;> rfl
    · split at h
      · rcases Option.map_eq_some_iff.1 h with ⟨u, hu, rfl⟩
        exact ((makeRoom_onlyCaches hu).trans (setRdc_onlyCaches _ _ _ _)).trans (setDir_onlyCaches _ _ _)
      · cases h; exact (setRdc_onlyCaches _ _ _ _).trans (setDir_onlyCaches _ _ _)
      · split at h <;> cases h
        exact ((setRdc_onlyCaches _ _ _ _).trans (setRdc_onlyCaches _ _ _ _)).trans (setDir_onlyCaches _ _ _)
      · cases h

theorem takeTag_onlyCaches (d : Nat) (s : State) (g : W32) : OnlyCaches s (takeTag d s g) := by unfold takeTag; split <;> rfl

/-- A die that receives data may open a later interval, and nothing else (19 R403). -/
theorem receives_onlyCaches (s : State) (d k : Nat) : OnlyCaches s (receives s d k) := by
  unfold receives
  generalize s.vs.filter (fun e => decide (e.sector = k) && e.undo) = l
  induction l generalizing s with
  | nil => rfl
  | cons e l ih => exact (takeTag_onlyCaches d s e.tag).trans (ih _)

/-- A read that fills a sector of an agent's line. -/
theorem cohFetch_onlyCaches {s t : State} {a k : Nat} (h : cohFetch s a k = some t) : OnlyCaches s t := by
  unfold cohFetch at h
  rcases Option.map_eq_some_iff.1 h with ⟨u, hu, rfl⟩
  exact (cohRead_onlyCaches hu).trans (OnlyCaches.trans (b := fillSectors u a (k / 4) (sectorBit k)) rfl (receives_onlyCaches _ _ _))

theorem cohFetch_isSome {s t : State} {a k : Nat} (h : cohRead s a (k / 4) = some t) : ∃ u, cohFetch s a k = some u := by
  unfold cohFetch; rw [h]; exact ⟨_, rfl⟩

/-- A coherent write's ownership moves directory, RDC lines and the recall counter only. -/
theorem cohWrite_onlyCaches {s t : State} {a l k : Nat} (h : cohWrite s a l k = some t) : OnlyCaches s t := by
  simp only [cohWrite] at h
  split at h
  · cases h; rfl
  split at h
  · split at h
    · cases h; rfl
    · split at h <;> cases h
      exact (dropCopies_onlyCaches _ _ _).trans (setDir_onlyCaches _ _ _)
  · split at h
    · split at h
      · cases h; exact dirtySector_onlyCaches _ _ _ _
      · cases h; exact dirtySector_onlyCaches _ _ _ _
      · split at h
        · split at h <;> cases h
          exact ((dropCopies_onlyCaches _ _ _).trans (dirtySector_onlyCaches _ _ _ _)).trans (setDir_onlyCaches _ _ _)
        · cases h
      · cases h
    · split at h
      · rcases Option.map_eq_some_iff.1 h with ⟨u, hu, rfl⟩
        exact ((makeRoom_onlyCaches hu).trans (dirtySector_onlyCaches _ _ _ _)).trans (setDir_onlyCaches _ _ _)
      · split at h <;> cases h
        exact ((dropCopies_onlyCaches _ _ _).trans (dirtySector_onlyCaches _ _ _ _)).trans (setDir_onlyCaches _ _ _)

theorem isHost_of_device {pa : Nat} (h : isDeviceMem pa = true) : isHost pa = false := by
  simp only [isDeviceMem, isHbm, isCtier, Bool.or_eq_true, decide_eq_true_eq] at h
  simp only [isHost, decide_eq_false_iff_not]
  omega

theorem plainAt_page {s : State} {va pa : Nat} (h : s.plainAt va pa = true) :
    ∃ e, s.pageOf va = some (pa, e) ∧ leafMT e = 0 ∧ leafNC e = false ∧ isDeviceMem pa = true ∧ poisonAt s pa = false := by
  unfold State.plainAt at h
  split at h
  · next q e hq =>
    simp only [Bool.and_eq_true, decide_eq_true_eq, Bool.not_eq_true'] at h
    obtain ⟨⟨⟨⟨rfl, h2⟩, h3⟩, h4⟩, h5⟩ := h
    exact ⟨e, hq, h2, h3, h4, h5⟩
  · cases h

/-- A plain read of one sector: the bytes at home; the line is had as a coherent read has it. -/
theorem readPiece_plain {s t : State} {w : Who} {va pa n : Nat} {e : Word} (hd : w.det = 0) (hm : leafMT e = 0) (hn : leafNC e = false)
    (hv : isDeviceMem pa = true) (hc : s.counted = []) (hr : cohFetch s w.die (pa / 64) = some t) :
    readPiece w va e pa n s = .ok ((memBytes s pa n, poisonAt s pa), t) := by
  have h1 : noteRead s w va = s := by unfold noteRead; simp [hd]
  have h2 : homeRead w e pa s = .ok t := by unfold homeRead isCounted; simp [hn, hc, hr]
  have h3 : ncAway w e pa = false := by unfold ncAway; simp [hn]
  unfold readPiece
  simp [hm, isHost_of_device hv, hd, h1, h2, h3]

/-- A plain read through the node's translations. -/
theorem readVirt_plain {s t : State} {w : Who} {va pa n f : Nat} {e : Word} (hw : w.node = s.hart.node) (hp : s.pageOf va = some (pa, e))
    (hb : 0 < n ∧ va % 64 + n ≤ 64) (hd : w.det = 0) (hm : leafMT e = 0) (hn : leafNC e = false) (hv : isDeviceMem pa = true)
    (hc : s.counted = []) (hr : cohFetch s w.die (pa / 64) = some t) :
    readVirt w (f + 2) va n s = .ok ((memBytes s pa n, if poisonAt s pa then [pa / 64] else []), t) := by
  have hk : min n (64 - va % 64) = n := by omega
  have hn0 : n ≠ 0 := by omega
  simp only [readVirt, hn0, if_false, hk]
  rw [X.bind_ok (xRead_run s _), hw]
  unfold State.pageOf at hp
  rw [hp]
  simp only
  rw [X.bind_ok (readPiece_plain hd hm hn hv hc hr)]
  simp [X.bind_run]

theorem plainLoad_spec {s : State} {va n pa : Nat} (h : s.plainLoad va n pa = true) :
    s.agent = .hart ∧ s.hart.det = 0 ∧ s.noTransfers = true ∧ s.counted = [] ∧ (0 < n ∧ va % 64 + n ≤ 64) ∧
      checkAccess s s.hart.node va n true false false = none ∧ s.plainAt va pa = true ∧ (∃ t, cohFetch s s.die (pa / 64) = some t) ∧
      injKind s.hart.inj.tinject ≠ 4 := by
  simp only [State.plainLoad, Bool.and_eq_true, decide_eq_true_eq, beq_iff_eq, List.isEmpty_iff, Option.isSome_iff_exists] at h
  obtain ⟨⟨⟨⟨⟨⟨⟨⟨h1, h2⟩, h3⟩, h4⟩, h5⟩, h6⟩, h7⟩, t, h8⟩, h9⟩ := h
  exact ⟨h1, h2, h3, h4, h5, h6, h7, cohFetch_isSome (by rw [Nat.div_div_eq_div_mul]; exact h8), h9⟩

/-- A load that meets nothing in its way reads the bytes at home. -/
theorem xLoad_plain {s : State} {va n pa : Nat} (h : s.plainLoad va n pa = true) :
    ∃ t, OnlyCaches s t ∧ xLoad va n s = .ok (memBytes s pa n, t) := by
  obtain ⟨-, h2, h3, h4, h5, h6, h7, ⟨t, h8⟩, -⟩ := plainLoad_spec h
  obtain ⟨e, hp, hm, hn, hv, hz⟩ := plainAt_page h7
  refine ⟨t, cohFetch_onlyCaches h8, ?_⟩
  unfold xLoad
  rw [X.bind_ok (xCheck_none h6), X.bind_ok (xRead_run s _), X.bind_ok (interlock_none h3 _ _ _ _)]
  unfold xReadBytes
  rw [X.bind_ok (xRead_run s _)]
  have hd : s.who.det = 0 := by simp [State.who, whoHart, h2]
  have h9 : xOnce s.who (readVirt s.who (n / 64 + 2) va n) s = .ok ((memBytes s pa n, []), t) := by
    unfold xOnce
    rw [h4]
    simp only [List.isEmpty_nil, if_true]
    rw [readVirt_plain rfl hp h5 hd hm hn hv h4 h8, hz]
    rfl
  rw [X.bind_ok h9]
  rfl

/-- What a store of a hart may change beside the bytes: poison, version store, counted lines, events due, management registers (recall counter), the fill
requests, notes of parity, directory and RDC lines, intervals of dies, and the note of a sleeping BWAIT that its phase has moved. -/
def OnlyStore (s t : State) : Prop :=
  t = { s with hart := t.hart, others := t.others, mem := t.mem, poison := t.poison, vs := t.vs, counted := t.counted, pending := t.pending, mgmt := t.mgmt,
               fillReq := t.fillReq, dir := t.dir, rdc := t.rdc, rin := t.rin, parWrites := t.parWrites }
  ∧ t.hart = { s.hart with wait := t.hart.wait } ∧ t.hart.still = s.hart.still ∧ SameOthers s t

theorem OnlyStore.trans {a b c : State} (h : OnlyStore a b) (g : OnlyStore b c) : OnlyStore a c := by
  obtain ⟨h1, h2, h3, h4⟩ := h
  obtain ⟨g1, g2, g3, g4⟩ := g
  refine ⟨?_, ?_, g3.trans h3, g4.trans h4⟩
  · rw [g1, h1]
  · rw [g2, h2]

/-- A change of the fields other than the harts. -/
theorem onlyStore_of {s t : State}
    (h : t = { s with mem := t.mem, poison := t.poison, vs := t.vs, counted := t.counted, pending := t.pending, mgmt := t.mgmt,
                      fillReq := t.fillReq, dir := t.dir, rdc := t.rdc, rin := t.rin, parWrites := t.parWrites }) : OnlyStore s t := by
  have h1 : t.hart = s.hart := by rw [h]
  have h2 : t.others = s.others := by rw [h]
  refine ⟨?_, ?_, ?_, ?_⟩
  · rw [h1, h2]; exact h
  · rw [h1]
  · rw [h1]
  · unfold SameOthers; rw [h2]

theorem OnlyStore.refl (s : State) : OnlyStore s s := onlyStore_of rfl
theorem OnlyCaches.onlyStore {a b : State} (h : OnlyCaches a b) : OnlyStore a b := onlyStore_of (by rw [h]; rfl)
theorem OnlyStore.hart {a b : State} (h : OnlyStore a b) : b.hart = { a.hart with wait := b.hart.wait } := h.2.1
theorem OnlyStore.front {a b : State} (h : OnlyStore a b) : b.hart.front = a.hart.front := by rw [h.2.1]
theorem OnlyStore.agent {a b : State} (h : OnlyStore a b) : b.agent = a.agent := by rw [h.1]
theorem OnlyStore.nodes {a b : State} (h : OnlyStore a b) : b.nodes = a.nodes := by rw [h.1]
theorem OnlyStore.others {a b : State} (h : OnlyStore a b) : SameOthers a b := h.2.2.2

theorem requestSeal_onlyStore (s : State) (n : W32) : OnlyStore s (requestSeal s n) := by unfold requestSeal; split <;> exact onlyStore_of rfl
@[simp] theorem requestSeal_mem (s : State) (n : W32) : (requestSeal s n).mem = s.mem := by unfold requestSeal; split <;> rfl
@[simp] theorem requestSeal_vs (s : State) (n : W32) : (requestSeal s n).vs = s.vs := by unfold requestSeal; split <;> rfl
@[simp] theorem requestSeal_poison (s : State) (n : W32) : (requestSeal s n).poison = s.poison := by unfold requestSeal; split <;> rfl

theorem vsFill_onlyStore (s : State) (d : Nat) : OnlyStore s (vsFill s d) := by
  unfold vsFill; simp only; split
  · exact OnlyStore.trans (onlyStore_of rfl) (requestSeal_onlyStore _ _)
  · exact OnlyStore.refl s
@[simp] theorem vsFill_mem (s : State) (d : Nat) : (vsFill s d).mem = s.mem := by unfold vsFill; simp only; split <;> simp
@[simp] theorem vsFill_vs (s : State) (d : Nat) : (vsFill s d).vs = s.vs := by unfold vsFill; simp only; split <;> simp
@[simp] theorem vsFill_poison (s : State) (d : Nat) : (vsFill s d).poison = s.poison := by unfold vsFill; simp only; split <;> simp

theorem noteOther_onlyStore (s : State) (k : Nat) (g : W32) (w : Option Nat) : OnlyStore s (noteOther s k g w) := by
  unfold noteOther; split <;> exact onlyStore_of rfl
@[simp] theorem noteOther_mem (s : State) (k : Nat) (g : W32) (w : Option Nat) : (noteOther s k g w).mem = s.mem := by
  unfold noteOther; split <;> rfl
@[simp] theorem noteOther_poison (s : State) (k : Nat) (g : W32) (w : Option Nat) : (noteOther s k g w).poison = s.poison := by
  unfold noteOther; split <;> rfl

theorem noteOther_hasUndo (s : State) (k : Nat) (g : W32) (w : Option Nat) (h : hasUndo s k g = true) : hasUndo (noteOther s k g w) k g = true := by
  unfold noteOther; split
  · unfold hasUndo at *
    rw [List.any_eq_true] at *
    obtain ⟨e, he, hp⟩ := h
    refine ⟨_, List.mem_map_of_mem he, ?_⟩
    split <;> exact hp
  · exact h

theorem undoEntry_onlyStore (s : State) (k : Nat) (g : W32) (w : Option Nat) : OnlyStore s (undoEntry s k g w) := by
  unfold undoEntry; split
  · exact noteOther_onlyStore s k g w
  · exact OnlyStore.trans (onlyStore_of rfl) (vsFill_onlyStore _ _)
@[simp] theorem undoEntry_mem (s : State) (k : Nat) (g : W32) (w : Option Nat) : (undoEntry s k g w).mem = s.mem := by
  unfold undoEntry; split <;> simp
@[simp] theorem undoEntry_poison (s : State) (k : Nat) (g : W32) (w : Option Nat) : (undoEntry s k g w).poison = s.poison := by
  unfold undoEntry; split <;> simp

/-- After it, the sector has an undo entry of the interval (19 R404). -/
theorem undoEntry_hasUndo (s : State) (k : Nat) (g : W32) (w : Option Nat) : hasUndo (undoEntry s k g w) k g = true := by
  unfold undoEntry; split
  · next h => exact noteOther_hasUndo s k g w h
  · simp [hasUndo]

theorem Hart.still_moved (h : Hart) : ({ h with wait := h.wait.phaseMoved } : Hart).still = h.still := by
  unfold Hart.still Wait.phaseMoved; cases h.wait <;> rfl

/-- What the wake of waiters changes: notes of sleeping harts, and events. -/
theorem wakeWaiters_onlyStore (a b : State) : OnlyStore b (wakeWaiters a b) := by
  unfold wakeWaiters; simp only; split
  · exact OnlyStore.refl b
  · refine ⟨rfl, ?_, ?_, ?_⟩
    · simp only [raiseEvents_hart, updHarts]; split <;> rfl
    · simp only [raiseEvents_hart, updHarts]; split
      · exact Hart.still_moved _
      · rfl
    · simp only [SameOthers, raiseEvents_others, updHarts, updWhere, List.map_map]
      refine List.map_congr_left fun h _ => ?_
      simp only [Function.comp]; split
      · exact Hart.still_moved h
      · rfl
@[simp] theorem wakeWaiters_mem (a b : State) : (wakeWaiters a b).mem = b.mem := by unfold wakeWaiters; simp only; split <;> rfl
@[simp] theorem wakeWaiters_vs (a b : State) : (wakeWaiters a b).vs = b.vs := by unfold wakeWaiters; simp only; split <;> rfl
@[simp] theorem wakeWaiters_poison (a b : State) : (wakeWaiters a b).poison = b.poison := by unfold wakeWaiters; simp only; split <;> rfl
theorem wakeMonitors_onlyStore (s : State) (k : Nat) (b : Option Nat) : OnlyStore s (wakeMonitors s k b) := onlyStore_of rfl
theorem wakeGraphs_onlyStore (s : State) (p n : Nat) : OnlyStore s (wakeGraphs s p n) := onlyStore_of rfl

theorem putBytes_onlyStore (s : State) (pa : Nat) (bs : List Byte) (b : Option Nat) : OnlyStore s (putBytes s pa bs b) := by
  unfold putBytes
  exact ((OnlyStore.trans (onlyStore_of rfl) (wakeWaiters_onlyStore s _)).trans (wakeMonitors_onlyStore _ _ _)).trans (wakeGraphs_onlyStore _ _ _)
theorem putBytes_mem (s : State) (pa : Nat) (bs : List Byte) (b : Option Nat) : (putBytes s pa bs b).mem = Store.write memDefault s.mem pa bs :=
  wakeWaiters_mem s _
theorem putBytes_vs (s : State) (pa : Nat) (bs : List Byte) (b : Option Nat) : (putBytes s pa bs b).vs = s.vs := wakeWaiters_vs s _
theorem putBytes_poison (s : State) (pa : Nat) (bs : List Byte) (b : Option Nat) : (putBytes s pa bs b).poison = s.poison := wakeWaiters_poison s _

theorem clearWhole_onlyStore (s : State) (pa : Nat) (bs : List Byte) : OnlyStore s (clearWhole s pa bs) := by
  unfold clearWhole; split <;> exact onlyStore_of rfl
@[simp] theorem clearWhole_mem (s : State) (pa : Nat) (bs : List Byte) : (clearWhole s pa bs).mem = s.mem := by unfold clearWhole; split <;> rfl
@[simp] theorem clearWhole_vs (s : State) (pa : Nat) (bs : List Byte) : (clearWhole s pa bs).vs = s.vs := by unfold clearWhole; split <;> rfl
theorem clearWhole_poison (s : State) (pa : Nat) (bs : List Byte) (h : bs.length < 64) : (clearWhole s pa bs).poison = s.poison := by
  unfold clearWhole; rw [if_neg (by omega)]

theorem parityNote_onlyStore (s : State) (k : Nat) (g : W32) : OnlyStore s (parityNote s k g) := by
  unfold parityNote parityMark; split <;> exact onlyStore_of rfl
@[simp] theorem parityNote_mem (s : State) (k : Nat) (g : W32) : (parityNote s k g).mem = s.mem := by unfold parityNote parityMark; split <;> rfl
@[simp] theorem parityNote_vs (s : State) (k : Nat) (g : W32) : (parityNote s k g).vs = s.vs := by unfold parityNote parityMark; split <;> rfl
@[simp] theorem parityNote_poison (s : State) (k : Nat) (g : W32) : (parityNote s k g).poison = s.poison := by unfold parityNote parityMark; split <;> rfl

@[simp] theorem takeTag_mem (d : Nat) (s : State) (g : W32) : (takeTag d s g).mem = s.mem := by unfold takeTag; split <;> rfl
@[simp] theorem takeTag_vs (d : Nat) (s : State) (g : W32) : (takeTag d s g).vs = s.vs := by unfold takeTag; split <;> rfl
@[simp] theorem takeTag_poison (d : Nat) (s : State) (g : W32) : (takeTag d s g).poison = s.poison := by unfold takeTag; split <;> rfl

/-- A tagged write at home: what it may change, the memory after it, and its undo entry (19 R402, R404). -/
theorem writeHome_spec (s : State) (pa : Nat) (bs : List Byte) (tag : W32) (w b : Option Nat) :
    OnlyStore s (writeHome s pa bs tag w b) ∧ (writeHome s pa bs tag w b).mem = Store.write memDefault s.mem pa bs ∧
      hasUndo (writeHome s pa bs tag w b) (pa / 64) tag = true ∧
      (bs.length < 64 → (writeHome s pa bs tag w b).poison = s.poison) := by
  unfold writeHome
  refine ⟨?_, ?_, ?_, ?_⟩
  · refine OnlyStore.trans ?_ (takeTag_onlyCaches _ _ _).onlyStore
    refine OnlyStore.trans ?_ (parityNote_onlyStore _ _ _)
    refine OnlyStore.trans ?_ (clearWhole_onlyStore _ _ _)
    refine OnlyStore.trans ?_ (putBytes_onlyStore _ _ _ _)
    exact (undoEntry_onlyStore _ _ _ _).trans (onlyStore_of rfl)
  · rw [takeTag_mem, parityNote_mem, clearWhole_mem, putBytes_mem, endCount_mem, undoEntry_mem]
  · have := undoEntry_hasUndo s (pa / 64) tag w
    unfold hasUndo at *
    rw [takeTag_vs, parityNote_vs, clearWhole_vs, putBytes_vs, endCount_vs]; exact this
  · intro h
    rw [takeTag_poison, parityNote_poison, clearWhole_poison _ _ _ h, putBytes_poison, endCount_poison, undoEntry_poison]

theorem plainStore_spec {s : State} {va n pa : Nat} (h : s.plainStore va n pa = true) :
    s.agent = .hart ∧ s.hart.det = 0 ∧ s.noTransfers = true ∧ (0 < n ∧ va % 64 + n ≤ 64) ∧
      checkAccess s s.hart.node va n false true false = none ∧ s.plainAt va pa = true ∧ vsFull s (homeDie pa) = false ∧
      ∃ t, cohWrite s s.die (pa / 256) (pa / 64) = some t := by
  simp only [State.plainStore, Bool.and_eq_true, decide_eq_true_eq, beq_iff_eq, Option.isSome_iff_exists, Bool.not_eq_true'] at h
  obtain ⟨⟨⟨⟨⟨⟨⟨h1, h2⟩, h3⟩, h4⟩, h5⟩, h6⟩, h7⟩, h8⟩ := h
  exact ⟨h1, h2, h3, h4, h5, h6, h7, h8⟩

theorem receives_eq (s : State) (d k : Nat) : receives s d k = { s with rin := (receives s d k).rin } := by
  unfold receives
  generalize s.vs.filter (fun e => decide (e.sector = k) && e.undo) = l
  suffices h : ∀ t : State, t = { s with rin := t.rin } →
      l.foldl (fun t e => takeTag d t e.tag) t = { s with rin := (l.foldl (fun t e => takeTag d t e.tag) t).rin } from h s rfl
  induction l with
  | nil => exact fun t h => h
  | cons e l ih =>
    intro t h
    refine ih _ ?_
    by_cases c : rinBefore (rinOf t d) e.tag = true
    · simp only [takeTag, c, if_true]; rw [h]
    · simp only [takeTag, c]; exact h

/-- Intervals do not decide whether an entry is free for a line. -/
theorem makeRoom_isSome_rin (s : State) (i : Store 32) (l : Nat) : (makeRoom { s with rin := i } l).isSome = (makeRoom s l).isSome := by
  simp only [makeRoom, show setAwaited { s with rin := i } l = setAwaited s l from rfl, show entryDue { s with rin := i } l = entryDue s l from rfl,
    show setEntries { s with rin := i } l = setEntries s l from rfl, show ∀ m k, holdersBusy { s with rin := i } m k = holdersBusy s m k from fun _ _ => rfl]
  split
  · rfl
  split
  · rfl
  split
  · rfl
  split <;> rfl

/-- Nor whether the line can be owned. -/
theorem cohWrite_isSome_rin (s : State) (i : Store 32) (a l k : Nat) : (cohWrite { s with rin := i } a l k).isSome = (cohWrite s a l k).isSome := by
  simp only [cohWrite, show isCounted { s with rin := i } l = isCounted s l from rfl, show ∀ st m, mayTake { s with rin := i } st m a l = mayTake s st m a l from fun _ _ => rfl,
    show dirOf { s with rin := i } l = dirOf s l from rfl, show rdcOf { s with rin := i } a l = rdcOf s a l from rfl,
    show setAwaited { s with rin := i } l = setAwaited s l from rfl]
  split
  · rfl
  split
  · split
    · rfl
    · split <;> rfl
  · split
    · split
      · rfl
      · rfl
      · split
        · split <;> rfl
        · rfl
      · rfl
    · split
      · rw [Option.isSome_map, Option.isSome_map, makeRoom_isSome_rin]
      · split <;> rfl

/-- A plain write of one sector. -/
theorem writePiece_plain {s t : State} {w : Who} {va pa : Nat} {bs : List Byte} {e : Word} (hd : w.det = 0) (hm : leafMT e = 0)
    (hn : leafNC e = false) (hv : isDeviceMem pa = true) (hf : vsFull s (homeDie pa) = false)
    (hr : cohWrite (receives s w.die (pa / 64)) w.die (pa / 256) (pa / 64) = some t) :
    writePiece w false va e pa bs s = .ok ((), writeHome t pa bs (rinOf (receives s w.die (pa / 64)) w.die) (some w.node) (some w.hid)) := by
  have h : ncAway w e pa = false := by unfold ncAway; simp [hn]
  have hf : vsFull (receives s w.die (pa / 64)) (homeDie pa) = false := by rw [receives_eq]; exact hf
  unfold writePiece
  simp [hm, isHost_of_device hv, hf, hd, hn, hr, h]

theorem pieces64_one {va : Nat} {bs : List Byte} (h : 0 < bs.length ∧ va % 64 + bs.length ≤ 64) : pieces64 va bs = [(va, bs)] := by
  have h1 : bs ≠ [] := by rintro rfl; simp at h
  have h2 : bs.drop (64 - va % 64) = [] := List.drop_eq_nil_of_le (by omega)
  have h3 : bs.take (64 - va % 64) = bs := List.take_of_length_le (by omega)
  unfold pieces64
  simp only [pieces, List.isEmpty_iff, h1, if_false, h2, h3]
  simp

/-- A store that meets nothing in its way puts its bytes at home. -/
theorem xStore_plain {s : State} {va pa : Nat} {bs : List Byte} (h : s.plainStore va bs.length pa = true) :
    ∃ t, xStore va bs s = .ok ((), t) ∧ OnlyStore s t ∧ t.mem = Store.write memDefault s.mem pa bs ∧ hasUndo t (pa / 64) (rinOf (receives s s.die (pa / 64)) s.die) = true := by
  obtain ⟨-, h2, h3, h4, h5, h6, h7, ⟨t0, h0⟩⟩ := plainStore_spec h
  obtain ⟨e, hp, hm, hn, hv, -⟩ := plainAt_page h6
  obtain ⟨t, h8⟩ : ∃ t, cohWrite (receives s s.who.die (pa / 64)) s.who.die (pa / 256) (pa / 64) = some t := by
    rw [receives_eq, ← Option.isSome_iff_exists, cohWrite_isSome_rin]
    exact Option.isSome_iff_exists.2 ⟨t0, h0⟩
  have hc := (receives_onlyCaches s s.who.die (pa / 64)).trans (cohWrite_onlyCaches h8)
  have hw := writeHome_spec t pa bs (rinOf (receives s s.who.die (pa / 64)) s.who.die) (some s.who.node) (some s.who.hid)
  refine ⟨_, ?_, hc.onlyStore.trans hw.1, ?_, hw.2.2.1⟩
  · unfold xStore
    rw [X.bind_ok (xCheck_none h5), X.bind_ok (xRead_run s _), X.bind_ok (interlock_none h3 _ _ _ _)]
    unfold xWriteBytes
    rw [X.bind_ok (xRead_run s _), pieces64_one h4]
    simp only [writeVirt]
    rw [X.bind_ok (xRead_run s _)]
    have hq : ((nodeOf s s.who.node).bind fun x => nodePA x (BitVec.ofNat 64 va)) = some (pa, e) := hp
    rw [hq]
    simp only
    rw [X.bind_ok (writePiece_plain (w := s.who) (t := t) (by simp [State.who, whoHart, h2]) hm hn hv h7 h8)]
    rfl
  · rw [hw.2.1, hc.mem]

end Sys2Proof.Machine
end

