-- ==== Sys2Proof/Laws/Memory.lean ====
section
/-! SUPPORT. Sys2Proof/Laws/Memory.lean: every operation that writes memory keeps its canonical form, and the memory after reset has it. -/
namespace Sys2Proof.Machine

theorem reset_inv : State.reset.Inv := Store.nil_wf memDefault

/-- A fold of operations that keep the form keeps it. -/
theorem foldl_inv {α : Type} (f : State → α → State) (hf : ∀ s a, s.Inv → (f s a).Inv) (l : List α) (s : State) (h : s.Inv) : (l.foldl f s).Inv := by
  induction l generalizing s with
  | nil => exact h
  | cons a l ih => exact ih _ (hf s a h)

/-- Only the memory decides. -/
theorem inv_of_mem {s t : State} (h : s.Inv) (e : t.mem = s.mem) : t.Inv := by unfold State.Inv; rw [e]; exact h

/-- A write of bytes keeps the form, whatever else the state does. -/
theorem inv_of_write {s t : State} (h : s.Inv) (pa : Nat) (bs : List Byte) (e : t.mem = Store.write memDefault s.mem pa bs) : t.Inv := by
  unfold State.Inv; rw [e]; exact Store.write_wf memDefault _ _ _ h

theorem putBytes_inv (s : State) (pa : Nat) (bs : List Byte) (b : Option Nat) (h : s.Inv) : (putBytes s pa bs b).Inv :=
  inv_of_write h pa bs (putBytes_mem s pa bs b)

theorem writeHome_inv (s : State) (pa : Nat) (bs : List Byte) (tag : W32) (w b : Option Nat) (h : s.Inv) : (writeHome s pa bs tag w b).Inv :=
  inv_of_write h pa bs (writeHome_spec s pa bs tag w b).2.1

theorem writeUntagged_inv (s : State) (pa : Nat) (bs : List Byte) (b : Option Nat) (h : s.Inv) : (writeUntagged s pa bs b).Inv :=
  inv_of_write h pa bs (putBytes_mem (endCount s (pa / 256)) pa bs b)

theorem setPoison_inv (s : State) (k : Nat) (b : Bool) (h : s.Inv) : (setPoison s k b).Inv := h

theorem markMixed_inv (s : State) (k : Nat) (g : W32) (h : s.Inv) : (markMixed s k g).Inv := h

theorem undoEntry_inv (s : State) (k : Nat) (g : W32) (w : Option Nat) (h : s.Inv) : (undoEntry s k g w).Inv := inv_of_mem h (undoEntry_mem s k g w)

theorem parityNote_inv (s : State) (k : Nat) (g : W32) (h : s.Inv) : (parityNote s k g).Inv := inv_of_mem h (parityNote_mem s k g)

theorem endCount_inv (s : State) (l : Nat) (h : s.Inv) : (endCount s l).Inv := h

theorem ncWriteBack_inv (s : State) (c : NcCopy) (h : s.Inv) : (ncWriteBack s c).Inv := by
  unfold ncWriteBack
  split
  · exact h
  · have h0 := undoEntry_inv s c.sector c.tag c.writer h
    refine inv_of_mem (setPoison_inv _ _ _ (parityNote_inv _ _ _ (putBytes_inv _ _ _ _ (endCount_inv _ _ ?_)))) (takeTag_mem _ _ _)
    split
    · exact markMixed_inv _ _ _ h0
    · exact h0

theorem countRead_inv (s : State) (l : Nat) (tag : W32) (h : s.Inv) : (countRead s l tag).Inv := by
  unfold countRead
  split
  · exact h
  · split
    · refine foldl_inv _ (fun t k ht => parityNote_inv t k tag ht) _ _ (endCount_inv _ _ ?_)
      refine foldl_inv _ (fun t i ht => setPoison_inv t _ _ ht) _ _ ?_
      refine inv_of_write (s := (upFrom (l * 4) 4).foldl (fun t sec => undoEntry t sec tag none) s) ?_ _ _ rfl
      exact foldl_inv _ (fun t i ht => undoEntry_inv t _ _ _ ht) _ _ h
    · exact h

theorem restoreEntry_inv (s : State) (e : VsEntry) (h : s.Inv) : (restoreEntry s e).Inv :=
  inv_of_write h (e.sector * 64) (natBytes e.data.toNat 64) rfl

theorem rebuildSector_inv (s : State) (k : Nat) (h : s.Inv) : (rebuildSector s k).Inv := by
  unfold rebuildSector
  exact setPoison_inv _ _ _ (inv_of_write h _ _ rfl)

theorem restoreMemory_inv (s : State) (h : s.Inv) : (restoreMemory s).Inv :=
  inv_of_mem (foldl_inv restoreEntry (fun t e ht => restoreEntry_inv t e ht) _ s h) rfl

/-- Host memory alone stays at a reset, still in the form. -/
theorem clearModule_inv (s : State) (k : Nat) (h : s.Inv) : (clearModule s k).Inv := by
  have hw : Memory.wf (s.mem.filter (fun e => isHost e.1)) :=
    ⟨List.Pairwise.filter _ h.1, fun e he => h.2 e (List.mem_filter.1 he).1⟩
  exact hw

theorem placeAt_inv (s : State) (pa w : Nat) (h : s.Inv) : (placeAt s pa w).Inv := inv_of_write h pa (natBytes w 4) rfl

end Sys2Proof.Machine
end

