-- ==== Sys2Proof/Laws/PerInstr.lean ====
section
/-! SUPPORT. Sys2Proof/Laws/PerInstr.lean: statements about every instruction as syntax, one lemma for each constructor. -/
namespace Sys2Proof.Laws

set_option Elab.async false

/-- The word of an instruction has a major below 0x58 (05 Table 5.4); an event of the part has no word, and its number here is 0. -/
def Encoding.Statement (i : Instr) : Prop :=
  encodeNat i < 0x58 * 2 ^ 25 ∧ (i.isWord = false → encodeNat i = 0)

theorem leField {n : Nat} (x : BitVec n) (m : Nat) : x.toNat * m ≤ (2 ^ n - 1) * m := Nat.mul_le_mul_right _ (Nat.le_sub_one_of_lt x.isLt)
theorem leField1 {n : Nat} (x : BitVec n) : x.toNat ≤ 2 ^ n - 1 := Nat.le_sub_one_of_lt x.isLt
theorem leBit (x : Bool) (m : Nat) : x.toNat * m ≤ 1 * m := Nat.mul_le_mul_right _ (Bool.toNat_le x)
theorem leBit1 (x : Bool) : x.toNat ≤ 1 := Bool.toNat_le x

theorem Encoding.monitorWake (h : Nat) : Encoding.Statement (.monitorWake h) := ⟨Nat.zero_lt_succ _, fun _ => rfl⟩
theorem Encoding.monwaitTimeout (h : Nat) : Encoding.Statement (.monwaitTimeout h) := ⟨Nat.zero_lt_succ _, fun _ => rfl⟩
theorem Encoding.engineCount (x : Nat) : Encoding.Statement (.engineCount x) := ⟨Nat.zero_lt_succ _, fun _ => rfl⟩
theorem Encoding.transferRetire (x : Nat) : Encoding.Statement (.transferRetire x) := ⟨Nat.zero_lt_succ _, fun _ => rfl⟩
theorem Encoding.collMatch (x : Nat) : Encoding.Statement (.collMatch x) := ⟨Nat.zero_lt_succ _, fun _ => rfl⟩
theorem Encoding.collTimeout (x : Nat) : Encoding.Statement (.collTimeout x) := ⟨Nat.zero_lt_succ _, fun _ => rfl⟩
theorem Encoding.bwaitWake (h : Nat) : Encoding.Statement (.bwaitWake h) := ⟨Nat.zero_lt_succ _, fun _ => rfl⟩
theorem Encoding.bwaitDeadline (h : Nat) : Encoding.Statement (.bwaitDeadline h) := ⟨Nat.zero_lt_succ _, fun _ => rfl⟩
theorem Encoding.detPhaseMerge (n : Nat) : Encoding.Statement (.detPhaseMerge n) := ⟨Nat.zero_lt_succ _, fun _ => rfl⟩
theorem Encoding.awaitReturn (h : Nat) : Encoding.Statement (.awaitReturn h) := ⟨Nat.zero_lt_succ _, fun _ => rfl⟩
theorem Encoding.adviceWatchdog (h : Nat) : Encoding.Statement (.adviceWatchdog h) := ⟨Nat.zero_lt_succ _, fun _ => rfl⟩
theorem Encoding.hartWatchdog (h : Nat) : Encoding.Statement (.hartWatchdog h) := ⟨Nat.zero_lt_succ _, fun _ => rfl⟩
theorem Encoding.vectorSoftError (h : Nat) : Encoding.Statement (.vectorSoftError h) := ⟨Nat.zero_lt_succ _, fun _ => rfl⟩
theorem Encoding.sectorPoison (spad : Bool) (addr : BitVec 52) (unit : BitVec 16) : Encoding.Statement (.sectorPoison spad addr unit) := ⟨Nat.zero_lt_succ _, fun _ => rfl⟩
theorem Encoding.hartAged (h : Nat) : Encoding.Statement (.hartAged h) := ⟨Nat.zero_lt_succ _, fun _ => rfl⟩
theorem Encoding.hartResident (h : Nat) : Encoding.Statement (.hartResident h) := ⟨Nat.zero_lt_succ _, fun _ => rfl⟩
theorem Encoding.contextSwitch (h : Nat) : Encoding.Statement (.contextSwitch h) := ⟨Nat.zero_lt_succ _, fun _ => rfl⟩
theorem Encoding.contextRestore (h : Nat) : Encoding.Statement (.contextRestore h) := ⟨Nat.zero_lt_succ _, fun _ => rfl⟩
theorem Encoding.parkExpiry (h : Nat) : Encoding.Statement (.parkExpiry h) := ⟨Nat.zero_lt_succ _, fun _ => rfl⟩
theorem Encoding.timeSlice (die : BitVec 2) (phys : BitVec 7) : Encoding.Statement (.timeSlice die phys) := ⟨Nat.zero_lt_succ _, fun _ => rfl⟩
theorem Encoding.graphPost (pa : BitVec 52) (v : BitVec 64) : Encoding.Statement (.graphPost pa v) := ⟨Nat.zero_lt_succ _, fun _ => rfl⟩
theorem Encoding.followArmedWord (g : BitVec 6) : Encoding.Statement (.followArmedWord g) := ⟨Nat.zero_lt_succ _, fun _ => rfl⟩
theorem Encoding.nodeReady (n : Nat) : Encoding.Statement (.nodeReady n) := ⟨Nat.zero_lt_succ _, fun _ => rfl⟩
theorem Encoding.admitNode (n : Nat) : Encoding.Statement (.admitNode n) := ⟨Nat.zero_lt_succ _, fun _ => rfl⟩
theorem Encoding.evalCond (n : Nat) : Encoding.Statement (.evalCond n) := ⟨Nat.zero_lt_succ _, fun _ => rfl⟩
theorem Encoding.evalLoop (n : Nat) : Encoding.Statement (.evalLoop n) := ⟨Nat.zero_lt_succ _, fun _ => rfl⟩
theorem Encoding.evalSwitch (n : Nat) : Encoding.Statement (.evalSwitch n) := ⟨Nat.zero_lt_succ _, fun _ => rfl⟩
theorem Encoding.signalWrite (n : Nat) : Encoding.Statement (.signalWrite n) := ⟨Nat.zero_lt_succ _, fun _ => rfl⟩
theorem Encoding.nodeDone (n : Nat) : Encoding.Statement (.nodeDone n) := ⟨Nat.zero_lt_succ _, fun _ => rfl⟩
theorem Encoding.nodeRetire (n : Nat) : Encoding.Statement (.nodeRetire n) := ⟨Nat.zero_lt_succ _, fun _ => rfl⟩
theorem Encoding.resDone : Encoding.Statement (.resDone ) := ⟨Nat.zero_lt_succ _, fun _ => rfl⟩
theorem Encoding.invGo (v : BitVec 64) : Encoding.Statement (.invGo v) := ⟨Nat.zero_lt_succ _, fun _ => rfl⟩
theorem Encoding.invalidationDone : Encoding.Statement (.invalidationDone ) := ⟨Nat.zero_lt_succ _, fun _ => rfl⟩
theorem Encoding.remapWrite (die : BitVec 2) (l : BitVec 6) (v : BitVec 64) : Encoding.Statement (.remapWrite die l v) := ⟨Nat.zero_lt_succ _, fun _ => rfl⟩
theorem Encoding.migratePage (asid : BitVec 16) (vpn : BitVec 40) (die : BitVec 2) : Encoding.Statement (.migratePage asid vpn die) := ⟨Nat.zero_lt_succ _, fun _ => rfl⟩
theorem Encoding.graphCtlWrite (g : BitVec 6) (v : BitVec 64) : Encoding.Statement (.graphCtlWrite g v) := ⟨Nat.zero_lt_succ _, fun _ => rfl⟩
theorem Encoding.rds (r : BitVec 3) (line : BitVec 44) : Encoding.Statement (.rds r line) := ⟨Nat.zero_lt_succ _, fun _ => rfl⟩
theorem Encoding.rdx (r : BitVec 3) (line : BitVec 44) : Encoding.Statement (.rdx r line) := ⟨Nat.zero_lt_succ _, fun _ => rfl⟩
theorem Encoding.upg (r : BitVec 3) (line : BitVec 44) : Encoding.Statement (.upg r line) := ⟨Nat.zero_lt_succ _, fun _ => rfl⟩
theorem Encoding.wbd (r : BitVec 3) (line : BitVec 44) (sectors : BitVec 4) : Encoding.Statement (.wbd r line sectors) := ⟨Nat.zero_lt_succ _, fun _ => rfl⟩
theorem Encoding.evc (r : BitVec 3) (line : BitVec 44) : Encoding.Statement (.evc r line) := ⟨Nat.zero_lt_succ _, fun _ => rfl⟩
theorem Encoding.invack (r : BitVec 3) (line : BitVec 44) : Encoding.Statement (.invack r line) := ⟨Nat.zero_lt_succ _, fun _ => rfl⟩
theorem Encoding.ack (r : BitVec 3) (line : BitVec 44) (wb : Bool) : Encoding.Statement (.ack r line wb) := ⟨Nat.zero_lt_succ _, fun _ => rfl⟩
theorem Encoding.ackd (r : BitVec 3) (line : BitVec 44) (sectors : BitVec 4) : Encoding.Statement (.ackd r line sectors) := ⟨Nat.zero_lt_succ _, fun _ => rfl⟩
theorem Encoding.data (r : BitVec 3) (line : BitVec 44) : Encoding.Statement (.data r line) := ⟨Nat.zero_lt_succ _, fun _ => rfl⟩
theorem Encoding.datae (r : BitVec 3) (line : BitVec 44) : Encoding.Statement (.datae r line) := ⟨Nat.zero_lt_succ _, fun _ => rfl⟩
theorem Encoding.grante (r : BitVec 3) (line : BitVec 44) : Encoding.Statement (.grante r line) := ⟨Nat.zero_lt_succ _, fun _ => rfl⟩
theorem Encoding.inv (r : BitVec 3) (line : BitVec 44) : Encoding.Statement (.inv r line) := ⟨Nat.zero_lt_succ _, fun _ => rfl⟩
theorem Encoding.recalls (r : BitVec 3) (line : BitVec 44) : Encoding.Statement (.recalls r line) := ⟨Nat.zero_lt_succ _, fun _ => rfl⟩
theorem Encoding.recalli (r : BitVec 3) (line : BitVec 44) : Encoding.Statement (.recalli r line) := ⟨Nat.zero_lt_succ _, fun _ => rfl⟩
theorem Encoding.wback (r : BitVec 3) (line : BitVec 44) : Encoding.Statement (.wback r line) := ⟨Nat.zero_lt_succ _, fun _ => rfl⟩
theorem Encoding.hbmActRefresh (die : BitVec 2) (row : BitVec 32) : Encoding.Statement (.hbmActRefresh die row) := ⟨Nat.zero_lt_succ _, fun _ => rfl⟩
theorem Encoding.actParityError (die : BitVec 2) (row : BitVec 32) : Encoding.Statement (.actParityError die row) := ⟨Nat.zero_lt_succ _, fun _ => rfl⟩
theorem Encoding.sealTimer : Encoding.Statement (.sealTimer ) := ⟨Nat.zero_lt_succ _, fun _ => rfl⟩
theorem Encoding.sealRequest (n : BitVec 32) : Encoding.Statement (.sealRequest n) := ⟨Nat.zero_lt_succ _, fun _ => rfl⟩
theorem Encoding.start (n : BitVec 32) : Encoding.Statement (.start n) := ⟨Nat.zero_lt_succ _, fun _ => rfl⟩
theorem Encoding.sealDrainDone : Encoding.Statement (.sealDrainDone ) := ⟨Nat.zero_lt_succ _, fun _ => rfl⟩
theorem Encoding.vote (chip : BitVec 6) (n : BitVec 32) : Encoding.Statement (.vote chip n) := ⟨Nat.zero_lt_succ _, fun _ => rfl⟩
theorem Encoding.sealed (n : BitVec 32) : Encoding.Statement (.sealed n) := ⟨Nat.zero_lt_succ _, fun _ => rfl⟩
theorem Encoding.voteTimeout (chip : BitVec 6) : Encoding.Statement (.voteTimeout chip) := ⟨Nat.zero_lt_succ _, fun _ => rfl⟩
theorem Encoding.rollback : Encoding.Statement (.rollback ) := ⟨Nat.zero_lt_succ _, fun _ => rfl⟩
theorem Encoding.parityBuildDone : Encoding.Statement (.parityBuildDone ) := ⟨Nat.zero_lt_succ _, fun _ => rfl⟩
theorem Encoding.parRbGo (v : BitVec 64) : Encoding.Statement (.parRbGo v) := ⟨Nat.zero_lt_succ _, fun _ => rfl⟩
theorem Encoding.straitLinkTrain (port : BitVec 4) (peer : BitVec 6) (dom : BitVec 64) (ver : BitVec 8) (lanes : BitVec 4) : Encoding.Statement (.straitLinkTrain port peer dom ver lanes) := ⟨Nat.zero_lt_succ _, fun _ => rfl⟩
theorem Encoding.straitLinkDown (port : BitVec 4) : Encoding.Statement (.straitLinkDown port) := ⟨Nat.zero_lt_succ _, fun _ => rfl⟩
theorem Encoding.cwPortTrain (port : BitVec 1) (ver : BitVec 8) (lanes : BitVec 4) : Encoding.Statement (.cwPortTrain port ver lanes) := ⟨Nat.zero_lt_succ _, fun _ => rfl⟩
theorem Encoding.cwPortDown (port : BitVec 1) : Encoding.Statement (.cwPortDown port) := ⟨Nat.zero_lt_succ _, fun _ => rfl⟩
theorem Encoding.hostPostedWrite (pa : BitVec 52) (bytes : List (BitVec 8)) : Encoding.Statement (.hostPostedWrite pa bytes) := ⟨Nat.zero_lt_succ _, fun _ => rfl⟩
theorem Encoding.hostRead (pa : BitVec 52) (n : Nat) : Encoding.Statement (.hostRead pa n) := ⟨Nat.zero_lt_succ _, fun _ => rfl⟩
theorem Encoding.hostAtomic (op : BitVec 4) (w4 : Bool) (pa : BitVec 52) (v : BitVec 64) : Encoding.Statement (.hostAtomic op w4 pa v) := ⟨Nat.zero_lt_succ _, fun _ => rfl⟩
theorem Encoding.errPop (die : BitVec 2) : Encoding.Statement (.errPop die) := ⟨Nat.zero_lt_succ _, fun _ => rfl⟩
theorem Encoding.errOvfClear (die : BitVec 2) : Encoding.Statement (.errOvfClear die) := ⟨Nat.zero_lt_succ _, fun _ => rfl⟩
theorem Encoding.fwUpdateGo (v : BitVec 64) (signed : Bool) (digest : BitVec 256) : Encoding.Statement (.fwUpdateGo v signed digest) := ⟨Nat.zero_lt_succ _, fun _ => rfl⟩
theorem Encoding.fwQuiesceDone : Encoding.Statement (.fwQuiesceDone ) := ⟨Nat.zero_lt_succ _, fun _ => rfl⟩
theorem Encoding.fwQuiesceTimeout : Encoding.Statement (.fwQuiesceTimeout ) := ⟨Nat.zero_lt_succ _, fun _ => rfl⟩
theorem Encoding.fwHandover : Encoding.Statement (.fwHandover ) := ⟨Nat.zero_lt_succ _, fun _ => rfl⟩
theorem Encoding.fwHb (v : BitVec 64) : Encoding.Statement (.fwHb v) := ⟨Nat.zero_lt_succ _, fun _ => rfl⟩
theorem Encoding.fwHbTimeout : Encoding.Statement (.fwHbTimeout ) := ⟨Nat.zero_lt_succ _, fun _ => rfl⟩
theorem Encoding.debugUnlock (token : List (BitVec 8)) : Encoding.Statement (.debugUnlock token) := ⟨Nat.zero_lt_succ _, fun _ => rfl⟩
theorem Encoding.negotiateAlgorithms (sha3 : Bool) (ext : Bool) : Encoding.Statement (.negotiateAlgorithms sha3 ext) := ⟨Nat.zero_lt_succ _, fun _ => rfl⟩
theorem Encoding.getMeasurements (sign : Bool) (nonce : BitVec 256) : Encoding.Statement (.getMeasurements sign nonce) := ⟨Nat.zero_lt_succ _, fun _ => rfl⟩
theorem Encoding.rstCtlCold : Encoding.Statement (.rstCtlCold ) := ⟨Nat.zero_lt_succ _, fun _ => rfl⟩
theorem Encoding.rstCtlWarm : Encoding.Statement (.rstCtlWarm ) := ⟨Nat.zero_lt_succ _, fun _ => rfl⟩
theorem Encoding.resetInput (cold : Bool) : Encoding.Statement (.resetInput cold) := ⟨Nat.zero_lt_succ _, fun _ => rfl⟩
theorem Encoding.supplyFault : Encoding.Statement (.supplyFault ) := ⟨Nat.zero_lt_succ _, fun _ => rfl⟩
theorem Encoding.referenceLoss : Encoding.Statement (.referenceLoss ) := ⟨Nat.zero_lt_succ _, fun _ => rfl⟩
theorem Encoding.thermalThrottle (die : BitVec 2) (tj : BitVec 8) : Encoding.Statement (.thermalThrottle die tj) := ⟨Nat.zero_lt_succ _, fun _ => rfl⟩
theorem Encoding.thermalRecover (die : BitVec 2) (tj : BitVec 8) : Encoding.Statement (.thermalRecover die tj) := ⟨Nat.zero_lt_succ _, fun _ => rfl⟩
theorem Encoding.thermalTrip (die : BitVec 2) (tj : BitVec 8) : Encoding.Statement (.thermalTrip die tj) := ⟨Nat.zero_lt_succ _, fun _ => rfl⟩
theorem Encoding.mgmtRegisterWrite (off : BitVec 32) (v : BitVec 64) : Encoding.Statement (.mgmtRegisterWrite off v) := ⟨Nat.zero_lt_succ _, fun _ => rfl⟩
theorem Encoding.reservedEncoding (w : BitVec 32) : Encoding.Statement (.reservedEncoding w) := ⟨Nat.zero_lt_succ _, fun _ => rfl⟩
theorem Encoding.powerUp : Encoding.Statement (.powerUp ) := ⟨Nat.zero_lt_succ _, fun _ => rfl⟩
theorem Encoding.rebuildDone : Encoding.Statement (.rebuildDone ) := ⟨Nat.zero_lt_succ _, fun _ => rfl⟩
theorem Encoding.straitFlitReplay (port : BitVec 4) : Encoding.Statement (.straitFlitReplay port) := ⟨Nat.zero_lt_succ _, fun _ => rfl⟩
theorem Encoding.cwFlitReplay (port : BitVec 1) : Encoding.Statement (.cwFlitReplay port) := ⟨Nat.zero_lt_succ _, fun _ => rfl⟩
theorem Encoding.frameForward (dst : BitVec 6) (cls : BitVec 2) (body : List (BitVec 8)) : Encoding.Statement (.frameForward dst cls body) := ⟨Nat.zero_lt_succ _, fun _ => rfl⟩
theorem Encoding.add (d : BitVec 7) (a : BitVec 7) (b : BitVec 7) : Encoding.Statement (.add d a b) := ⟨Nat.lt_of_le_of_lt (Nat.add_le_add (Nat.add_le_add (Nat.add_le_add (Nat.le_refl _) (leField d 262144)) (leField a 2048)) (leField b 16)) (by decide), fun h => by cases h⟩
theorem Encoding.sub (d : BitVec 7) (a : BitVec 7) (b : BitVec 7) : Encoding.Statement (.sub d a b) := ⟨Nat.lt_of_le_of_lt (Nat.add_le_add (Nat.add_le_add (Nat.add_le_add (Nat.le_refl _) (leField d 262144)) (leField a 2048)) (leField b 16)) (by decide), fun h => by cases h⟩
theorem Encoding.and (d : BitVec 7) (a : BitVec 7) (b : BitVec 7) : Encoding.Statement (.and d a b) := ⟨Nat.lt_of_le_of_lt (Nat.add_le_add (Nat.add_le_add (Nat.add_le_add (Nat.le_refl _) (leField d 262144)) (leField a 2048)) (leField b 16)) (by decide), fun h => by cases h⟩
theorem Encoding.or (d : BitVec 7) (a : BitVec 7) (b : BitVec 7) : Encoding.Statement (.or d a b) := ⟨Nat.lt_of_le_of_lt (Nat.add_le_add (Nat.add_le_add (Nat.add_le_add (Nat.le_refl _) (leField d 262144)) (leField a 2048)) (leField b 16)) (by decide), fun h => by cases h⟩
theorem Encoding.xor (d : BitVec 7) (a : BitVec 7) (b : BitVec 7) : Encoding.Statement (.xor d a b) := ⟨Nat.lt_of_le_of_lt (Nat.add_le_add (Nat.add_le_add (Nat.add_le_add (Nat.le_refl _) (leField d 262144)) (leField a 2048)) (leField b 16)) (by decide), fun h => by cases h⟩
theorem Encoding.andn (d : BitVec 7) (a : BitVec 7) (b : BitVec 7) : Encoding.Statement (.andn d a b) := ⟨Nat.lt_of_le_of_lt (Nat.add_le_add (Nat.add_le_add (Nat.add_le_add (Nat.le_refl _) (leField d 262144)) (leField a 2048)) (leField b 16)) (by decide), fun h => by cases h⟩
theorem Encoding.shl (d : BitVec 7) (a : BitVec 7) (b : BitVec 7) : Encoding.Statement (.shl d a b) := ⟨Nat.lt_of_le_of_lt (Nat.add_le_add (Nat.add_le_add (Nat.add_le_add (Nat.le_refl _) (leField d 262144)) (leField a 2048)) (leField b 16)) (by decide), fun h => by cases h⟩
theorem Encoding.shr (d : BitVec 7) (a : BitVec 7) (b : BitVec 7) : Encoding.Statement (.shr d a b) := ⟨Nat.lt_of_le_of_lt (Nat.add_le_add (Nat.add_le_add (Nat.add_le_add (Nat.le_refl _) (leField d 262144)) (leField a 2048)) (leField b 16)) (by decide), fun h => by cases h⟩
theorem Encoding.sra (d : BitVec 7) (a : BitVec 7) (b : BitVec 7) : Encoding.Statement (.sra d a b) := ⟨Nat.lt_of_le_of_lt (Nat.add_le_add (Nat.add_le_add (Nat.add_le_add (Nat.le_refl _) (leField d 262144)) (leField a 2048)) (leField b 16)) (by decide), fun h => by cases h⟩
theorem Encoding.rotr (d : BitVec 7) (a : BitVec 7) (b : BitVec 7) : Encoding.Statement (.rotr d a b) := ⟨Nat.lt_of_le_of_lt (Nat.add_le_add (Nat.add_le_add (Nat.add_le_add (Nat.le_refl _) (leField d 262144)) (leField a 2048)) (leField b 16)) (by decide), fun h => by cases h⟩
theorem Encoding.slt (d : BitVec 7) (a : BitVec 7) (b : BitVec 7) : Encoding.Statement (.slt d a b) := ⟨Nat.lt_of_le_of_lt (Nat.add_le_add (Nat.add_le_add (Nat.add_le_add (Nat.le_refl _) (leField d 262144)) (leField a 2048)) (leField b 16)) (by decide), fun h => by cases h⟩
theorem Encoding.sltu (d : BitVec 7) (a : BitVec 7) (b : BitVec 7) : Encoding.Statement (.sltu d a b) := ⟨Nat.lt_of_le_of_lt (Nat.add_le_add (Nat.add_le_add (Nat.add_le_add (Nat.le_refl _) (leField d 262144)) (leField a 2048)) (leField b 16)) (by decide), fun h => by cases h⟩
theorem Encoding.min (d : BitVec 7) (a : BitVec 7) (b : BitVec 7) : Encoding.Statement (.min d a b) := ⟨Nat.lt_of_le_of_lt (Nat.add_le_add (Nat.add_le_add (Nat.add_le_add (Nat.le_refl _) (leField d 262144)) (leField a 2048)) (leField b 16)) (by decide), fun h => by cases h⟩
theorem Encoding.max (d : BitVec 7) (a : BitVec 7) (b : BitVec 7) : Encoding.Statement (.max d a b) := ⟨Nat.lt_of_le_of_lt (Nat.add_le_add (Nat.add_le_add (Nat.add_le_add (Nat.le_refl _) (leField d 262144)) (leField a 2048)) (leField b 16)) (by decide), fun h => by cases h⟩
theorem Encoding.minu (d : BitVec 7) (a : BitVec 7) (b : BitVec 7) : Encoding.Statement (.minu d a b) := ⟨Nat.lt_of_le_of_lt (Nat.add_le_add (Nat.add_le_add (Nat.add_le_add (Nat.le_refl _) (leField d 262144)) (leField a 2048)) (leField b 16)) (by decide), fun h => by cases h⟩
theorem Encoding.maxu (d : BitVec 7) (a : BitVec 7) (b : BitVec 7) : Encoding.Statement (.maxu d a b) := ⟨Nat.lt_of_le_of_lt (Nat.add_le_add (Nat.add_le_add (Nat.add_le_add (Nat.le_refl _) (leField d 262144)) (leField a 2048)) (leField b 16)) (by decide), fun h => by cases h⟩
theorem Encoding.mul (d : BitVec 7) (a : BitVec 7) (b : BitVec 7) : Encoding.Statement (.mul d a b) := ⟨Nat.lt_of_le_of_lt (Nat.add_le_add (Nat.add_le_add (Nat.add_le_add (Nat.le_refl _) (leField d 262144)) (leField a 2048)) (leField b 16)) (by decide), fun h => by cases h⟩
theorem Encoding.mulh (d : BitVec 7) (a : BitVec 7) (b : BitVec 7) : Encoding.Statement (.mulh d a b) := ⟨Nat.lt_of_le_of_lt (Nat.add_le_add (Nat.add_le_add (Nat.add_le_add (Nat.le_refl _) (leField d 262144)) (leField a 2048)) (leField b 16)) (by decide), fun h => by cases h⟩
theorem Encoding.mulhu (d : BitVec 7) (a : BitVec 7) (b : BitVec 7) : Encoding.Statement (.mulhu d a b) := ⟨Nat.lt_of_le_of_lt (Nat.add_le_add (Nat.add_le_add (Nat.add_le_add (Nat.le_refl _) (leField d 262144)) (leField a 2048)) (leField b 16)) (by decide), fun h => by cases h⟩
theorem Encoding.div (d : BitVec 7) (a : BitVec 7) (b : BitVec 7) : Encoding.Statement (.div d a b) := ⟨Nat.lt_of_le_of_lt (Nat.add_le_add (Nat.add_le_add (Nat.add_le_add (Nat.le_refl _) (leField d 262144)) (leField a 2048)) (leField b 16)) (by decide), fun h => by cases h⟩
theorem Encoding.divu (d : BitVec 7) (a : BitVec 7) (b : BitVec 7) : Encoding.Statement (.divu d a b) := ⟨Nat.lt_of_le_of_lt (Nat.add_le_add (Nat.add_le_add (Nat.add_le_add (Nat.le_refl _) (leField d 262144)) (leField a 2048)) (leField b 16)) (by decide), fun h => by cases h⟩
theorem Encoding.rem (d : BitVec 7) (a : BitVec 7) (b : BitVec 7) : Encoding.Statement (.rem d a b) := ⟨Nat.lt_of_le_of_lt (Nat.add_le_add (Nat.add_le_add (Nat.add_le_add (Nat.le_refl _) (leField d 262144)) (leField a 2048)) (leField b 16)) (by decide), fun h => by cases h⟩
theorem Encoding.remu (d : BitVec 7) (a : BitVec 7) (b : BitVec 7) : Encoding.Statement (.remu d a b) := ⟨Nat.lt_of_le_of_lt (Nat.add_le_add (Nat.add_le_add (Nat.add_le_add (Nat.le_refl _) (leField d 262144)) (leField a 2048)) (leField b 16)) (by decide), fun h => by cases h⟩
theorem Encoding.clz (d : BitVec 7) (a : BitVec 7) : Encoding.Statement (.clz d a) := ⟨Nat.lt_of_le_of_lt (Nat.add_le_add (Nat.add_le_add (Nat.le_refl _) (leField d 262144)) (leField a 2048)) (by decide), fun h => by cases h⟩
theorem Encoding.ctz (d : BitVec 7) (a : BitVec 7) : Encoding.Statement (.ctz d a) := ⟨Nat.lt_of_le_of_lt (Nat.add_le_add (Nat.add_le_add (Nat.le_refl _) (leField d 262144)) (leField a 2048)) (by decide), fun h => by cases h⟩
theorem Encoding.popc (d : BitVec 7) (a : BitVec 7) : Encoding.Statement (.popc d a) := ⟨Nat.lt_of_le_of_lt (Nat.add_le_add (Nat.add_le_add (Nat.le_refl _) (leField d 262144)) (leField a 2048)) (by decide), fun h => by cases h⟩
theorem Encoding.sel (d : BitVec 7) (a : BitVec 7) (b : BitVec 7) : Encoding.Statement (.sel d a b) := ⟨Nat.lt_of_le_of_lt (Nat.add_le_add (Nat.add_le_add (Nat.add_le_add (Nat.le_refl _) (leField d 262144)) (leField a 2048)) (leField b 16)) (by decide), fun h => by cases h⟩
theorem Encoding.addi (d : BitVec 7) (a : BitVec 7) (i : BitVec 11) : Encoding.Statement (.addi d a i) := ⟨Nat.lt_of_le_of_lt (Nat.add_le_add (Nat.add_le_add (Nat.add_le_add (Nat.le_refl _) (leField d 262144)) (leField a 2048)) (leField1 i)) (by decide), fun h => by cases h⟩
theorem Encoding.andi (d : BitVec 7) (a : BitVec 7) (i : BitVec 11) : Encoding.Statement (.andi d a i) := ⟨Nat.lt_of_le_of_lt (Nat.add_le_add (Nat.add_le_add (Nat.add_le_add (Nat.le_refl _) (leField d 262144)) (leField a 2048)) (leField1 i)) (by decide), fun h => by cases h⟩
theorem Encoding.ori (d : BitVec 7) (a : BitVec 7) (i : BitVec 11) : Encoding.Statement (.ori d a i) := ⟨Nat.lt_of_le_of_lt (Nat.add_le_add (Nat.add_le_add (Nat.add_le_add (Nat.le_refl _) (leField d 262144)) (leField a 2048)) (leField1 i)) (by decide), fun h => by cases h⟩
theorem Encoding.xori (d : BitVec 7) (a : BitVec 7) (i : BitVec 11) : Encoding.Statement (.xori d a i) := ⟨Nat.lt_of_le_of_lt (Nat.add_le_add (Nat.add_le_add (Nat.add_le_add (Nat.le_refl _) (leField d 262144)) (leField a 2048)) (leField1 i)) (by decide), fun h => by cases h⟩
theorem Encoding.slti (d : BitVec 7) (a : BitVec 7) (i : BitVec 11) : Encoding.Statement (.slti d a i) := ⟨Nat.lt_of_le_of_lt (Nat.add_le_add (Nat.add_le_add (Nat.add_le_add (Nat.le_refl _) (leField d 262144)) (leField a 2048)) (leField1 i)) (by decide), fun h => by cases h⟩
theorem Encoding.shli (d : BitVec 6) (a : BitVec 6) (n : BitVec 6) : Encoding.Statement (.shli d a n) := ⟨Nat.lt_of_le_of_lt (Nat.add_le_add (Nat.add_le_add (Nat.add_le_add (Nat.le_refl _) (leField d 262144)) (leField a 2048)) (leField1 n)) (by decide), fun h => by cases h⟩
theorem Encoding.shri (d : BitVec 6) (a : BitVec 6) (n : BitVec 6) : Encoding.Statement (.shri d a n) := ⟨Nat.lt_of_le_of_lt (Nat.add_le_add (Nat.add_le_add (Nat.add_le_add (Nat.le_refl _) (leField d 262144)) (leField a 2048)) (leField1 n)) (by decide), fun h => by cases h⟩
theorem Encoding.srai (d : BitVec 6) (a : BitVec 6) (n : BitVec 6) : Encoding.Statement (.srai d a n) := ⟨Nat.lt_of_le_of_lt (Nat.add_le_add (Nat.add_le_add (Nat.add_le_add (Nat.le_refl _) (leField d 262144)) (leField a 2048)) (leField1 n)) (by decide), fun h => by cases h⟩
theorem Encoding.movi (d : BitVec 7) (i : BitVec 18) : Encoding.Statement (.movi d i) := ⟨Nat.lt_of_le_of_lt (Nat.add_le_add (Nat.add_le_add (Nat.le_refl _) (leField d 262144)) (leField1 i)) (by decide), fun h => by cases h⟩
theorem Encoding.movhi (d : BitVec 6) (i : BitVec 18) : Encoding.Statement (.movhi d i) := ⟨Nat.lt_of_le_of_lt (Nat.add_le_add (Nat.add_le_add (Nat.le_refl _) (leField d 262144)) (leField1 i)) (by decide), fun h => by cases h⟩
theorem Encoding.addpc (d : BitVec 6) (i : BitVec 18) : Encoding.Statement (.addpc d i) := ⟨Nat.lt_of_le_of_lt (Nat.add_le_add (Nat.add_le_add (Nat.le_refl _) (leField d 262144)) (leField1 i)) (by decide), fun h => by cases h⟩
theorem Encoding.ldb (d : BitVec 6) (a : BitVec 6) (i : BitVec 11) : Encoding.Statement (.ldb d a i) := ⟨Nat.lt_of_le_of_lt (Nat.add_le_add (Nat.add_le_add (Nat.add_le_add (Nat.le_refl _) (leField d 262144)) (leField a 2048)) (leField1 i)) (by decide), fun h => by cases h⟩
theorem Encoding.ldbu (d : BitVec 6) (a : BitVec 6) (i : BitVec 11) : Encoding.Statement (.ldbu d a i) := ⟨Nat.lt_of_le_of_lt (Nat.add_le_add (Nat.add_le_add (Nat.add_le_add (Nat.le_refl _) (leField d 262144)) (leField a 2048)) (leField1 i)) (by decide), fun h => by cases h⟩
theorem Encoding.ldh (d : BitVec 6) (a : BitVec 6) (i : BitVec 11) : Encoding.Statement (.ldh d a i) := ⟨Nat.lt_of_le_of_lt (Nat.add_le_add (Nat.add_le_add (Nat.add_le_add (Nat.le_refl _) (leField d 262144)) (leField a 2048)) (leField1 i)) (by decide), fun h => by cases h⟩
theorem Encoding.ldhu (d : BitVec 6) (a : BitVec 6) (i : BitVec 11) : Encoding.Statement (.ldhu d a i) := ⟨Nat.lt_of_le_of_lt (Nat.add_le_add (Nat.add_le_add (Nat.add_le_add (Nat.le_refl _) (leField d 262144)) (leField a 2048)) (leField1 i)) (by decide), fun h => by cases h⟩
theorem Encoding.ldw (d : BitVec 6) (a : BitVec 6) (i : BitVec 11) : Encoding.Statement (.ldw d a i) := ⟨Nat.lt_of_le_of_lt (Nat.add_le_add (Nat.add_le_add (Nat.add_le_add (Nat.le_refl _) (leField d 262144)) (leField a 2048)) (leField1 i)) (by decide), fun h => by cases h⟩
theorem Encoding.ldwu (d : BitVec 6) (a : BitVec 6) (i : BitVec 11) : Encoding.Statement (.ldwu d a i) := ⟨Nat.lt_of_le_of_lt (Nat.add_le_add (Nat.add_le_add (Nat.add_le_add (Nat.le_refl _) (leField d 262144)) (leField a 2048)) (leField1 i)) (by decide), fun h => by cases h⟩
theorem Encoding.ldd (d : BitVec 6) (a : BitVec 6) (i : BitVec 11) : Encoding.Statement (.ldd d a i) := ⟨Nat.lt_of_le_of_lt (Nat.add_le_add (Nat.add_le_add (Nat.add_le_add (Nat.le_refl _) (leField d 262144)) (leField a 2048)) (leField1 i)) (by decide), fun h => by cases h⟩
theorem Encoding.ldp (d : BitVec 6) (a : BitVec 6) (i : BitVec 11) : Encoding.Statement (.ldp d a i) := ⟨Nat.lt_of_le_of_lt (Nat.add_le_add (Nat.add_le_add (Nat.add_le_add (Nat.le_refl _) (leField d 262144)) (leField a 2048)) (leField1 i)) (by decide), fun h => by cases h⟩
theorem Encoding.stb (d : BitVec 6) (a : BitVec 6) (i : BitVec 11) : Encoding.Statement (.stb d a i) := ⟨Nat.lt_of_le_of_lt (Nat.add_le_add (Nat.add_le_add (Nat.add_le_add (Nat.le_refl _) (leField d 262144)) (leField a 2048)) (leField1 i)) (by decide), fun h => by cases h⟩
theorem Encoding.sth (d : BitVec 6) (a : BitVec 6) (i : BitVec 11) : Encoding.Statement (.sth d a i) := ⟨Nat.lt_of_le_of_lt (Nat.add_le_add (Nat.add_le_add (Nat.add_le_add (Nat.le_refl _) (leField d 262144)) (leField a 2048)) (leField1 i)) (by decide), fun h => by cases h⟩
theorem Encoding.stw (d : BitVec 6) (a : BitVec 6) (i : BitVec 11) : Encoding.Statement (.stw d a i) := ⟨Nat.lt_of_le_of_lt (Nat.add_le_add (Nat.add_le_add (Nat.add_le_add (Nat.le_refl _) (leField d 262144)) (leField a 2048)) (leField1 i)) (by decide), fun h => by cases h⟩
theorem Encoding.std (d : BitVec 6) (a : BitVec 6) (i : BitVec 11) : Encoding.Statement (.std d a i) := ⟨Nat.lt_of_le_of_lt (Nat.add_le_add (Nat.add_le_add (Nat.add_le_add (Nat.le_refl _) (leField d 262144)) (leField a 2048)) (leField1 i)) (by decide), fun h => by cases h⟩
theorem Encoding.stp (d : BitVec 6) (a : BitVec 6) (i : BitVec 11) : Encoding.Statement (.stp d a i) := ⟨Nat.lt_of_le_of_lt (Nat.add_le_add (Nat.add_le_add (Nat.add_le_add (Nat.le_refl _) (leField d 262144)) (leField a 2048)) (leField1 i)) (by decide), fun h => by cases h⟩
theorem Encoding.beq (a : BitVec 6) (b : BitVec 6) (j : BitVec 11) : Encoding.Statement (.beq a b j) := ⟨Nat.lt_of_le_of_lt (Nat.add_le_add (Nat.add_le_add (Nat.add_le_add (Nat.le_refl _) (leField a 262144)) (leField b 2048)) (leField1 j)) (by decide), fun h => by cases h⟩
theorem Encoding.bne (a : BitVec 6) (b : BitVec 6) (j : BitVec 11) : Encoding.Statement (.bne a b j) := ⟨Nat.lt_of_le_of_lt (Nat.add_le_add (Nat.add_le_add (Nat.add_le_add (Nat.le_refl _) (leField a 262144)) (leField b 2048)) (leField1 j)) (by decide), fun h => by cases h⟩
theorem Encoding.blt (a : BitVec 6) (b : BitVec 6) (j : BitVec 11) : Encoding.Statement (.blt a b j) := ⟨Nat.lt_of_le_of_lt (Nat.add_le_add (Nat.add_le_add (Nat.add_le_add (Nat.le_refl _) (leField a 262144)) (leField b 2048)) (leField1 j)) (by decide), fun h => by cases h⟩
theorem Encoding.bge (a : BitVec 6) (b : BitVec 6) (j : BitVec 11) : Encoding.Statement (.bge a b j) := ⟨Nat.lt_of_le_of_lt (Nat.add_le_add (Nat.add_le_add (Nat.add_le_add (Nat.le_refl _) (leField a 262144)) (leField b 2048)) (leField1 j)) (by decide), fun h => by cases h⟩
theorem Encoding.bltu (a : BitVec 6) (b : BitVec 6) (j : BitVec 11) : Encoding.Statement (.bltu a b j) := ⟨Nat.lt_of_le_of_lt (Nat.add_le_add (Nat.add_le_add (Nat.add_le_add (Nat.le_refl _) (leField a 262144)) (leField b 2048)) (leField1 j)) (by decide), fun h => by cases h⟩
theorem Encoding.bgeu (a : BitVec 6) (b : BitVec 6) (j : BitVec 11) : Encoding.Statement (.bgeu a b j) := ⟨Nat.lt_of_le_of_lt (Nat.add_le_add (Nat.add_le_add (Nat.add_le_add (Nat.le_refl _) (leField a 262144)) (leField b 2048)) (leField1 j)) (by decide), fun h => by cases h⟩
theorem Encoding.loop (a : BitVec 6) (j : BitVec 11) : Encoding.Statement (.loop a j) := ⟨Nat.lt_of_le_of_lt (Nat.add_le_add (Nat.add_le_add (Nat.le_refl _) (leField a 262144)) (leField1 j)) (by decide), fun h => by cases h⟩
theorem Encoding.loopi (n : BitVec 12) (j : BitVec 11) : Encoding.Statement (.loopi n j) := ⟨by change 587333632 + n.toNat / 64 % 64 * 262144 + n.toNat % 64 * 2048 + j.toNat < 2952790016; omega, fun h => by cases h⟩
theorem Encoding.j (j : BitVec 25) : Encoding.Statement (.j j) := ⟨Nat.lt_of_le_of_lt (Nat.add_le_add (Nat.le_refl _) (leField1 j)) (by decide), fun h => by cases h⟩
theorem Encoding.jal (d : BitVec 6) (i : BitVec 18) : Encoding.Statement (.jal d i) := ⟨Nat.lt_of_le_of_lt (Nat.add_le_add (Nat.add_le_add (Nat.le_refl _) (leField d 262144)) (leField1 i)) (by decide), fun h => by cases h⟩
theorem Encoding.jalr (d : BitVec 6) (a : BitVec 6) (i : BitVec 11) : Encoding.Statement (.jalr d a i) := ⟨Nat.lt_of_le_of_lt (Nat.add_le_add (Nat.add_le_add (Nat.add_le_add (Nat.le_refl _) (leField d 262144)) (leField a 2048)) (leField1 i)) (by decide), fun h => by cases h⟩
theorem Encoding.csrr (d : BitVec 7) (c : BitVec 12) : Encoding.Statement (.csrr d c) := ⟨Nat.lt_of_le_of_lt (Nat.add_le_add (Nat.add_le_add (Nat.le_refl _) (leField d 262144)) (leField c 64)) (by decide), fun h => by cases h⟩
theorem Encoding.csrw (d : BitVec 7) (c : BitVec 12) : Encoding.Statement (.csrw d c) := ⟨Nat.lt_of_le_of_lt (Nat.add_le_add (Nat.add_le_add (Nat.le_refl _) (leField d 262144)) (leField c 64)) (by decide), fun h => by cases h⟩
theorem Encoding.csrs (d : BitVec 7) (c : BitVec 12) : Encoding.Statement (.csrs d c) := ⟨Nat.lt_of_le_of_lt (Nat.add_le_add (Nat.add_le_add (Nat.le_refl _) (leField d 262144)) (leField c 64)) (by decide), fun h => by cases h⟩
theorem Encoding.csrc (d : BitVec 7) (c : BitVec 12) : Encoding.Statement (.csrc d c) := ⟨Nat.lt_of_le_of_lt (Nat.add_le_add (Nat.add_le_add (Nat.le_refl _) (leField d 262144)) (leField c 64)) (by decide), fun h => by cases h⟩
theorem Encoding.wbase (i : BitVec 11) : Encoding.Statement (.wbase i) := ⟨Nat.lt_of_le_of_lt (Nat.add_le_add (Nat.le_refl _) (leField1 i)) (by decide), fun h => by cases h⟩
theorem Encoding.mark (i : BitVec 16) : Encoding.Statement (.mark i) := ⟨Nat.lt_of_le_of_lt (Nat.add_le_add (Nat.le_refl _) (leField1 i)) (by decide), fun h => by cases h⟩
theorem Encoding.trap (c : BitVec 12) : Encoding.Statement (.trap c) := ⟨Nat.lt_of_le_of_lt (Nat.add_le_add (Nat.le_refl _) (leField c 64)) (by decide), fun h => by cases h⟩
theorem Encoding.eret : Encoding.Statement (.eret ) := ⟨Nat.lt_of_le_of_lt (Nat.le_refl _) (by decide), fun h => by cases h⟩
theorem Encoding.yield : Encoding.Statement (.yield ) := ⟨Nat.lt_of_le_of_lt (Nat.le_refl _) (by decide), fun h => by cases h⟩
theorem Encoding.park (n : BitVec 12) : Encoding.Statement (.park n) := ⟨Nat.lt_of_le_of_lt (Nat.add_le_add (Nat.le_refl _) (leField n 64)) (by decide), fun h => by cases h⟩
theorem Encoding.ozhash (d : BitVec 7) : Encoding.Statement (.ozhash d) := ⟨Nat.lt_of_le_of_lt (Nat.add_le_add (Nat.le_refl _) (leField d 262144)) (by decide), fun h => by cases h⟩
theorem Encoding.ozvrfy (d : BitVec 7) : Encoding.Statement (.ozvrfy d) := ⟨Nat.lt_of_le_of_lt (Nat.add_le_add (Nat.le_refl _) (leField d 262144)) (by decide), fun h => by cases h⟩
theorem Encoding.ozsign (d : BitVec 7) : Encoding.Statement (.ozsign d) := ⟨Nat.lt_of_le_of_lt (Nat.add_le_add (Nat.le_refl _) (leField d 262144)) (by decide), fun h => by cases h⟩
theorem Encoding.ozkdf (d : BitVec 7) : Encoding.Statement (.ozkdf d) := ⟨Nat.lt_of_le_of_lt (Nat.add_le_add (Nat.le_refl _) (leField d 262144)) (by decide), fun h => by cases h⟩
theorem Encoding.ozrand (d : BitVec 7) : Encoding.Statement (.ozrand d) := ⟨Nat.lt_of_le_of_lt (Nat.add_le_add (Nat.le_refl _) (leField d 262144)) (by decide), fun h => by cases h⟩
theorem Encoding.ozwipe (d : BitVec 7) : Encoding.Statement (.ozwipe d) := ⟨Nat.lt_of_le_of_lt (Nat.add_le_add (Nat.le_refl _) (leField d 262144)) (by decide), fun h => by cases h⟩
theorem Encoding.amoadd (sc : BitVec 3) (d : BitVec 6) (a : BitVec 6) (b : BitVec 6) : Encoding.Statement (.amoadd sc d a b) := ⟨by change 805306368 + sc.toNat / 4 % 2 * 16777216 + sc.toNat / 2 % 2 * 131072 + sc.toNat % 2 * 1024 + d.toNat * 262144 + a.toNat * 2048 + b.toNat * 16 < 2952790016; omega, fun h => by cases h⟩
theorem Encoding.amoand (sc : BitVec 3) (d : BitVec 6) (a : BitVec 6) (b : BitVec 6) : Encoding.Statement (.amoand sc d a b) := ⟨by change 805306369 + sc.toNat / 4 % 2 * 16777216 + sc.toNat / 2 % 2 * 131072 + sc.toNat % 2 * 1024 + d.toNat * 262144 + a.toNat * 2048 + b.toNat * 16 < 2952790016; omega, fun h => by cases h⟩
theorem Encoding.amoor (sc : BitVec 3) (d : BitVec 6) (a : BitVec 6) (b : BitVec 6) : Encoding.Statement (.amoor sc d a b) := ⟨by change 805306370 + sc.toNat / 4 % 2 * 16777216 + sc.toNat / 2 % 2 * 131072 + sc.toNat % 2 * 1024 + d.toNat * 262144 + a.toNat * 2048 + b.toNat * 16 < 2952790016; omega, fun h => by cases h⟩
theorem Encoding.amoxor (sc : BitVec 3) (d : BitVec 6) (a : BitVec 6) (b : BitVec 6) : Encoding.Statement (.amoxor sc d a b) := ⟨by change 805306371 + sc.toNat / 4 % 2 * 16777216 + sc.toNat / 2 % 2 * 131072 + sc.toNat % 2 * 1024 + d.toNat * 262144 + a.toNat * 2048 + b.toNat * 16 < 2952790016; omega, fun h => by cases h⟩
theorem Encoding.amomin (sc : BitVec 3) (d : BitVec 6) (a : BitVec 6) (b : BitVec 6) : Encoding.Statement (.amomin sc d a b) := ⟨by change 805306372 + sc.toNat / 4 % 2 * 16777216 + sc.toNat / 2 % 2 * 131072 + sc.toNat % 2 * 1024 + d.toNat * 262144 + a.toNat * 2048 + b.toNat * 16 < 2952790016; omega, fun h => by cases h⟩
theorem Encoding.amomax (sc : BitVec 3) (d : BitVec 6) (a : BitVec 6) (b : BitVec 6) : Encoding.Statement (.amomax sc d a b) := ⟨by change 805306373 + sc.toNat / 4 % 2 * 16777216 + sc.toNat / 2 % 2 * 131072 + sc.toNat % 2 * 1024 + d.toNat * 262144 + a.toNat * 2048 + b.toNat * 16 < 2952790016; omega, fun h => by cases h⟩
theorem Encoding.amominu (sc : BitVec 3) (d : BitVec 6) (a : BitVec 6) (b : BitVec 6) : Encoding.Statement (.amominu sc d a b) := ⟨by change 805306374 + sc.toNat / 4 % 2 * 16777216 + sc.toNat / 2 % 2 * 131072 + sc.toNat % 2 * 1024 + d.toNat * 262144 + a.toNat * 2048 + b.toNat * 16 < 2952790016; omega, fun h => by cases h⟩
theorem Encoding.amomaxu (sc : BitVec 3) (d : BitVec 6) (a : BitVec 6) (b : BitVec 6) : Encoding.Statement (.amomaxu sc d a b) := ⟨by change 805306375 + sc.toNat / 4 % 2 * 16777216 + sc.toNat / 2 % 2 * 131072 + sc.toNat % 2 * 1024 + d.toNat * 262144 + a.toNat * 2048 + b.toNat * 16 < 2952790016; omega, fun h => by cases h⟩
theorem Encoding.amoswap (sc : BitVec 3) (d : BitVec 6) (a : BitVec 6) (b : BitVec 6) : Encoding.Statement (.amoswap sc d a b) := ⟨by change 805306376 + sc.toNat / 4 % 2 * 16777216 + sc.toNat / 2 % 2 * 131072 + sc.toNat % 2 * 1024 + d.toNat * 262144 + a.toNat * 2048 + b.toNat * 16 < 2952790016; omega, fun h => by cases h⟩
theorem Encoding.amoadd32 (sc : BitVec 3) (d : BitVec 6) (a : BitVec 6) (b : BitVec 6) : Encoding.Statement (.amoadd32 sc d a b) := ⟨by change 838860800 + sc.toNat / 4 % 2 * 16777216 + sc.toNat / 2 % 2 * 131072 + sc.toNat % 2 * 1024 + d.toNat * 262144 + a.toNat * 2048 + b.toNat * 16 < 2952790016; omega, fun h => by cases h⟩
theorem Encoding.amoand32 (sc : BitVec 3) (d : BitVec 6) (a : BitVec 6) (b : BitVec 6) : Encoding.Statement (.amoand32 sc d a b) := ⟨by change 838860801 + sc.toNat / 4 % 2 * 16777216 + sc.toNat / 2 % 2 * 131072 + sc.toNat % 2 * 1024 + d.toNat * 262144 + a.toNat * 2048 + b.toNat * 16 < 2952790016; omega, fun h => by cases h⟩
theorem Encoding.amoor32 (sc : BitVec 3) (d : BitVec 6) (a : BitVec 6) (b : BitVec 6) : Encoding.Statement (.amoor32 sc d a b) := ⟨by change 838860802 + sc.toNat / 4 % 2 * 16777216 + sc.toNat / 2 % 2 * 131072 + sc.toNat % 2 * 1024 + d.toNat * 262144 + a.toNat * 2048 + b.toNat * 16 < 2952790016; omega, fun h => by cases h⟩
theorem Encoding.amoxor32 (sc : BitVec 3) (d : BitVec 6) (a : BitVec 6) (b : BitVec 6) : Encoding.Statement (.amoxor32 sc d a b) := ⟨by change 838860803 + sc.toNat / 4 % 2 * 16777216 + sc.toNat / 2 % 2 * 131072 + sc.toNat % 2 * 1024 + d.toNat * 262144 + a.toNat * 2048 + b.toNat * 16 < 2952790016; omega, fun h => by cases h⟩
theorem Encoding.amomin32 (sc : BitVec 3) (d : BitVec 6) (a : BitVec 6) (b : BitVec 6) : Encoding.Statement (.amomin32 sc d a b) := ⟨by change 838860804 + sc.toNat / 4 % 2 * 16777216 + sc.toNat / 2 % 2 * 131072 + sc.toNat % 2 * 1024 + d.toNat * 262144 + a.toNat * 2048 + b.toNat * 16 < 2952790016; omega, fun h => by cases h⟩
theorem Encoding.amomax32 (sc : BitVec 3) (d : BitVec 6) (a : BitVec 6) (b : BitVec 6) : Encoding.Statement (.amomax32 sc d a b) := ⟨by change 838860805 + sc.toNat / 4 % 2 * 16777216 + sc.toNat / 2 % 2 * 131072 + sc.toNat % 2 * 1024 + d.toNat * 262144 + a.toNat * 2048 + b.toNat * 16 < 2952790016; omega, fun h => by cases h⟩
theorem Encoding.amominu32 (sc : BitVec 3) (d : BitVec 6) (a : BitVec 6) (b : BitVec 6) : Encoding.Statement (.amominu32 sc d a b) := ⟨by change 838860806 + sc.toNat / 4 % 2 * 16777216 + sc.toNat / 2 % 2 * 131072 + sc.toNat % 2 * 1024 + d.toNat * 262144 + a.toNat * 2048 + b.toNat * 16 < 2952790016; omega, fun h => by cases h⟩
theorem Encoding.amomaxu32 (sc : BitVec 3) (d : BitVec 6) (a : BitVec 6) (b : BitVec 6) : Encoding.Statement (.amomaxu32 sc d a b) := ⟨by change 838860807 + sc.toNat / 4 % 2 * 16777216 + sc.toNat / 2 % 2 * 131072 + sc.toNat % 2 * 1024 + d.toNat * 262144 + a.toNat * 2048 + b.toNat * 16 < 2952790016; omega, fun h => by cases h⟩
theorem Encoding.amoswap32 (sc : BitVec 3) (d : BitVec 6) (a : BitVec 6) (b : BitVec 6) : Encoding.Statement (.amoswap32 sc d a b) := ⟨by change 838860808 + sc.toNat / 4 % 2 * 16777216 + sc.toNat / 2 % 2 * 131072 + sc.toNat % 2 * 1024 + d.toNat * 262144 + a.toNat * 2048 + b.toNat * 16 < 2952790016; omega, fun h => by cases h⟩
theorem Encoding.cas (sc : BitVec 3) (d : BitVec 6) (a : BitVec 6) (b : BitVec 6) : Encoding.Statement (.cas sc d a b) := ⟨by change 872415232 + sc.toNat / 4 % 2 * 16777216 + sc.toNat / 2 % 2 * 131072 + sc.toNat % 2 * 1024 + d.toNat * 262144 + a.toNat * 2048 + b.toNat * 16 < 2952790016; omega, fun h => by cases h⟩
theorem Encoding.casp (sc : BitVec 3) (d : BitVec 6) (a : BitVec 6) (b : BitVec 6) : Encoding.Statement (.casp sc d a b) := ⟨by change 872415233 + sc.toNat / 4 % 2 * 16777216 + sc.toNat / 2 % 2 * 131072 + sc.toNat % 2 * 1024 + d.toNat * 262144 + a.toNat * 2048 + b.toNat * 16 < 2952790016; omega, fun h => by cases h⟩
theorem Encoding.lda (d : BitVec 6) (a : BitVec 6) (sc : BitVec 3) (w4 : Bool) (o : BitVec 7) : Encoding.Statement (.lda d a sc w4 o) := ⟨Nat.lt_of_le_of_lt (Nat.add_le_add (Nat.add_le_add (Nat.add_le_add (Nat.add_le_add (Nat.add_le_add (Nat.le_refl _) (leField d 262144)) (leField a 2048)) (leField sc 256)) (leBit w4 128)) (leField1 o)) (by decide), fun h => by cases h⟩
theorem Encoding.stl (d : BitVec 6) (a : BitVec 6) (sc : BitVec 3) (w4 : Bool) (o : BitVec 7) : Encoding.Statement (.stl d a sc w4 o) := ⟨Nat.lt_of_le_of_lt (Nat.add_le_add (Nat.add_le_add (Nat.add_le_add (Nat.add_le_add (Nat.add_le_add (Nat.le_refl _) (leField d 262144)) (leField a 2048)) (leField sc 256)) (leBit w4 128)) (leField1 o)) (by decide), fun h => by cases h⟩
theorem Encoding.fence (sc : BitVec 3) : Encoding.Statement (.fence sc) := ⟨Nat.lt_of_le_of_lt (Nat.add_le_add (Nat.le_refl _) (leField sc 8)) (by decide), fun h => by cases h⟩
theorem Encoding.fenceSv (sc : BitVec 3) : Encoding.Statement (.fenceSv sc) := ⟨Nat.lt_of_le_of_lt (Nat.add_le_add (Nat.le_refl _) (leField sc 8)) (by decide), fun h => by cases h⟩
theorem Encoding.fenceVs (sc : BitVec 3) : Encoding.Statement (.fenceVs sc) := ⟨Nat.lt_of_le_of_lt (Nat.add_le_add (Nat.le_refl _) (leField sc 8)) (by decide), fun h => by cases h⟩
theorem Encoding.fenceVv (sc : BitVec 3) : Encoding.Statement (.fenceVv sc) := ⟨Nat.lt_of_le_of_lt (Nat.add_le_add (Nat.le_refl _) (leField sc 8)) (by decide), fun h => by cases h⟩
theorem Encoding.monarm (a : BitVec 7) : Encoding.Statement (.monarm a) := ⟨Nat.lt_of_le_of_lt (Nat.add_le_add (Nat.le_refl _) (leField a 2048)) (by decide), fun h => by cases h⟩
theorem Encoding.monwait (d : BitVec 7) (b : BitVec 7) : Encoding.Statement (.monwait d b) := ⟨Nat.lt_of_le_of_lt (Nat.add_le_add (Nat.add_le_add (Nat.le_refl _) (leField d 262144)) (leField b 16)) (by decide), fun h => by cases h⟩
theorem Encoding.cwb (a : BitVec 7) (b : BitVec 7) : Encoding.Statement (.cwb a b) := ⟨Nat.lt_of_le_of_lt (Nat.add_le_add (Nat.add_le_add (Nat.le_refl _) (leField a 2048)) (leField b 16)) (by decide), fun h => by cases h⟩
theorem Encoding.cinv (a : BitVec 7) (b : BitVec 7) : Encoding.Statement (.cinv a b) := ⟨Nat.lt_of_le_of_lt (Nat.add_le_add (Nat.add_le_add (Nat.le_refl _) (leField a 2048)) (leField b 16)) (by decide), fun h => by cases h⟩
theorem Encoding.cflush (a : BitVec 7) (b : BitVec 7) : Encoding.Statement (.cflush a b) := ⟨Nat.lt_of_le_of_lt (Nat.add_le_add (Nat.add_le_add (Nat.le_refl _) (leField a 2048)) (leField b 16)) (by decide), fun h => by cases h⟩
theorem Encoding.vsettype (d : BitVec 7) (v : BitVec 13) : Encoding.Statement (.vsettype d v) := ⟨Nat.lt_of_le_of_lt (Nat.add_le_add (Nat.add_le_add (Nat.le_refl _) (leField d 262144)) (leField v 16)) (by decide), fun h => by cases h⟩
theorem Encoding.vsetshape (d : BitVec 7) (a : BitVec 7) (b : BitVec 7) : Encoding.Statement (.vsetshape d a b) := ⟨Nat.lt_of_le_of_lt (Nat.add_le_add (Nat.add_le_add (Nat.add_le_add (Nat.le_refl _) (leField d 262144)) (leField a 2048)) (leField b 16)) (by decide), fun h => by cases h⟩
theorem Encoding.vsetl (d : BitVec 7) (a : BitVec 7) : Encoding.Statement (.vsetl d a) := ⟨Nat.lt_of_le_of_lt (Nat.add_le_add (Nat.add_le_add (Nat.le_refl _) (leField d 262144)) (leField a 2048)) (by decide), fun h => by cases h⟩
theorem Encoding.vlq (d : BitVec 7) : Encoding.Statement (.vlq d) := ⟨Nat.lt_of_le_of_lt (Nat.add_le_add (Nat.le_refl _) (leField d 262144)) (by decide), fun h => by cases h⟩
theorem Encoding.vadd (d : BitVec 7) (a : BitVec 7) (b : BitVec 7) (m : Bool) : Encoding.Statement (.vadd d a b m) := ⟨Nat.lt_of_le_of_lt (Nat.add_le_add (Nat.add_le_add (Nat.add_le_add (Nat.add_le_add (Nat.le_refl _) (leField d 262144)) (leField a 2048)) (leField b 16)) (leBit m 8)) (by decide), fun h => by cases h⟩
theorem Encoding.vsub (d : BitVec 7) (a : BitVec 7) (b : BitVec 7) (m : Bool) : Encoding.Statement (.vsub d a b m) := ⟨Nat.lt_of_le_of_lt (Nat.add_le_add (Nat.add_le_add (Nat.add_le_add (Nat.add_le_add (Nat.le_refl _) (leField d 262144)) (leField a 2048)) (leField b 16)) (leBit m 8)) (by decide), fun h => by cases h⟩
theorem Encoding.vmul (d : BitVec 7) (a : BitVec 7) (b : BitVec 7) (m : Bool) : Encoding.Statement (.vmul d a b m) := ⟨Nat.lt_of_le_of_lt (Nat.add_le_add (Nat.add_le_add (Nat.add_le_add (Nat.add_le_add (Nat.le_refl _) (leField d 262144)) (leField a 2048)) (leField b 16)) (leBit m 8)) (by decide), fun h => by cases h⟩
theorem Encoding.vmulh (d : BitVec 7) (a : BitVec 7) (b : BitVec 7) (m : Bool) : Encoding.Statement (.vmulh d a b m) := ⟨Nat.lt_of_le_of_lt (Nat.add_le_add (Nat.add_le_add (Nat.add_le_add (Nat.add_le_add (Nat.le_refl _) (leField d 262144)) (leField a 2048)) (leField b 16)) (leBit m 8)) (by decide), fun h => by cases h⟩
theorem Encoding.vmadd (d : BitVec 7) (a : BitVec 7) (b : BitVec 7) (m : Bool) : Encoding.Statement (.vmadd d a b m) := ⟨Nat.lt_of_le_of_lt (Nat.add_le_add (Nat.add_le_add (Nat.add_le_add (Nat.add_le_add (Nat.le_refl _) (leField d 262144)) (leField a 2048)) (leField b 16)) (leBit m 8)) (by decide), fun h => by cases h⟩
theorem Encoding.vmin (d : BitVec 7) (a : BitVec 7) (b : BitVec 7) (m : Bool) : Encoding.Statement (.vmin d a b m) := ⟨Nat.lt_of_le_of_lt (Nat.add_le_add (Nat.add_le_add (Nat.add_le_add (Nat.add_le_add (Nat.le_refl _) (leField d 262144)) (leField a 2048)) (leField b 16)) (leBit m 8)) (by decide), fun h => by cases h⟩
theorem Encoding.vmax (d : BitVec 7) (a : BitVec 7) (b : BitVec 7) (m : Bool) : Encoding.Statement (.vmax d a b m) := ⟨Nat.lt_of_le_of_lt (Nat.add_le_add (Nat.add_le_add (Nat.add_le_add (Nat.add_le_add (Nat.le_refl _) (leField d 262144)) (leField a 2048)) (leField b 16)) (leBit m 8)) (by decide), fun h => by cases h⟩
theorem Encoding.vabsd (d : BitVec 7) (a : BitVec 7) (b : BitVec 7) (m : Bool) : Encoding.Statement (.vabsd d a b m) := ⟨Nat.lt_of_le_of_lt (Nat.add_le_add (Nat.add_le_add (Nat.add_le_add (Nat.add_le_add (Nat.le_refl _) (leField d 262144)) (leField a 2048)) (leField b 16)) (leBit m 8)) (by decide), fun h => by cases h⟩
theorem Encoding.vminu (d : BitVec 7) (a : BitVec 7) (b : BitVec 7) (m : Bool) : Encoding.Statement (.vminu d a b m) := ⟨Nat.lt_of_le_of_lt (Nat.add_le_add (Nat.add_le_add (Nat.add_le_add (Nat.add_le_add (Nat.le_refl _) (leField d 262144)) (leField a 2048)) (leField b 16)) (leBit m 8)) (by decide), fun h => by cases h⟩
theorem Encoding.vmaxu (d : BitVec 7) (a : BitVec 7) (b : BitVec 7) (m : Bool) : Encoding.Statement (.vmaxu d a b m) := ⟨Nat.lt_of_le_of_lt (Nat.add_le_add (Nat.add_le_add (Nat.add_le_add (Nat.add_le_add (Nat.le_refl _) (leField d 262144)) (leField a 2048)) (leField b 16)) (leBit m 8)) (by decide), fun h => by cases h⟩
theorem Encoding.vadds (d : BitVec 7) (a : BitVec 7) (b : BitVec 7) (m : Bool) : Encoding.Statement (.vadds d a b m) := ⟨Nat.lt_of_le_of_lt (Nat.add_le_add (Nat.add_le_add (Nat.add_le_add (Nat.add_le_add (Nat.le_refl _) (leField d 262144)) (leField a 2048)) (leField b 16)) (leBit m 8)) (by decide), fun h => by cases h⟩
theorem Encoding.vsubs (d : BitVec 7) (a : BitVec 7) (b : BitVec 7) (m : Bool) : Encoding.Statement (.vsubs d a b m) := ⟨Nat.lt_of_le_of_lt (Nat.add_le_add (Nat.add_le_add (Nat.add_le_add (Nat.add_le_add (Nat.le_refl _) (leField d 262144)) (leField a 2048)) (leField b 16)) (leBit m 8)) (by decide), fun h => by cases h⟩
theorem Encoding.vavg (d : BitVec 7) (a : BitVec 7) (b : BitVec 7) (m : Bool) : Encoding.Statement (.vavg d a b m) := ⟨Nat.lt_of_le_of_lt (Nat.add_le_add (Nat.add_le_add (Nat.add_le_add (Nat.add_le_add (Nat.le_refl _) (leField d 262144)) (leField a 2048)) (leField b 16)) (leBit m 8)) (by decide), fun h => by cases h⟩
theorem Encoding.vshl (d : BitVec 7) (a : BitVec 7) (b : BitVec 7) (m : Bool) : Encoding.Statement (.vshl d a b m) := ⟨Nat.lt_of_le_of_lt (Nat.add_le_add (Nat.add_le_add (Nat.add_le_add (Nat.add_le_add (Nat.le_refl _) (leField d 262144)) (leField a 2048)) (leField b 16)) (leBit m 8)) (by decide), fun h => by cases h⟩
theorem Encoding.vshr (d : BitVec 7) (a : BitVec 7) (b : BitVec 7) (m : Bool) : Encoding.Statement (.vshr d a b m) := ⟨Nat.lt_of_le_of_lt (Nat.add_le_add (Nat.add_le_add (Nat.add_le_add (Nat.add_le_add (Nat.le_refl _) (leField d 262144)) (leField a 2048)) (leField b 16)) (leBit m 8)) (by decide), fun h => by cases h⟩
theorem Encoding.vsra (d : BitVec 7) (a : BitVec 7) (b : BitVec 7) (m : Bool) : Encoding.Statement (.vsra d a b m) := ⟨Nat.lt_of_le_of_lt (Nat.add_le_add (Nat.add_le_add (Nat.add_le_add (Nat.add_le_add (Nat.le_refl _) (leField d 262144)) (leField a 2048)) (leField b 16)) (leBit m 8)) (by decide), fun h => by cases h⟩
theorem Encoding.vwadd (d : BitVec 7) (a : BitVec 7) (b : BitVec 7) (m : Bool) : Encoding.Statement (.vwadd d a b m) := ⟨Nat.lt_of_le_of_lt (Nat.add_le_add (Nat.add_le_add (Nat.add_le_add (Nat.add_le_add (Nat.le_refl _) (leField d 262144)) (leField a 2048)) (leField b 16)) (leBit m 8)) (by decide), fun h => by cases h⟩
theorem Encoding.vwmul (d : BitVec 7) (a : BitVec 7) (b : BitVec 7) (m : Bool) : Encoding.Statement (.vwmul d a b m) := ⟨Nat.lt_of_le_of_lt (Nat.add_le_add (Nat.add_le_add (Nat.add_le_add (Nat.add_le_add (Nat.le_refl _) (leField d 262144)) (leField a 2048)) (leField b 16)) (leBit m 8)) (by decide), fun h => by cases h⟩
theorem Encoding.vcmpeq (d : BitVec 7) (a : BitVec 7) (b : BitVec 7) (m : Bool) : Encoding.Statement (.vcmpeq d a b m) := ⟨Nat.lt_of_le_of_lt (Nat.add_le_add (Nat.add_le_add (Nat.add_le_add (Nat.add_le_add (Nat.le_refl _) (leField d 262144)) (leField a 2048)) (leField b 16)) (leBit m 8)) (by decide), fun h => by cases h⟩
theorem Encoding.vcmpne (d : BitVec 7) (a : BitVec 7) (b : BitVec 7) (m : Bool) : Encoding.Statement (.vcmpne d a b m) := ⟨Nat.lt_of_le_of_lt (Nat.add_le_add (Nat.add_le_add (Nat.add_le_add (Nat.add_le_add (Nat.le_refl _) (leField d 262144)) (leField a 2048)) (leField b 16)) (leBit m 8)) (by decide), fun h => by cases h⟩
theorem Encoding.vcmplt (d : BitVec 7) (a : BitVec 7) (b : BitVec 7) (m : Bool) : Encoding.Statement (.vcmplt d a b m) := ⟨Nat.lt_of_le_of_lt (Nat.add_le_add (Nat.add_le_add (Nat.add_le_add (Nat.add_le_add (Nat.le_refl _) (leField d 262144)) (leField a 2048)) (leField b 16)) (leBit m 8)) (by decide), fun h => by cases h⟩
theorem Encoding.vcmple (d : BitVec 7) (a : BitVec 7) (b : BitVec 7) (m : Bool) : Encoding.Statement (.vcmple d a b m) := ⟨Nat.lt_of_le_of_lt (Nat.add_le_add (Nat.add_le_add (Nat.add_le_add (Nat.add_le_add (Nat.le_refl _) (leField d 262144)) (leField a 2048)) (leField b 16)) (leBit m 8)) (by decide), fun h => by cases h⟩
theorem Encoding.vcmpltu (d : BitVec 7) (a : BitVec 7) (b : BitVec 7) (m : Bool) : Encoding.Statement (.vcmpltu d a b m) := ⟨Nat.lt_of_le_of_lt (Nat.add_le_add (Nat.add_le_add (Nat.add_le_add (Nat.add_le_add (Nat.le_refl _) (leField d 262144)) (leField a 2048)) (leField b 16)) (leBit m 8)) (by decide), fun h => by cases h⟩
theorem Encoding.vcmpleu (d : BitVec 7) (a : BitVec 7) (b : BitVec 7) (m : Bool) : Encoding.Statement (.vcmpleu d a b m) := ⟨Nat.lt_of_le_of_lt (Nat.add_le_add (Nat.add_le_add (Nat.add_le_add (Nat.add_le_add (Nat.le_refl _) (leField d 262144)) (leField a 2048)) (leField b 16)) (leBit m 8)) (by decide), fun h => by cases h⟩
theorem Encoding.vfadd (d : BitVec 7) (a : BitVec 7) (b : BitVec 7) (m : Bool) : Encoding.Statement (.vfadd d a b m) := ⟨Nat.lt_of_le_of_lt (Nat.add_le_add (Nat.add_le_add (Nat.add_le_add (Nat.add_le_add (Nat.le_refl _) (leField d 262144)) (leField a 2048)) (leField b 16)) (leBit m 8)) (by decide), fun h => by cases h⟩
theorem Encoding.vfsub (d : BitVec 7) (a : BitVec 7) (b : BitVec 7) (m : Bool) : Encoding.Statement (.vfsub d a b m) := ⟨Nat.lt_of_le_of_lt (Nat.add_le_add (Nat.add_le_add (Nat.add_le_add (Nat.add_le_add (Nat.le_refl _) (leField d 262144)) (leField a 2048)) (leField b 16)) (leBit m 8)) (by decide), fun h => by cases h⟩
theorem Encoding.vfmul (d : BitVec 7) (a : BitVec 7) (b : BitVec 7) (m : Bool) : Encoding.Statement (.vfmul d a b m) := ⟨Nat.lt_of_le_of_lt (Nat.add_le_add (Nat.add_le_add (Nat.add_le_add (Nat.add_le_add (Nat.le_refl _) (leField d 262144)) (leField a 2048)) (leField b 16)) (leBit m 8)) (by decide), fun h => by cases h⟩
theorem Encoding.vfma (d : BitVec 7) (a : BitVec 7) (b : BitVec 7) (m : Bool) : Encoding.Statement (.vfma d a b m) := ⟨Nat.lt_of_le_of_lt (Nat.add_le_add (Nat.add_le_add (Nat.add_le_add (Nat.add_le_add (Nat.le_refl _) (leField d 262144)) (leField a 2048)) (leField b 16)) (leBit m 8)) (by decide), fun h => by cases h⟩
theorem Encoding.vfms (d : BitVec 7) (a : BitVec 7) (b : BitVec 7) (m : Bool) : Encoding.Statement (.vfms d a b m) := ⟨Nat.lt_of_le_of_lt (Nat.add_le_add (Nat.add_le_add (Nat.add_le_add (Nat.add_le_add (Nat.le_refl _) (leField d 262144)) (leField a 2048)) (leField b 16)) (leBit m 8)) (by decide), fun h => by cases h⟩
theorem Encoding.vfnma (d : BitVec 7) (a : BitVec 7) (b : BitVec 7) (m : Bool) : Encoding.Statement (.vfnma d a b m) := ⟨Nat.lt_of_le_of_lt (Nat.add_le_add (Nat.add_le_add (Nat.add_le_add (Nat.add_le_add (Nat.le_refl _) (leField d 262144)) (leField a 2048)) (leField b 16)) (leBit m 8)) (by decide), fun h => by cases h⟩
theorem Encoding.vfdiv (d : BitVec 7) (a : BitVec 7) (b : BitVec 7) (m : Bool) : Encoding.Statement (.vfdiv d a b m) := ⟨Nat.lt_of_le_of_lt (Nat.add_le_add (Nat.add_le_add (Nat.add_le_add (Nat.add_le_add (Nat.le_refl _) (leField d 262144)) (leField a 2048)) (leField b 16)) (leBit m 8)) (by decide), fun h => by cases h⟩
theorem Encoding.vfmin (d : BitVec 7) (a : BitVec 7) (b : BitVec 7) (m : Bool) : Encoding.Statement (.vfmin d a b m) := ⟨Nat.lt_of_le_of_lt (Nat.add_le_add (Nat.add_le_add (Nat.add_le_add (Nat.add_le_add (Nat.le_refl _) (leField d 262144)) (leField a 2048)) (leField b 16)) (leBit m 8)) (by decide), fun h => by cases h⟩
theorem Encoding.vfmax (d : BitVec 7) (a : BitVec 7) (b : BitVec 7) (m : Bool) : Encoding.Statement (.vfmax d a b m) := ⟨Nat.lt_of_le_of_lt (Nat.add_le_add (Nat.add_le_add (Nat.add_le_add (Nat.add_le_add (Nat.le_refl _) (leField d 262144)) (leField a 2048)) (leField b 16)) (leBit m 8)) (by decide), fun h => by cases h⟩
theorem Encoding.vfabs (d : BitVec 7) (a : BitVec 7) (m : Bool) : Encoding.Statement (.vfabs d a m) := ⟨Nat.lt_of_le_of_lt (Nat.add_le_add (Nat.add_le_add (Nat.add_le_add (Nat.le_refl _) (leField d 262144)) (leField a 2048)) (leBit m 8)) (by decide), fun h => by cases h⟩
theorem Encoding.vfneg (d : BitVec 7) (a : BitVec 7) (m : Bool) : Encoding.Statement (.vfneg d a m) := ⟨Nat.lt_of_le_of_lt (Nat.add_le_add (Nat.add_le_add (Nat.add_le_add (Nat.le_refl _) (leField d 262144)) (leField a 2048)) (leBit m 8)) (by decide), fun h => by cases h⟩
theorem Encoding.vfclass (d : BitVec 7) (a : BitVec 7) (m : Bool) : Encoding.Statement (.vfclass d a m) := ⟨Nat.lt_of_le_of_lt (Nat.add_le_add (Nat.add_le_add (Nat.add_le_add (Nat.le_refl _) (leField d 262144)) (leField a 2048)) (leBit m 8)) (by decide), fun h => by cases h⟩
theorem Encoding.vfsqrt (d : BitVec 7) (a : BitVec 7) (m : Bool) : Encoding.Statement (.vfsqrt d a m) := ⟨Nat.lt_of_le_of_lt (Nat.add_le_add (Nat.add_le_add (Nat.add_le_add (Nat.le_refl _) (leField d 262144)) (leField a 2048)) (leBit m 8)) (by decide), fun h => by cases h⟩
theorem Encoding.vfrcp (d : BitVec 7) (a : BitVec 7) (m : Bool) : Encoding.Statement (.vfrcp d a m) := ⟨Nat.lt_of_le_of_lt (Nat.add_le_add (Nat.add_le_add (Nat.add_le_add (Nat.le_refl _) (leField d 262144)) (leField a 2048)) (leBit m 8)) (by decide), fun h => by cases h⟩
theorem Encoding.vfrsq (d : BitVec 7) (a : BitVec 7) (m : Bool) : Encoding.Statement (.vfrsq d a m) := ⟨Nat.lt_of_le_of_lt (Nat.add_le_add (Nat.add_le_add (Nat.add_le_add (Nat.le_refl _) (leField d 262144)) (leField a 2048)) (leBit m 8)) (by decide), fun h => by cases h⟩
theorem Encoding.vfexp2 (d : BitVec 7) (a : BitVec 7) (m : Bool) : Encoding.Statement (.vfexp2 d a m) := ⟨Nat.lt_of_le_of_lt (Nat.add_le_add (Nat.add_le_add (Nat.add_le_add (Nat.le_refl _) (leField d 262144)) (leField a 2048)) (leBit m 8)) (by decide), fun h => by cases h⟩
theorem Encoding.vflog2 (d : BitVec 7) (a : BitVec 7) (m : Bool) : Encoding.Statement (.vflog2 d a m) := ⟨Nat.lt_of_le_of_lt (Nat.add_le_add (Nat.add_le_add (Nat.add_le_add (Nat.le_refl _) (leField d 262144)) (leField a 2048)) (leBit m 8)) (by decide), fun h => by cases h⟩
theorem Encoding.vftanh (d : BitVec 7) (a : BitVec 7) (m : Bool) : Encoding.Statement (.vftanh d a m) := ⟨Nat.lt_of_le_of_lt (Nat.add_le_add (Nat.add_le_add (Nat.add_le_add (Nat.le_refl _) (leField d 262144)) (leField a 2048)) (leBit m 8)) (by decide), fun h => by cases h⟩
theorem Encoding.vfcmpeq (d : BitVec 7) (a : BitVec 7) (b : BitVec 7) (m : Bool) : Encoding.Statement (.vfcmpeq d a b m) := ⟨Nat.lt_of_le_of_lt (Nat.add_le_add (Nat.add_le_add (Nat.add_le_add (Nat.add_le_add (Nat.le_refl _) (leField d 262144)) (leField a 2048)) (leField b 16)) (leBit m 8)) (by decide), fun h => by cases h⟩
theorem Encoding.vfcmplt (d : BitVec 7) (a : BitVec 7) (b : BitVec 7) (m : Bool) : Encoding.Statement (.vfcmplt d a b m) := ⟨Nat.lt_of_le_of_lt (Nat.add_le_add (Nat.add_le_add (Nat.add_le_add (Nat.add_le_add (Nat.le_refl _) (leField d 262144)) (leField a 2048)) (leField b 16)) (leBit m 8)) (by decide), fun h => by cases h⟩
theorem Encoding.vfcmple (d : BitVec 7) (a : BitVec 7) (b : BitVec 7) (m : Bool) : Encoding.Statement (.vfcmple d a b m) := ⟨Nat.lt_of_le_of_lt (Nat.add_le_add (Nat.add_le_add (Nat.add_le_add (Nat.add_le_add (Nat.le_refl _) (leField d 262144)) (leField a 2048)) (leField b 16)) (leBit m 8)) (by decide), fun h => by cases h⟩
theorem Encoding.vcvt (d : BitVec 7) (a : BitVec 7) (c : BitVec 5) (m : Bool) : Encoding.Statement (.vcvt d a c m) := ⟨Nat.lt_of_le_of_lt (Nat.add_le_add (Nat.add_le_add (Nat.add_le_add (Nat.add_le_add (Nat.le_refl _) (leField d 262144)) (leField a 2048)) (leField c 16)) (leBit m 8)) (by decide), fun h => by cases h⟩
theorem Encoding.vnarrow (d : BitVec 7) (a : BitVec 7) (b : BitVec 7) (m : Bool) : Encoding.Statement (.vnarrow d a b m) := ⟨Nat.lt_of_le_of_lt (Nat.add_le_add (Nat.add_le_add (Nat.add_le_add (Nat.add_le_add (Nat.le_refl _) (leField d 262144)) (leField a 2048)) (leField b 16)) (leBit m 8)) (by decide), fun h => by cases h⟩
theorem Encoding.vdq (d : BitVec 7) (a : BitVec 7) (b : BitVec 7) (m : Bool) : Encoding.Statement (.vdq d a b m) := ⟨Nat.lt_of_le_of_lt (Nat.add_le_add (Nat.add_le_add (Nat.add_le_add (Nat.add_le_add (Nat.le_refl _) (leField d 262144)) (leField a 2048)) (leField b 16)) (leBit m 8)) (by decide), fun h => by cases h⟩
theorem Encoding.vand (d : BitVec 7) (a : BitVec 7) (b : BitVec 7) (m : Bool) : Encoding.Statement (.vand d a b m) := ⟨Nat.lt_of_le_of_lt (Nat.add_le_add (Nat.add_le_add (Nat.add_le_add (Nat.add_le_add (Nat.le_refl _) (leField d 262144)) (leField a 2048)) (leField b 16)) (leBit m 8)) (by decide), fun h => by cases h⟩
theorem Encoding.vor (d : BitVec 7) (a : BitVec 7) (b : BitVec 7) (m : Bool) : Encoding.Statement (.vor d a b m) := ⟨Nat.lt_of_le_of_lt (Nat.add_le_add (Nat.add_le_add (Nat.add_le_add (Nat.add_le_add (Nat.le_refl _) (leField d 262144)) (leField a 2048)) (leField b 16)) (leBit m 8)) (by decide), fun h => by cases h⟩
theorem Encoding.vxor (d : BitVec 7) (a : BitVec 7) (b : BitVec 7) (m : Bool) : Encoding.Statement (.vxor d a b m) := ⟨Nat.lt_of_le_of_lt (Nat.add_le_add (Nat.add_le_add (Nat.add_le_add (Nat.add_le_add (Nat.le_refl _) (leField d 262144)) (leField a 2048)) (leField b 16)) (leBit m 8)) (by decide), fun h => by cases h⟩
theorem Encoding.vfshl (d : BitVec 7) (a : BitVec 7) (b : BitVec 7) (m : Bool) : Encoding.Statement (.vfshl d a b m) := ⟨Nat.lt_of_le_of_lt (Nat.add_le_add (Nat.add_le_add (Nat.add_le_add (Nat.add_le_add (Nat.le_refl _) (leField d 262144)) (leField a 2048)) (leField b 16)) (leBit m 8)) (by decide), fun h => by cases h⟩
theorem Encoding.vfshr (d : BitVec 7) (a : BitVec 7) (b : BitVec 7) (m : Bool) : Encoding.Statement (.vfshr d a b m) := ⟨Nat.lt_of_le_of_lt (Nat.add_le_add (Nat.add_le_add (Nat.add_le_add (Nat.add_le_add (Nat.le_refl _) (leField d 262144)) (leField a 2048)) (leField b 16)) (leBit m 8)) (by decide), fun h => by cases h⟩
theorem Encoding.vrot (d : BitVec 7) (a : BitVec 7) (b : BitVec 7) (m : Bool) : Encoding.Statement (.vrot d a b m) := ⟨Nat.lt_of_le_of_lt (Nat.add_le_add (Nat.add_le_add (Nat.add_le_add (Nat.add_le_add (Nat.le_refl _) (leField d 262144)) (leField a 2048)) (leField b 16)) (leBit m 8)) (by decide), fun h => by cases h⟩
theorem Encoding.vpopc (d : BitVec 7) (a : BitVec 7) (m : Bool) : Encoding.Statement (.vpopc d a m) := ⟨Nat.lt_of_le_of_lt (Nat.add_le_add (Nat.add_le_add (Nat.add_le_add (Nat.le_refl _) (leField d 262144)) (leField a 2048)) (leBit m 8)) (by decide), fun h => by cases h⟩
theorem Encoding.vclz (d : BitVec 7) (a : BitVec 7) (m : Bool) : Encoding.Statement (.vclz d a m) := ⟨Nat.lt_of_le_of_lt (Nat.add_le_add (Nat.add_le_add (Nat.add_le_add (Nat.le_refl _) (leField d 262144)) (leField a 2048)) (leBit m 8)) (by decide), fun h => by cases h⟩
theorem Encoding.vlut3Tt71 (t : BitVec 7) (d : BitVec 6) (a : BitVec 6) (b : BitVec 6) : Encoding.Statement (.vlut3Tt71 t d a b) := ⟨by change 1644167168 + t.toNat / 64 % 2 * 16777216 + t.toNat / 32 % 2 * 131072 + t.toNat / 16 % 2 * 1024 + t.toNat % 16 + d.toNat * 262144 + a.toNat * 2048 + b.toNat * 16 < 2952790016; omega, fun h => by cases h⟩
theorem Encoding.vlut3Tt70 (t : BitVec 7) (d : BitVec 6) (a : BitVec 6) (b : BitVec 6) : Encoding.Statement (.vlut3Tt70 t d a b) := ⟨by change 1677721600 + t.toNat / 64 % 2 * 16777216 + t.toNat / 32 % 2 * 131072 + t.toNat / 16 % 2 * 1024 + t.toNat % 16 + d.toNat * 262144 + a.toNat * 2048 + b.toNat * 16 < 2952790016; omega, fun h => by cases h⟩
theorem Encoding.vslideup (d : BitVec 7) (a : BitVec 7) (b : BitVec 7) (m : Bool) : Encoding.Statement (.vslideup d a b m) := ⟨Nat.lt_of_le_of_lt (Nat.add_le_add (Nat.add_le_add (Nat.add_le_add (Nat.add_le_add (Nat.le_refl _) (leField d 262144)) (leField a 2048)) (leField b 16)) (leBit m 8)) (by decide), fun h => by cases h⟩
theorem Encoding.vslidedn (d : BitVec 7) (a : BitVec 7) (b : BitVec 7) (m : Bool) : Encoding.Statement (.vslidedn d a b m) := ⟨Nat.lt_of_le_of_lt (Nat.add_le_add (Nat.add_le_add (Nat.add_le_add (Nat.add_le_add (Nat.le_refl _) (leField d 262144)) (leField a 2048)) (leField b 16)) (leBit m 8)) (by decide), fun h => by cases h⟩
theorem Encoding.vgather (d : BitVec 7) (a : BitVec 7) (b : BitVec 7) (m : Bool) : Encoding.Statement (.vgather d a b m) := ⟨Nat.lt_of_le_of_lt (Nat.add_le_add (Nat.add_le_add (Nat.add_le_add (Nat.add_le_add (Nat.le_refl _) (leField d 262144)) (leField a 2048)) (leField b 16)) (leBit m 8)) (by decide), fun h => by cases h⟩
theorem Encoding.vcompress (d : BitVec 7) (a : BitVec 7) : Encoding.Statement (.vcompress d a) := ⟨Nat.lt_of_le_of_lt (Nat.add_le_add (Nat.add_le_add (Nat.le_refl _) (leField d 262144)) (leField a 2048)) (by decide), fun h => by cases h⟩
theorem Encoding.vexpand (d : BitVec 7) (a : BitVec 7) : Encoding.Statement (.vexpand d a) := ⟨Nat.lt_of_le_of_lt (Nat.add_le_add (Nat.add_le_add (Nat.le_refl _) (leField d 262144)) (leField a 2048)) (by decide), fun h => by cases h⟩
theorem Encoding.vbcast (d : BitVec 7) (a : BitVec 7) (m : Bool) : Encoding.Statement (.vbcast d a m) := ⟨Nat.lt_of_le_of_lt (Nat.add_le_add (Nat.add_le_add (Nat.add_le_add (Nat.le_refl _) (leField d 262144)) (leField a 2048)) (leBit m 8)) (by decide), fun h => by cases h⟩
theorem Encoding.vtrans (d : BitVec 7) (a : BitVec 7) (m : Bool) : Encoding.Statement (.vtrans d a m) := ⟨Nat.lt_of_le_of_lt (Nat.add_le_add (Nat.add_le_add (Nat.add_le_add (Nat.le_refl _) (leField d 262144)) (leField a 2048)) (leBit m 8)) (by decide), fun h => by cases h⟩
theorem Encoding.vrowsh (d : BitVec 7) (a : BitVec 7) (b : BitVec 7) (m : Bool) : Encoding.Statement (.vrowsh d a b m) := ⟨Nat.lt_of_le_of_lt (Nat.add_le_add (Nat.add_le_add (Nat.add_le_add (Nat.add_le_add (Nat.le_refl _) (leField d 262144)) (leField a 2048)) (leField b 16)) (leBit m 8)) (by decide), fun h => by cases h⟩
theorem Encoding.vredsum (d : BitVec 7) (a : BitVec 7) (m : Bool) : Encoding.Statement (.vredsum d a m) := ⟨Nat.lt_of_le_of_lt (Nat.add_le_add (Nat.add_le_add (Nat.add_le_add (Nat.le_refl _) (leField d 262144)) (leField a 2048)) (leBit m 8)) (by decide), fun h => by cases h⟩
theorem Encoding.vredmax (d : BitVec 7) (a : BitVec 7) (m : Bool) : Encoding.Statement (.vredmax d a m) := ⟨Nat.lt_of_le_of_lt (Nat.add_le_add (Nat.add_le_add (Nat.add_le_add (Nat.le_refl _) (leField d 262144)) (leField a 2048)) (leBit m 8)) (by decide), fun h => by cases h⟩
theorem Encoding.vredmin (d : BitVec 7) (a : BitVec 7) (m : Bool) : Encoding.Statement (.vredmin d a m) := ⟨Nat.lt_of_le_of_lt (Nat.add_le_add (Nat.add_le_add (Nat.add_le_add (Nat.le_refl _) (leField d 262144)) (leField a 2048)) (leBit m 8)) (by decide), fun h => by cases h⟩
theorem Encoding.vredand (d : BitVec 7) (a : BitVec 7) (m : Bool) : Encoding.Statement (.vredand d a m) := ⟨Nat.lt_of_le_of_lt (Nat.add_le_add (Nat.add_le_add (Nat.add_le_add (Nat.le_refl _) (leField d 262144)) (leField a 2048)) (leBit m 8)) (by decide), fun h => by cases h⟩
theorem Encoding.vredor (d : BitVec 7) (a : BitVec 7) (m : Bool) : Encoding.Statement (.vredor d a m) := ⟨Nat.lt_of_le_of_lt (Nat.add_le_add (Nat.add_le_add (Nat.add_le_add (Nat.le_refl _) (leField d 262144)) (leField a 2048)) (leBit m 8)) (by decide), fun h => by cases h⟩
theorem Encoding.vfredsum (d : BitVec 7) (a : BitVec 7) (m : Bool) : Encoding.Statement (.vfredsum d a m) := ⟨Nat.lt_of_le_of_lt (Nat.add_le_add (Nat.add_le_add (Nat.add_le_add (Nat.le_refl _) (leField d 262144)) (leField a 2048)) (leBit m 8)) (by decide), fun h => by cases h⟩
theorem Encoding.vfredmax (d : BitVec 7) (a : BitVec 7) (m : Bool) : Encoding.Statement (.vfredmax d a m) := ⟨Nat.lt_of_le_of_lt (Nat.add_le_add (Nat.add_le_add (Nat.add_le_add (Nat.le_refl _) (leField d 262144)) (leField a 2048)) (leBit m 8)) (by decide), fun h => by cases h⟩
theorem Encoding.mand (d : BitVec 7) (a : BitVec 7) (b : BitVec 7) : Encoding.Statement (.mand d a b) := ⟨Nat.lt_of_le_of_lt (Nat.add_le_add (Nat.add_le_add (Nat.add_le_add (Nat.le_refl _) (leField d 262144)) (leField a 2048)) (leField b 16)) (by decide), fun h => by cases h⟩
theorem Encoding.mor (d : BitVec 7) (a : BitVec 7) (b : BitVec 7) : Encoding.Statement (.mor d a b) := ⟨Nat.lt_of_le_of_lt (Nat.add_le_add (Nat.add_le_add (Nat.add_le_add (Nat.le_refl _) (leField d 262144)) (leField a 2048)) (leField b 16)) (by decide), fun h => by cases h⟩
theorem Encoding.mxor (d : BitVec 7) (a : BitVec 7) (b : BitVec 7) : Encoding.Statement (.mxor d a b) := ⟨Nat.lt_of_le_of_lt (Nat.add_le_add (Nat.add_le_add (Nat.add_le_add (Nat.le_refl _) (leField d 262144)) (leField a 2048)) (leField b 16)) (by decide), fun h => by cases h⟩
theorem Encoding.mnot (d : BitVec 7) (a : BitVec 7) : Encoding.Statement (.mnot d a) := ⟨Nat.lt_of_le_of_lt (Nat.add_le_add (Nat.add_le_add (Nat.le_refl _) (leField d 262144)) (leField a 2048)) (by decide), fun h => by cases h⟩
theorem Encoding.mpopc (d : BitVec 7) (a : BitVec 7) : Encoding.Statement (.mpopc d a) := ⟨Nat.lt_of_le_of_lt (Nat.add_le_add (Nat.add_le_add (Nat.le_refl _) (leField d 262144)) (leField a 2048)) (by decide), fun h => by cases h⟩
theorem Encoding.mfirst (d : BitVec 7) (a : BitVec 7) : Encoding.Statement (.mfirst d a) := ⟨Nat.lt_of_le_of_lt (Nat.add_le_add (Nat.add_le_add (Nat.le_refl _) (leField d 262144)) (leField a 2048)) (by decide), fun h => by cases h⟩
theorem Encoding.mset (d : BitVec 7) (a : BitVec 7) (b : BitVec 7) : Encoding.Statement (.mset d a b) := ⟨Nat.lt_of_le_of_lt (Nat.add_le_add (Nat.add_le_add (Nat.add_le_add (Nat.le_refl _) (leField d 262144)) (leField a 2048)) (leField b 16)) (by decide), fun h => by cases h⟩
theorem Encoding.vchain (n : BitVec 4) : Encoding.Statement (.vchain n) := ⟨Nat.lt_of_le_of_lt (Nat.add_le_add (Nat.le_refl _) (leField n 262144)) (by decide), fun h => by cases h⟩
theorem Encoding.vchrun (a : BitVec 7) (b : BitVec 7) : Encoding.Statement (.vchrun a b) := ⟨Nat.lt_of_le_of_lt (Nat.add_le_add (Nat.add_le_add (Nat.le_refl _) (leField a 2048)) (leField b 16)) (by decide), fun h => by cases h⟩
theorem Encoding.qset (d : BitVec 7) (a : BitVec 7) (i : BitVec 7) : Encoding.Statement (.qset d a i) := ⟨Nat.lt_of_le_of_lt (Nat.add_le_add (Nat.add_le_add (Nat.add_le_add (Nat.le_refl _) (leField d 262144)) (leField a 2048)) (leField i 16)) (by decide), fun h => by cases h⟩
theorem Encoding.qsetx (d : BitVec 7) (a : BitVec 7) (b : BitVec 7) : Encoding.Statement (.qsetx d a b) := ⟨Nat.lt_of_le_of_lt (Nat.add_le_add (Nat.add_le_add (Nat.add_le_add (Nat.le_refl _) (leField d 262144)) (leField a 2048)) (leField b 16)) (by decide), fun h => by cases h⟩
theorem Encoding.qbind (d : BitVec 7) (a : BitVec 7) (k : Bool) : Encoding.Statement (.qbind d a k) := ⟨Nat.lt_of_le_of_lt (Nat.add_le_add (Nat.add_le_add (Nat.add_le_add (Nat.le_refl _) (leField d 262144)) (leField a 2048)) (leBit k 16)) (by decide), fun h => by cases h⟩
theorem Encoding.qunbind (d : BitVec 7) : Encoding.Statement (.qunbind d) := ⟨Nat.lt_of_le_of_lt (Nat.add_le_add (Nat.le_refl _) (leField d 262144)) (by decide), fun h => by cases h⟩
theorem Encoding.vld (d : BitVec 7) (a : BitVec 7) (m : Bool) : Encoding.Statement (.vld d a m) := ⟨Nat.lt_of_le_of_lt (Nat.add_le_add (Nat.add_le_add (Nat.add_le_add (Nat.le_refl _) (leField d 262144)) (leField a 2048)) (leBit m 8)) (by decide), fun h => by cases h⟩
theorem Encoding.vlds (d : BitVec 7) (a : BitVec 7) (b : BitVec 7) (m : Bool) : Encoding.Statement (.vlds d a b m) := ⟨Nat.lt_of_le_of_lt (Nat.add_le_add (Nat.add_le_add (Nat.add_le_add (Nat.add_le_add (Nat.le_refl _) (leField d 262144)) (leField a 2048)) (leField b 16)) (leBit m 8)) (by decide), fun h => by cases h⟩
theorem Encoding.vldx (d : BitVec 7) (a : BitVec 7) (b : BitVec 7) (m : Bool) : Encoding.Statement (.vldx d a b m) := ⟨Nat.lt_of_le_of_lt (Nat.add_le_add (Nat.add_le_add (Nat.add_le_add (Nat.add_le_add (Nat.le_refl _) (leField d 262144)) (leField a 2048)) (leField b 16)) (leBit m 8)) (by decide), fun h => by cases h⟩
theorem Encoding.vst (d : BitVec 7) (a : BitVec 7) (m : Bool) : Encoding.Statement (.vst d a m) := ⟨Nat.lt_of_le_of_lt (Nat.add_le_add (Nat.add_le_add (Nat.add_le_add (Nat.le_refl _) (leField d 262144)) (leField a 2048)) (leBit m 8)) (by decide), fun h => by cases h⟩
theorem Encoding.vsts (d : BitVec 7) (a : BitVec 7) (b : BitVec 7) (m : Bool) : Encoding.Statement (.vsts d a b m) := ⟨Nat.lt_of_le_of_lt (Nat.add_le_add (Nat.add_le_add (Nat.add_le_add (Nat.add_le_add (Nat.le_refl _) (leField d 262144)) (leField a 2048)) (leField b 16)) (leBit m 8)) (by decide), fun h => by cases h⟩
theorem Encoding.vstx (d : BitVec 7) (a : BitVec 7) (b : BitVec 7) (m : Bool) : Encoding.Statement (.vstx d a b m) := ⟨Nat.lt_of_le_of_lt (Nat.add_le_add (Nat.add_le_add (Nat.add_le_add (Nat.add_le_add (Nat.le_refl _) (leField d 262144)) (leField a 2048)) (leField b 16)) (leBit m 8)) (by decide), fun h => by cases h⟩
theorem Encoding.vstu (d : BitVec 7) (a : BitVec 7) (m : Bool) : Encoding.Statement (.vstu d a m) := ⟨Nat.lt_of_le_of_lt (Nat.add_le_add (Nat.add_le_add (Nat.add_le_add (Nat.le_refl _) (leField d 262144)) (leField a 2048)) (leBit m 8)) (by decide), fun h => by cases h⟩
theorem Encoding.vstn (d : BitVec 7) (a : BitVec 7) (b : BitVec 7) (m : Bool) : Encoding.Statement (.vstn d a b m) := ⟨Nat.lt_of_le_of_lt (Nat.add_le_add (Nat.add_le_add (Nat.add_le_add (Nat.add_le_add (Nat.le_refl _) (leField d 262144)) (leField a 2048)) (leField b 16)) (leBit m 8)) (by decide), fun h => by cases h⟩
theorem Encoding.vstrc (d : BitVec 7) (a : BitVec 7) (b : BitVec 7) (m : Bool) : Encoding.Statement (.vstrc d a b m) := ⟨Nat.lt_of_le_of_lt (Nat.add_le_add (Nat.add_le_add (Nat.add_le_add (Nat.add_le_add (Nat.le_refl _) (leField d 262144)) (leField a 2048)) (leField b 16)) (leBit m 8)) (by decide), fun h => by cases h⟩
theorem Encoding.vspill (d : BitVec 7) (a : BitVec 7) : Encoding.Statement (.vspill d a) := ⟨Nat.lt_of_le_of_lt (Nat.add_le_add (Nat.add_le_add (Nat.le_refl _) (leField d 262144)) (leField a 2048)) (by decide), fun h => by cases h⟩
theorem Encoding.vfill (d : BitVec 7) (a : BitVec 7) : Encoding.Statement (.vfill d a) := ⟨Nat.lt_of_le_of_lt (Nat.add_le_add (Nat.add_le_add (Nat.le_refl _) (leField d 262144)) (leField a 2048)) (by decide), fun h => by cases h⟩
theorem Encoding.kld (n : BitVec 10) (a : BitVec 6) (c : BitVec 4) (j : BitVec 4) : Encoding.Statement (.kld n a c j) := ⟨by change 2013265920 + n.toNat / 8 % 128 * 262144 + n.toNat % 8 * 256 + a.toNat * 2048 + c.toNat * 16 + j.toNat < 2952790016; omega, fun h => by cases h⟩
theorem Encoding.top (t : BitVec 4) (a : BitVec 7) (b : BitVec 7) (c : BitVec 3) (r : BitVec 3) : Encoding.Statement (.top t a b c r) := ⟨Nat.lt_of_le_of_lt (Nat.add_le_add (Nat.add_le_add (Nat.add_le_add (Nat.add_le_add (Nat.add_le_add (Nat.le_refl _) (leField t 2097152)) (leField a 16384)) (leField b 128)) (leField c 8)) (leField1 r)) (by decide), fun h => by cases h⟩
theorem Encoding.topi (t : BitVec 4) (a : BitVec 7) (b : BitVec 7) (c : BitVec 3) (r : BitVec 3) : Encoding.Statement (.topi t a b c r) := ⟨Nat.lt_of_le_of_lt (Nat.add_le_add (Nat.add_le_add (Nat.add_le_add (Nat.add_le_add (Nat.add_le_add (Nat.le_refl _) (leField t 2097152)) (leField a 16384)) (leField b 128)) (leField c 8)) (leField1 r)) (by decide), fun h => by cases h⟩
theorem Encoding.topq (t : BitVec 4) (a : BitVec 7) (b : BitVec 7) (c : BitVec 3) (r : BitVec 3) : Encoding.Statement (.topq t a b c r) := ⟨Nat.lt_of_le_of_lt (Nat.add_le_add (Nat.add_le_add (Nat.add_le_add (Nat.add_le_add (Nat.add_le_add (Nat.le_refl _) (leField t 2097152)) (leField a 16384)) (leField b 128)) (leField c 8)) (leField1 r)) (by decide), fun h => by cases h⟩
theorem Encoding.toph (t : BitVec 4) (a : BitVec 7) (b : BitVec 7) (c : BitVec 3) (r : BitVec 3) : Encoding.Statement (.toph t a b c r) := ⟨Nat.lt_of_le_of_lt (Nat.add_le_add (Nat.add_le_add (Nat.add_le_add (Nat.add_le_add (Nat.add_le_add (Nat.le_refl _) (leField t 2097152)) (leField a 16384)) (leField b 128)) (leField c 8)) (leField1 r)) (by decide), fun h => by cases h⟩
theorem Encoding.tops (t : BitVec 4) (a : BitVec 7) (b : BitVec 7) (side : Bool) (c : BitVec 3) (r : BitVec 3) : Encoding.Statement (.tops t a b side c r) := ⟨Nat.lt_of_le_of_lt (Nat.add_le_add (Nat.add_le_add (Nat.add_le_add (Nat.add_le_add (Nat.add_le_add (Nat.add_le_add (Nat.le_refl _) (leField t 2097152)) (leField a 16384)) (leField b 128)) (leBit side 64)) (leField c 8)) (leField1 r)) (by decide), fun h => by cases h⟩
theorem Encoding.tmovv (t : BitVec 4) (d : BitVec 7) (b : BitVec 7) : Encoding.Statement (.tmovv t d b) := ⟨Nat.lt_of_le_of_lt (Nat.add_le_add (Nat.add_le_add (Nat.add_le_add (Nat.le_refl _) (leField t 2097152)) (leField d 16384)) (leField b 128)) (by decide), fun h => by cases h⟩
theorem Encoding.tmovt (t : BitVec 4) (a : BitVec 7) (b : BitVec 7) : Encoding.Statement (.tmovt t a b) := ⟨Nat.lt_of_le_of_lt (Nat.add_le_add (Nat.add_le_add (Nat.add_le_add (Nat.le_refl _) (leField t 2097152)) (leField a 16384)) (leField b 128)) (by decide), fun h => by cases h⟩
theorem Encoding.tepi (t : BitVec 4) (d : BitVec 7) (b : BitVec 7) (cb : Bool) (o : BitVec 2) (u : BitVec 2) : Encoding.Statement (.tepi t d b cb o u) := ⟨Nat.lt_of_le_of_lt (Nat.add_le_add (Nat.add_le_add (Nat.add_le_add (Nat.add_le_add (Nat.add_le_add (Nat.add_le_add (Nat.le_refl _) (leField t 2097152)) (leField d 16384)) (leField b 128)) (leBit cb 16)) (leField o 4)) (leField1 u)) (by decide), fun h => by cases h⟩
theorem Encoding.tcfg (d : BitVec 7) : Encoding.Statement (.tcfg d) := ⟨Nat.lt_of_le_of_lt (Nat.add_le_add (Nat.le_refl _) (leField d 262144)) (by decide), fun h => by cases h⟩
theorem Encoding.tzero (d : BitVec 7) : Encoding.Statement (.tzero d) := ⟨Nat.lt_of_le_of_lt (Nat.add_le_add (Nat.le_refl _) (leField d 262144)) (by decide), fun h => by cases h⟩
theorem Encoding.tstat (d : BitVec 7) (c : Bool) : Encoding.Statement (.tstat d c) := ⟨Nat.lt_of_le_of_lt (Nat.add_le_add (Nat.add_le_add (Nat.le_refl _) (leField d 262144)) (leBit c 64)) (by decide), fun h => by cases h⟩
theorem Encoding.dadd (d : BitVec 7) (a : BitVec 7) (b : BitVec 7) : Encoding.Statement (.dadd d a b) := ⟨Nat.lt_of_le_of_lt (Nat.add_le_add (Nat.add_le_add (Nat.add_le_add (Nat.le_refl _) (leField d 262144)) (leField a 2048)) (leField b 16)) (by decide), fun h => by cases h⟩
theorem Encoding.dsub (d : BitVec 7) (a : BitVec 7) (b : BitVec 7) : Encoding.Statement (.dsub d a b) := ⟨Nat.lt_of_le_of_lt (Nat.add_le_add (Nat.add_le_add (Nat.add_le_add (Nat.le_refl _) (leField d 262144)) (leField a 2048)) (leField b 16)) (by decide), fun h => by cases h⟩
theorem Encoding.dmul (d : BitVec 7) (a : BitVec 7) (b : BitVec 7) : Encoding.Statement (.dmul d a b) := ⟨Nat.lt_of_le_of_lt (Nat.add_le_add (Nat.add_le_add (Nat.add_le_add (Nat.le_refl _) (leField d 262144)) (leField a 2048)) (leField b 16)) (by decide), fun h => by cases h⟩
theorem Encoding.dmax (d : BitVec 7) (a : BitVec 7) (b : BitVec 7) : Encoding.Statement (.dmax d a b) := ⟨Nat.lt_of_le_of_lt (Nat.add_le_add (Nat.add_le_add (Nat.add_le_add (Nat.le_refl _) (leField d 262144)) (leField a 2048)) (leField b 16)) (by decide), fun h => by cases h⟩
theorem Encoding.dmin (d : BitVec 7) (a : BitVec 7) (b : BitVec 7) : Encoding.Statement (.dmin d a b) := ⟨Nat.lt_of_le_of_lt (Nat.add_le_add (Nat.add_le_add (Nat.add_le_add (Nat.le_refl _) (leField d 262144)) (leField a 2048)) (leField b 16)) (by decide), fun h => by cases h⟩
theorem Encoding.dmix (d : BitVec 7) (a : BitVec 7) (b : BitVec 7) : Encoding.Statement (.dmix d a b) := ⟨Nat.lt_of_le_of_lt (Nat.add_le_add (Nat.add_le_add (Nat.add_le_add (Nat.le_refl _) (leField d 262144)) (leField a 2048)) (leField b 16)) (by decide), fun h => by cases h⟩
theorem Encoding.daff (d : BitVec 7) (a : BitVec 7) (b : BitVec 7) : Encoding.Statement (.daff d a b) := ⟨Nat.lt_of_le_of_lt (Nat.add_le_add (Nat.add_le_add (Nat.add_le_add (Nat.le_refl _) (leField d 262144)) (leField a 2048)) (leField b 16)) (by decide), fun h => by cases h⟩
theorem Encoding.dmom (d : BitVec 7) (a : BitVec 7) (k : BitVec 3) : Encoding.Statement (.dmom d a k) := ⟨Nat.lt_of_le_of_lt (Nat.add_le_add (Nat.add_le_add (Nat.add_le_add (Nat.le_refl _) (leField d 262144)) (leField a 2048)) (leField k 16)) (by decide), fun h => by cases h⟩
theorem Encoding.dqnt (d : BitVec 7) (a : BitVec 7) (b : BitVec 7) : Encoding.Statement (.dqnt d a b) := ⟨Nat.lt_of_le_of_lt (Nat.add_le_add (Nat.add_le_add (Nat.add_le_add (Nat.le_refl _) (leField d 262144)) (leField a 2048)) (leField b 16)) (by decide), fun h => by cases h⟩
theorem Encoding.dcdf (d : BitVec 7) (a : BitVec 7) (b : BitVec 7) : Encoding.Statement (.dcdf d a b) := ⟨Nat.lt_of_le_of_lt (Nat.add_le_add (Nat.add_le_add (Nat.add_le_add (Nat.le_refl _) (leField d 262144)) (leField a 2048)) (leField b 16)) (by decide), fun h => by cases h⟩
theorem Encoding.dld (d : BitVec 7) (a : BitVec 7) (c : BitVec 5) : Encoding.Statement (.dld d a c) := ⟨Nat.lt_of_le_of_lt (Nat.add_le_add (Nat.add_le_add (Nat.add_le_add (Nat.le_refl _) (leField d 262144)) (leField a 2048)) (leField c 16)) (by decide), fun h => by cases h⟩
theorem Encoding.dst (d : BitVec 7) (a : BitVec 7) : Encoding.Statement (.dst d a) := ⟨Nat.lt_of_le_of_lt (Nat.add_le_add (Nat.add_le_add (Nat.le_refl _) (leField d 262144)) (leField a 2048)) (by decide), fun h => by cases h⟩
theorem Encoding.dfromv (d : BitVec 7) (a : BitVec 7) (c : BitVec 5) : Encoding.Statement (.dfromv d a c) := ⟨Nat.lt_of_le_of_lt (Nat.add_le_add (Nat.add_le_add (Nat.add_le_add (Nat.le_refl _) (leField d 262144)) (leField a 2048)) (leField c 16)) (by decide), fun h => by cases h⟩
theorem Encoding.dbuild (d : BitVec 7) (a : BitVec 7) (b : BitVec 7) : Encoding.Statement (.dbuild d a b) := ⟨Nat.lt_of_le_of_lt (Nat.add_le_add (Nat.add_le_add (Nat.add_le_add (Nat.le_refl _) (leField d 262144)) (leField a 2048)) (leField b 16)) (by decide), fun h => by cases h⟩
theorem Encoding.dtag (d : BitVec 7) (a : BitVec 7) (b : BitVec 7) : Encoding.Statement (.dtag d a b) := ⟨Nat.lt_of_le_of_lt (Nat.add_le_add (Nat.add_le_add (Nat.add_le_add (Nat.le_refl _) (leField d 262144)) (leField a 2048)) (leField b 16)) (by decide), fun h => by cases h⟩
theorem Encoding.xcopy (a : BitVec 7) (b : BitVec 7) : Encoding.Statement (.xcopy a b) := ⟨Nat.lt_of_le_of_lt (Nat.add_le_add (Nat.add_le_add (Nat.le_refl _) (leField a 2048)) (leField b 16)) (by decide), fun h => by cases h⟩
theorem Encoding.xgath (a : BitVec 7) (b : BitVec 7) : Encoding.Statement (.xgath a b) := ⟨Nat.lt_of_le_of_lt (Nat.add_le_add (Nat.add_le_add (Nat.le_refl _) (leField a 2048)) (leField b 16)) (by decide), fun h => by cases h⟩
theorem Encoding.xcoll (a : BitVec 7) (b : BitVec 7) : Encoding.Statement (.xcoll a b) := ⟨Nat.lt_of_le_of_lt (Nat.add_le_add (Nat.add_le_add (Nat.le_refl _) (leField a 2048)) (leField b 16)) (by decide), fun h => by cases h⟩
theorem Encoding.binit (a : BitVec 7) (b : BitVec 7) : Encoding.Statement (.binit a b) := ⟨Nat.lt_of_le_of_lt (Nat.add_le_add (Nat.add_le_add (Nat.le_refl _) (leField a 2048)) (leField b 16)) (by decide), fun h => by cases h⟩
theorem Encoding.barrive (a : BitVec 7) (n : BitVec 4) : Encoding.Statement (.barrive a n) := ⟨Nat.lt_of_le_of_lt (Nat.add_le_add (Nat.add_le_add (Nat.le_refl _) (leField a 2048)) (leField n 16)) (by decide), fun h => by cases h⟩
theorem Encoding.bexpect (a : BitVec 7) (b : BitVec 7) : Encoding.Statement (.bexpect a b) := ⟨Nat.lt_of_le_of_lt (Nat.add_le_add (Nat.add_le_add (Nat.le_refl _) (leField a 2048)) (leField b 16)) (by decide), fun h => by cases h⟩
theorem Encoding.bwait (d : BitVec 7) (a : BitVec 7) (b : BitVec 7) : Encoding.Statement (.bwait d a b) := ⟨Nat.lt_of_le_of_lt (Nat.add_le_add (Nat.add_le_add (Nat.add_le_add (Nat.le_refl _) (leField d 262144)) (leField a 2048)) (leField b 16)) (by decide), fun h => by cases h⟩
theorem Encoding.btest (d : BitVec 7) (a : BitVec 7) : Encoding.Statement (.btest d a) := ⟨Nat.lt_of_le_of_lt (Nat.add_le_add (Nat.add_le_add (Nat.le_refl _) (leField d 262144)) (leField a 2048)) (by decide), fun h => by cases h⟩
theorem Encoding.dbar : Encoding.Statement (.dbar ) := ⟨Nat.lt_of_le_of_lt (Nat.le_refl _) (by decide), fun h => by cases h⟩
theorem Encoding.seal (d : BitVec 7) (w : Bool) : Encoding.Statement (.seal d w) := ⟨Nat.lt_of_le_of_lt (Nat.add_le_add (Nat.add_le_add (Nat.le_refl _) (leField d 262144)) (leBit w 16)) (by decide), fun h => by cases h⟩
theorem Encoding.rinq (d : BitVec 7) (k : BitVec 2) : Encoding.Statement (.rinq d k) := ⟨Nat.lt_of_le_of_lt (Nat.add_le_add (Nat.add_le_add (Nat.le_refl _) (leField d 262144)) (leField k 16)) (by decide), fun h => by cases h⟩
theorem Encoding.extw (d : BitVec 7) : Encoding.Statement (.extw d) := ⟨Nat.lt_of_le_of_lt (Nat.add_le_add (Nat.le_refl _) (leField d 262144)) (by decide), fun h => by cases h⟩
theorem Encoding.awaitImm (d : BitVec 6) (i : BitVec 11) (n : BitVec 7) : Encoding.Statement (.awaitImm d i n) := ⟨Nat.lt_of_le_of_lt (Nat.add_le_add (Nat.add_le_add (Nat.add_le_add (Nat.le_refl _) (leField d 262144)) (leField i 128)) (leField1 n)) (by decide), fun h => by cases h⟩
theorem Encoding.awaitReg (d : BitVec 6) (a : BitVec 7) (b : BitVec 7) : Encoding.Statement (.awaitReg d a b) := ⟨Nat.lt_of_le_of_lt (Nat.add_le_add (Nat.add_le_add (Nat.add_le_add (Nat.le_refl _) (leField d 262144)) (leField a 2048)) (leField b 16)) (by decide), fun h => by cases h⟩
theorem Encoding.apref (l : BitVec 7) (a : BitVec 7) (e : BitVec 7) (v : BitVec 2) : Encoding.Statement (.apref l a e v) := ⟨Nat.lt_of_le_of_lt (Nat.add_le_add (Nat.add_le_add (Nat.add_le_add (Nat.add_le_add (Nat.le_refl _) (leField l 262144)) (leField a 2048)) (leField e 16)) (leField1 v)) (by decide), fun h => by cases h⟩
theorem Encoding.aplace (a : BitVec 7) (b : BitVec 7) (g : BitVec 2) : Encoding.Statement (.aplace a b g) := ⟨Nat.lt_of_le_of_lt (Nat.add_le_add (Nat.add_le_add (Nat.add_le_add (Nat.le_refl _) (leField a 2048)) (leField b 16)) (leField1 g)) (by decide), fun h => by cases h⟩
theorem Encoding.aprio (p : BitVec 4) : Encoding.Statement (.aprio p) := ⟨Nat.lt_of_le_of_lt (Nat.add_le_add (Nat.le_refl _) (leField p 16)) (by decide), fun h => by cases h⟩
theorem Encoding.aorder (p : BitVec 4) : Encoding.Statement (.aorder p) := ⟨Nat.lt_of_le_of_lt (Nat.add_le_add (Nat.le_refl _) (leField p 16)) (by decide), fun h => by cases h⟩
theorem Encoding.ald (d : BitVec 7) (a : BitVec 7) (i : BitVec 11) : Encoding.Statement (.ald d a i) := ⟨Nat.lt_of_le_of_lt (Nat.add_le_add (Nat.add_le_add (Nat.add_le_add (Nat.le_refl _) (leField d 262144)) (leField a 2048)) (leField1 i)) (by decide), fun h => by cases h⟩
theorem Encoding.adrop (p : BitVec 3) : Encoding.Statement (.adrop p) := ⟨Nat.lt_of_le_of_lt (Nat.add_le_add (Nat.le_refl _) (leField p 16)) (by decide), fun h => by cases h⟩
theorem Encoding.aend : Encoding.Statement (.aend ) := ⟨Nat.lt_of_le_of_lt (Nat.le_refl _) (by decide), fun h => by cases h⟩

end Sys2Proof.Laws
end

