-- ==== Sys2Proof/Laws/Vector.lean ====
section
/-! SUPPORT. Sys2Proof/Laws/Vector.lean: what the shapes of vector instructions do when nothing stands in their way. -/
namespace Sys2Proof.Machine

/-- Where no fault of the kinds 2 and 3 is armed, the two computations agree (08 R187). -/
theorem xPaths_run {s : State} (h : s.noLaneFault = true) (c : Bool) : xPaths c s = .ok ((), s) := by
  simp only [State.noLaneFault, decide_eq_true_eq] at h
  have hl : ({ s.hart with lane := if c then 0 else s.hart.lane } : Hart) = s.hart := by rw [h.2.2]; cases c <;> rw [← h.2.2] <;> rfl
  unfold xPaths injectEvents
  simp only [h.1, h.2.1, ne_eq, not_false_eq_true, if_true, hl]
  simp [h.2.2]

/-- Checked instructions at which no fault is armed step the recompute check and do nothing else (08 R186). -/
theorem xChecked_run {s : State} (h : s.noLaneFault = true) (l : List (List Nat)) :
    xChecked l s = .ok ((), { s with hart := { s.hart with vec := s.hart.vec.checked l.length } }) := by
  induction l generalizing s with
  | nil => rfl
  | cons a l ih =>
    have hs : s.stepLfsr.noLaneFault = true := h
    unfold xChecked
    rw [X.bind_ok (xMod_run s _), X.bind_ok (xRead_run _ _), X.bind_ok (xPaths_run hs _), ih hs]
    simp only [State.stepLfsr, State.modVec, Vec.checked, List.length_cons, List.range_succ_eq_map, List.foldl_cons, List.foldl_map]

/-- An element-wise instruction whose operands pass and whose bound reads go through (08 R172; 09 R208). -/
theorem vElem_run (mk : Hart → Option EInstr) (s u : State) (e : EInstr) (view : Store 8 × List BoundEls)
    (ha : s.agent = .hart) (hm : mk s.hart = some e) (hw : ∀ r ∈ e.writes, s.hart.vec.isBound r = false)
    (hb : boundWidths s.hart.vec (boundSources s.hart.vec e.srcs) = true)
    (hx : xBoundReads (s.hart.vec.active e.masked ((boundSources s.hart.vec e.srcs).map (fun p => s.hart.vec.stream p.1)))
      [] (boundSources s.hart.vec e.srcs) s.hart.vec.vrf s = .ok (view, u)) (hl : u.noLaneFault = true) :
    vElem mk s = .next (retireBound (({ u with hart := { u.hart with vec := u.hart.vec.checked 1 } } : State).modVec (fun v =>
      { elemLoop s.hart.vlmax e (s.hart.vec.active e.masked ((boundSources s.hart.vec e.srcs).map (fun p => s.hart.vec.stream p.1))) view.1 v
        with vstart := 0 })) view.2).retire := by
  unfold vElem
  rw [hartOnly_hart ha]
  apply runX_ok
  unfold xElem
  rw [X.bind_ok (xRead_run s _)]
  simp only [hm]
  have : (!e.writes.any fun r => s.hart.vec.isBound r) = true := by
    rw [Bool.not_eq_true', List.any_eq_false]; intro r hr; simp [hw r hr]
  rw [this, hb, Bool.true_and, X.bind_ok (xOperands_true s), X.bind_ok hx, X.bind_ok (xChecked_run hl _)]
  rfl

/-- A permute is an element-wise instruction that takes no bound register (09 R209). -/
theorem vPerm_eq (mk : Hart → Option EInstr) (s : State) : vPerm mk s = vElem (fun h => unbound h (mk h)) s := by
  unfold vPerm vElem xPerm unbound
  congr 3
  funext h
  cases mk h with
  | none => rfl
  | some i => by_cases hb : ((i.srcs ++ i.writes).any fun r => h.vec.isBound r) = true <;> simp [Option.filter, hb]

end Sys2Proof.Machine
end

