-- ==== Sys2Proof/Tests/Slice0.lean ====
section
/-! SUPPORT. Sys2Proof/Tests/Slice0.lean: ill-formed terms refused, words written out from the spec's encodings, results from the spec's tables and worked
examples, and for every statement with hypotheses a state and operands that meet them. -/
namespace Sys2Proof.Tests
open Sys2Proof Sys2Proof.Machine

set_option Elab.async false

/-- A step that answers a next state. -/
def goes (o : Host.Outcome State Fault Refusal) : Bool :=
  match o with
  | .next _ => true
  | _ => false

theorem goes_next {o : Host.Outcome State Fault Refusal} (h : goes o = true) : ∃ t, o = .next t := by
  cases o with
  | next t => exact ⟨t, rfl⟩
  | fault _ => cases h
  | refused _ => cases h

/-- A hart of a node whose lease is the page 0x10000, at physical page 0. -/
def m0 : State := placed State.reset 0 .hart

/-- It with another hart, and with some scalar registers. -/
def mach (f : Hart → Hart) : State := { m0 with hart := f m0.hart }
def regsOf (r : Store 64) : State := mach (fun h => { h with front := { h.front with regs := r } })

/-- The same words on an advice context, and on Ozsis. -/
def onAdvice (s : State) : State := { s with agent := .advice }
def onOzsis (s : State) : State := { s with agent := .ozsis }
/-- It with a handler at 0x10100. -/
def handled (f : Hart → Hart) : State := mach (fun h => f { h with trap := { h.trap with tvec := 0x10100 } })

/-- Whether steps of an instruction go through. -/
def passes {α : Type} (x : Except Stop α) : Bool :=
  match x with
  | .ok _ => true
  | .error _ => false

theorem passes_ok {α : Type} {m : Except Stop (α × State)} (h : passes m = true) : ∃ a u, m = .ok (a, u) := by
  cases m with
  | ok r => exact ⟨r.1, r.2, rfl⟩
  | error _ => cases h

/-- An answer that has a property. -/
def optHas {α : Type} (f : α → Bool) (o : Option α) : Bool :=
  match o with
  | some x => f x
  | none => false

theorem optHas_some {α : Type} {f : α → Bool} {o : Option α} (h : optHas f o = true) : ∃ x, o = some x ∧ f x = true := by
  cases o with
  | some x => exact ⟨x, rfl, h⟩
  | none => cases h


/-! Well-formedness refuses. -/

theorem wf_scope_of_atomic : (Instr.amoadd 6 1 2 3).wf = false := by decide
theorem wf_scope_of_cas : (Instr.casp 7 2 4 6).wf = false := by decide
theorem wf_scope_of_lda : (Instr.lda 2 9 6 false 3).wf = false := by decide
theorem wf_scope_of_fence : (Instr.fenceVv 6).wf = false := by decide
theorem wf_code_of_tepi : (Instr.tepi 1 2 4 false 0 3).wf = false := by decide
theorem wf_agent_of_message : (Instr.rds 5 0).wf = false := by decide
theorem wf_good : (Instr.amoadd 5 1 2 3).wf = true ∧ (Instr.tepi 1 2 4 false 0 2).wf = true ∧ (Instr.wback 4 9).wf = true := by decide

/-! Words, written bit by bit from 05 Tables 5.3 and 5.4 or printed in the spec as worked encodings. -/

-- major 0x01, rd = 3, ra = 5, rb = 7, fn = 1 (F3)
theorem word_sub : decode 0b0000001_0000011_0000101_0000111_0001#32 = some (.sub 3 5 7) := by decide +kernel
-- major 0x04, rd = ra = 0, imm = 0 (FI): the spec's NOP, 0x0800_0000
theorem word_addi : decode 0x08000000 = some (.addi 0 0 0) := by decide +kernel
-- 06: MOVI s8 with 16
theorem word_movi : decode 0x14200010 = some (.movi 8 16) := by decide +kernel
-- 06: SHRI s12, s7, #4 is 0x1232_3804
theorem word_shri : decode 0x12323804 = some (.shri 12 7 4) := by decide +kernel
-- 06: WBASE #64 is 0x2A00_0040, MARK #1, PARK #0
theorem word_wbase : decode 0x2A000040 = some (.wbase 64) := by decide +kernel
theorem word_mark : decode 0x2C000001 = some (.mark 1) := by decide +kernel
theorem word_park : decode 0x2E000003 = some (.park 0) := by decide +kernel
-- 06 R140: TRAP #5 encodes as 0x2E00_0140
theorem word_trap : decode 0x2E000140 = some (.trap 5) := by decide +kernel
-- 06: JALR s0, s5, #0
theorem word_jalr : decode 0x27002800 = some (.jalr 0 5 0) := by decide +kernel
-- 06: LDD s4, [s1]; LDW s10, [s6]
theorem word_ldd : decode 0x1B100800 = some (.ldd 4 1 0) := by decide +kernel
theorem word_ldw : decode 0x1A283000 = some (.ldw 10 6 0) := by decide +kernel
-- 16: LDA.m s2, [s9 + 12]; STL.m s13, [s5 + 128]
theorem word_lda : decode 0x36084C03 = some (.lda 2 9 4 false 3) := by decide +kernel
theorem word_stl : decode 0x37342C20 = some (.stl 13 5 4 false 32) := by decide +kernel
-- 10: VXOR v6, v6, v6 and its masked form on v4
theorem word_vxor : decode 0x611A3462 = some (.vxor 70 70 70 false) := by decide +kernel
theorem word_vxor_masked : decode 0x6112244A = some (.vxor 68 68 68 true) := by decide +kernel
-- 14: DCDF v5, d4, s13
theorem word_dcdf : decode 0x951420D2 = some (.dcdf 69 4 13) := by decide +kernel
-- 19: SEAL s11, #1; RINQ s5, #1; EXTW s12; 17: DBAR
theorem word_seal : decode 0xA22C0010 = some (.seal 11 true) := by decide +kernel
theorem word_rinq : decode 0xA2140011 = some (.rinq 5 1) := by decide +kernel
theorem word_extw : decode 0xA2300002 = some (.extw 12) := by decide +kernel
theorem word_dbar : decode 0xA0000000 = some .dbar := by decide +kernel
-- 16: AMOADD.m s5, [s8], s9; CAS.m s6, [s8], s9
theorem word_amoadd : decode 0b00110001000101000100000010010000#32 = some (.amoadd 4 5 8 9) := by decide +kernel
theorem word_cas : decode 0x35184090 = some (.cas 4 6 8 9) := by decide +kernel
-- 06: CSRR s5, fflags
theorem word_csrr : decode 0x28140800 = some (.csrr 5 0x020) := by decide +kernel
-- 08: VSETTYPE s0, f32; VSETL s9, s8; VFCMPLT m0, v4, v6; VFMUL v4, v1, v2
theorem word_vsettype : decode 0x40000000 = some (.vsettype 0 0) := by decide +kernel
theorem word_vsetl : decode 0x40244002 = some (.vsetl 9 8) := by decide +kernel
theorem word_vfcmplt : decode 0x56022461 = some (.vfcmplt 0 68 70 false) := by decide +kernel
theorem word_vfmul : decode 0x51120C22 = some (.vfmul 68 65 66 false) := by decide +kernel
-- 09: QSET q0, s4, #4; QSETX q2, s4, s20; VLD v1, q0 and masked; VST v4, q1; QBIND v8, q2, keep; KLD k[0], [s6 + 8], #1
theorem word_qset : decode 0x70002040 = some (.qset 0 4 4) := by decide +kernel
theorem word_qsetx : decode 0x70082141 = some (.qsetx 2 4 20) := by decide +kernel
theorem word_vld : decode 0x73040000 = some (.vld 65 0 false) ∧ decode 0x73040008 = some (.vld 65 0 true) := by decide +kernel
theorem word_vst : decode 0x75100800 = some (.vst 68 1 false) := by decide +kernel
theorem word_qbind : decode 0x71201012 = some (.qbind 72 2 true) := by decide +kernel
theorem word_kld : decode 0x78003002 = some (.kld 0 6 0 2) := by decide +kernel
-- 10: VFSHL v2, v1, v14; VBCAST v14, s10; VSLIDEUP v5, v4, s10; MOR m0, m7, m7; VCHAIN #3
theorem word_vfshl : decode 0x610A0CE3 = some (.vfshl 66 65 78 false) := by decide +kernel
theorem word_vbcast : decode 0x67385005 = some (.vbcast 78 10 false) := by decide +kernel
theorem word_vslideup : decode 0x671620A0 = some (.vslideup 69 68 10 false) := by decide +kernel
theorem word_mor : decode 0x6A003871 = some (.mor 0 7 7) := by decide +kernel
theorem word_vchain : decode 0x6C080000 = some (.vchain 2) := by decide +kernel
-- 11: CINV s8, s10 and CFLUSH
theorem word_cinv : decode 0x3C0040A1 = some (.cinv 8 10) ∧ decode 0x3C0040A2 = some (.cflush 8 10) := by decide +kernel
-- 12: AWAIT in both forms, APREF, APRIO, AORDER, APLACE, ALD, ADROP, AEND
theorem word_await : decode 0xA41C0081 = some (.awaitImm 7 1 1) ∧ decode 0xA5204860 = some (.awaitReg 8 9 6) := by decide +kernel
theorem word_apref : decode 0xA6002011 = some (.apref 0 4 1 1) := by decide +kernel
theorem word_aprio : decode 0xAA000020 = some (.aprio 2) ∧ decode 0xAA000011 = some (.aorder 1) := by decide +kernel
theorem word_aplace : decode 0xA80020A1 = some (.aplace 4 10 1) := by decide +kernel
theorem word_ald : decode 0xAC100800 = some (.ald 4 1 0) := by decide +kernel
theorem word_adrop : decode 0xAE000070 = some (.adrop 7) ∧ decode 0xAE000001 = some .aend := by decide +kernel
-- 13: TCFG s9; TOP t2, v4, v5, rows m3, cols m4; TEPI v3, t0, s20, relu, bf16
theorem word_tcfg : decode 0x8C240000 = some (.tcfg 9) := by decide +kernel
theorem word_top : decode 0x805122A3 = some (.top 2 68 69 4 3) := by decide +kernel
theorem word_tepi : decode 0x8A10CA45 = some (.tepi 0 67 20 false 1 1) := by decide +kernel
-- 14: DSUB d5, d4, d1; DMIX d6, d2, s14; DAFF d3, d1, s9; DMOM v1, d4, #1; DTAG d1, d1, s20; DST d4, q2
theorem word_dsub : decode 0x90142011 = some (.dsub 5 4 1) := by decide +kernel
theorem word_dmix : decode 0x901810E5 = some (.dmix 6 2 14) := by decide +kernel
theorem word_daff : decode 0x920C0890 = some (.daff 3 1 9) := by decide +kernel
theorem word_dmom : decode 0x95042010 = some (.dmom 65 4 1) := by decide +kernel
theorem word_dtag : decode 0x96040944 = some (.dtag 1 1 20) := by decide +kernel
theorem word_dst : decode 0x96101001 = some (.dst 4 2) := by decide +kernel
-- 15: XCOPY s5, s4; XGATH; XCOLL
theorem word_engines : decode 0x98002840 = some (.xcopy 5 4) ∧ decode 0x98002841 = some (.xgath 5 4) ∧ decode 0x98002842 = some (.xcoll 5 4) := by
  decide +kernel
-- 22: OZHASH s5
theorem word_ozhash : decode 0x2E140008 = some (.ozhash 5) := by decide +kernel
-- the encoder gives printed words back
theorem word_encodes : encode (.amoadd 4 5 8 9) = 0x31144090 ∧ encode (.top 2 68 69 4 3) = 0x805122A3 ∧ encode (.kld 0 6 0 2) = 0x78003002 := by
  decide +kernel
-- reserved: major 0, all ones, a scope code of 6
theorem word_zero : decode 0 = none := by decide +kernel
theorem word_ones : decode 0xFFFFFFFF = none := by decide +kernel

/-! For every statement with hypotheses, a state and operands that meet them. Scalar side. -/

def r1 : State := regsOf [(2, 5), (3, 0xFFFFFFFFFFFFFFFF), (4, 0x8000000000000000), (5, 0x10000), (6, 2)]

theorem meets_AluResults : aluOf (.add 1 2 3) r1.sreg r1.front.pc = some ([1, 2, 3], 1, 4) ∧ (∀ f ∈ [(1 : BitVec 7), 2, 3], f.toNat < 64) ∧
    aluOf (.sltu 63 0 64) r1.sreg r1.front.pc = some ([63, 0, 64], 63, 0) ∧ (∃ f ∈ [(63 : BitVec 7), 0, 64], 64 ≤ f.toNat) ∧ r1.agent = .hart ∧
    (onAdvice r1).agent = .advice ∧ (onOzsis r1).agent = .ozsis ∧ 64 ≤ (64 : BitVec 7).toNat := by decide +kernel

theorem meets_DivisionNeverTraps : (63 : BitVec 7).toNat < 64 ∧ (r1.sreg 0).toNat = 0 ∧ r1.sreg 4 = BitVec.intMin 64 ∧ r1.sreg 3 = BitVec.allOnes 64 ∧
    (r1.sreg 2).toNat ≠ 0 ∧ (r1.sreg 6 ≠ BitVec.intMin 64 ∨ r1.sreg 2 ≠ BitVec.allOnes 64) ∧ 0 ≤ (r1.sreg 2).toInt ∧ (r1.sreg 4).toInt ≤ 0 := by decide +kernel

theorem meets_AluResults_frame : r1.agent = .hart ∧ aluOf (.add 1 2 3) r1.sreg r1.front.pc = some ([1, 2, 3], 1, 4) ∧ ∃ t, exec (.add 1 2 3) r1 = .next t :=
  ⟨by decide +kernel, by decide +kernel, goes_next (by decide +kernel)⟩

theorem meets_ControlTransfers : branchOf (.blt 3 2 0x400) r1.sreg = some (true, 0x400) ∧ jumpOf (.jalr 1 5 0) r1.sreg r1.front.pc = some (0x10000, 1) ∧
    r1.front.pc.toNat % 4 = 0 ∧ (0x10000 : Word).toNat % 4 = 0 ∧ jumpOf (.jalr 1 5 2) r1.sreg r1.front.pc = some (0x10002, 1) ∧
    (0x10002 : Word).toNat % 4 ≠ 0 ∧ r1.agent = .hart ∧ (onAdvice r1).agent = .advice ∧
    jumpOf (.jalr 1 5 2) (onAdvice r1).sreg (onAdvice r1).front.pc = some (2, 1) ∧ (onAdvice r1).front.pc.toNat % 4 = 0 := by decide +kernel

theorem meets_ControlTransfers_frame : r1.agent = .hart ∧ (∃ t, exec (.jalr 1 5 0) r1 = .next t) ∧ jumpOf (.jalr 1 5 0) r1.sreg r1.front.pc = some (0x10000, 1) ∧
    (∃ t, exec (.beq 0 0 3) r1 = .next t) ∧ branchOf (.beq 0 0 3) r1.sreg = some (true, 3) ∧ branchOf (.bne 0 0 3) r1.sreg = some (false, 3) :=
  ⟨by decide +kernel, goes_next (by decide +kernel), by decide +kernel, goes_next (by decide +kernel), by decide +kernel, by decide +kernel⟩

/-- Loop levels around the instruction at 0x10000: a body that ends at it twice, one that ends later. -/
def levelled (ls : List Level) (lc : Store 64) : State := mach (fun h => { h with front := { h.front with levels := ls, lc := lc } })
def inHandlerState (f : Hart → Hart) : State := mach (fun h => f { h with trap := { h.trap with tstatus := 1, tvec := 0x10100, tepc := 0x10008 } })

theorem meets_LoopInstructions : loopOf (.loop 2 1) r1.sreg = some (5, 1) ∧ (5 : Word) ≠ 0 ∧ loopOf (.loopi 0 1023) r1.sreg = some (0, 1023) ∧ r1.agent ≠ .advice ∧
    r1.inHandler = false ∧ 1 ≤ (1 : BitVec 11).toInt ∧ 1 ≤ (1023 : BitVec 11).toInt ∧ r1.front.levels.length < 3 ∧
    (∀ l ∈ r1.front.levels.head?, (r1.front.pc + 4 * (1 : BitVec 11).signExtend 64).toNat ≤ l.stop.toNat) ∧
    (∀ l ∈ r1.front.levels.head?, l.stop ≠ r1.front.pc + 4 * (1023 : BitVec 11).signExtend 64) ∧
    loopOf (.loop 2 0) r1.sreg = some (5, 0) ∧ (0 : BitVec 11).toInt < 1 ∧ (onAdvice r1).agent = .advice := by decide +kernel

theorem meets_LoopInstructions_traps :
    (∃ l ∈ (levelled [⟨0xFFF0, 0x10004⟩] []).front.levels.head?, l.stop.toNat < (r1.front.pc + 4 * (2 : BitVec 11).signExtend 64).toNat) ∧
    (inHandlerState id).hart.trap.tstatus.getLsbD 0 = true ∧
    3 ≤ (levelled [⟨0xFFF0, 0x10040⟩, ⟨0xFFF0, 0x10040⟩, ⟨0xFFF0, 0x10040⟩] []).front.levels.length ∧
    (levelled [⟨0xFFF0, 0x10040⟩, ⟨0xFFF0, 0x10040⟩, ⟨0xFFF0, 0x10040⟩] []).hart.trap.tstatus.getLsbD 0 = false := by
  refine ⟨⟨_, rfl, ?_⟩, ?_, ?_, ?_⟩ <;> decide +kernel

theorem meets_LoopLevels :
    let s := levelled [⟨0xFFF8, 0x10000⟩, ⟨0xFFF0, 0x10000⟩] [(1, 2)]
    let u := levelled [⟨0xFFF8, 0x10000⟩, ⟨0xFFF0, 0x10004⟩] []
    s.agent ≠ .advice ∧ s.inHandler = false ∧ s.front.levels = ⟨0xFFF8, 0x10000⟩ :: [⟨0xFFF0, 0x10000⟩] ∧ s.front.pc = 0x10000 ∧
    1 < (Store.get zeroOf s.front.lc 1).toNat ∧ (Store.get zeroOf u.front.lc 1).toNat ≤ 1 ∧ (∀ m ∈ [Level.mk 0xFFF0 0x10004].head?, m.stop ≠ u.front.pc) ∧
    r1.front.levels = [] ∧ (0xFFF8 : Word).toNat ≤ (0x10000 : Word).toNat ∧ (0x10000 : Word).toNat < (0x10004 : Word).toNat := by decide +kernel

theorem meets_ScalarLoadsRead : loadOf (.ldd 4 5 8) = some (8, false, 4, 5, 8) ∧ (r1.sreg 5 + (8 : BitVec 11).signExtend 64).toNat % 8 = 0 ∧
    r1.plainLoad (r1.sreg 5 + (8 : BitVec 11).signExtend 64).toNat 8 8 = true ∧ (6 : BitVec 6).toNat % 2 = 0 ∧
    r1.plainLoad (r1.sreg 5 + (0 : BitVec 11).signExtend 64).toNat 16 0 = true ∧
    r1.plainLoad (r1.sreg 5 + BitVec.ofNat 64 (4 * (3 : BitVec 7).toNat)).toNat 4 12 = true := by decide +kernel

theorem meets_ScalarStoresWrite : storeOf (.std 2 5 8) r1.sreg = some (natBytes 5 8, 5, 8) ∧ storeOf (.stp 2 5 16) r1.sreg = some (natBytes 5 8 ++ natBytes (2 ^ 64 - 1) 8, 5, 16) ∧
    r1.plainStore (r1.sreg 5 + (8 : BitVec 11).signExtend 64).toNat 8 8 = true ∧ r1.plainStore (r1.sreg 5 + (16 : BitVec 11).signExtend 64).toNat 16 16 = true ∧
    r1.plainStore (r1.sreg 5 + BitVec.ofNat 64 (4 * (2 : BitVec 7).toNat)).toNat 8 8 = true := by decide +kernel

theorem meets_ScalarAccessTraps : r1.agent = .hart ∧ loadOf (.ldd 4 5 4) = some (8, false, 4, 5, 4) ∧ (r1.sreg 5 + (4 : BitVec 11).signExtend 64).toNat % 8 ≠ 0 ∧
    checkAccess r1 r1.hart.node (r1.sreg 2 + (3 : BitVec 11).signExtend 64).toNat 8 true false false = some (.leaseViolation, 8) ∧
    checkAccess r1 r1.hart.node (r1.sreg 2 + (3 : BitVec 11).signExtend 64).toNat 8 false true false = some (.leaseViolation, 8) ∧
    (r1.sreg 2 + (3 : BitVec 11).signExtend 64).toNat % 8 = 0 := by decide +kernel

/-- The page of r1 with memory type 1. -/
def strong : State := { r1 with nodes := r1.nodes.map (fun n => { n with pages := n.pages.map (fun p => (p.1, p.2 ||| 0x40)) }) }

theorem meets_ScalarAccessTraps_pairs : (5 : BitVec 6).toNat % 2 = 1 ∧ (4 : BitVec 6).toNat % 2 = 0 ∧ (r1.sreg 5 + (4 : BitVec 11).signExtend 64).toNat % 16 ≠ 0 ∧
    (r1.sreg 2 + (11 : BitVec 11).signExtend 64).toNat % 16 = 0 ∧
    checkAccess r1 r1.hart.node (r1.sreg 2 + (11 : BitVec 11).signExtend 64).toNat 16 true false false = some (.leaseViolation, 16) ∧
    (r1.sreg 6 + BitVec.ofNat 64 (4 * (1 : BitVec 7).toNat)).toNat % 4 ≠ 0 ∧ (r1.sreg 0 + BitVec.ofNat 64 (4 * (2 : BitVec 7).toNat)).toNat % 8 = 0 ∧
    checkAccess r1 r1.hart.node (r1.sreg 0 + BitVec.ofNat 64 (4 * (2 : BitVec 7).toNat)).toNat 8 true false false = some (.leaseViolation, 8) ∧
    checkAccess r1 r1.hart.node (r1.sreg 0 + BitVec.ofNat 64 (4 * (2 : BitVec 7).toNat)).toNat 8 false true false = some (.leaseViolation, 8) ∧
    optHas (fun nd => decide (leafMT (leafAt nd (strong.sreg 5).toNat) = 1)) (nodeOf strong strong.hart.node) = true ∧
    checkAccess strong strong.hart.node (strong.sreg 5).toNat 8 true false false = none ∧
    checkAccess strong strong.hart.node (strong.sreg 5).toNat 8 false true false = none := by decide +kernel

/-- Ozsis with a parameter block of an OZHASH, OZVRFY, OZKDF, OZRAND or OZWIPE at 0x40, named by s5. -/
def oz (block : List Nat) : State :=
  onOzsis { State.reset with oz := { State.reset.oz with front := { Front.reset with regs := [(5, 0x40)] },
                                                         mem := Store.write zeroOf [] 0x40 (block.flatMap (fun x => natBytes x 8)), full := [(2, 1)] } }

theorem meets_OzsisExecutes : (oz []).agent = .ozsis ∧ loadOf (.ldd 4 5 8) = some (8, false, 4, 5, 8) ∧
    ((oz []).sreg 5 + (8 : BitVec 11).signExtend 64).toNat % 8 = 0 ∧ ((oz []).sreg 5 + (8 : BitVec 11).signExtend 64).toNat + 8 ≤ 0x80000 ∧
    ozBlock (oz [0, 16, 0x100]) 5 3 = some [0, 16, 0x100] ∧ ozBlock (oz [0, 16, 0x100, 2]) 5 4 = some [0, 16, 0x100, 2] ∧
    ozFull (oz [0, 16, 0x100, 2]) 2 = true ∧ ozFull (oz [0, 16, 0x100, 3]) 3 = false ∧ ozBlock (oz [0, 16, 1]) 5 3 = some [0, 16, 1] ∧
    ozBlock (oz [0x100, 8]) 5 2 = some [0x100, 8] ∧ ozBlock (oz [4]) 5 1 = some [4] ∧ ozBlock (oz [3]) 5 1 = some [3] ∧
    ozBlock (onOzsis (regsOf [(5, 4)])) 6 1 = some [0] ∧
    ozBlock { oz [] with oz := { (oz []).oz with front := { Front.reset with regs := [(5, 4)] } } } 5 3 = none := by decide +kernel

theorem meets_OzsisExecutes_malformed :
    (∀ n ∈ [1, 2, 3, 4], ozBlock { oz [] with oz := { (oz []).oz with front := { Front.reset with regs := [(5, 4)] } } } 5 n = none) ∧
    ozBlock (oz [0x7FFF0, 17, 0]) 5 3 = some [0x7FFF0, 17, 0] ∧ ozBlock (oz [0, 16, 0x7FFE1]) 5 3 = some [0, 16, 0x7FFE1] ∧
    (∀ l ∈ [[0x7FFF0, 17, 0, 1], [0, 16, 0x7F68D, 1], [0, 16, 0x100, 16], [0, 16, 0x100, 0]], ozBlock (oz l) 5 4 = some l) ∧
    (∀ l ∈ [[0x7FFF0, 17, 2], [0, 16, 0], [0, 16, 16]], ozBlock (oz l) 5 3 = some l) ∧ ozBlock (oz [0x7FFF0, 17]) 5 2 = some [0x7FFF0, 17] ∧
    ozBlock (oz [2 ^ 16]) 5 1 = some [2 ^ 16] := by decide +kernel

theorem meets_AtomicsModify : (∃ f, amoOf (.amoadd 4 1 5 2) = some (8, 1, 5, 2, f)) ∧ (∃ f, amoOf (.amoswap32 0 1 5 2) = some (4, 1, 5, 2, f)) ∧
    (r1.sreg 5).toNat % 8 = 0 ∧ r1.plainAtomic (r1.sreg 5).toNat 8 0 = true ∧ r1.plainAtomic (r1.sreg 5).toNat 4 0 = true :=
  ⟨⟨_, rfl⟩, ⟨_, rfl⟩, by decide +kernel, by decide +kernel, by decide +kernel⟩

theorem meets_AtomicsModify_compare : (r1.sreg 5).toNat % 16 = 0 ∧ r1.plainAtomic (r1.sreg 5).toNat 8 0 = true ∧ r1.plainAtomic (r1.sreg 5).toNat 16 0 = true ∧
    memNat r1 0 8 = (r1.sreg 7).toNat ∧ memNat r1 0 8 ≠ (r1.sreg 2).toNat ∧ memNat r1 0 16 = (r1.front.rdPair 8).toNat ∧
    memNat r1 0 16 ≠ (r1.front.rdPair 2).toNat := by decide +kernel

theorem meets_FencesAndCacheMaintenance : fenceOf (.fence 4) = some (true, 4) ∧ fenceOf (.fenceSv 5) = some (false, 5) ∧ r1.agent = .hart ∧ r1.noTransfers = true ∧
    (nodeOf r1 r1.hart.node).isSome = true ∧ 0 < (r1.sreg 6).toNat ∧ (r1.sreg 6).toNat ≤ 2 ^ 32 ∧
    (nodeOf r1 r1.hart.node).map (fun nd => cacheCheck nd (r1.sreg 5).toNat (r1.sreg 6).toNat) = some none ∧
    (nodeOf r1 r1.hart.node).map (fun nd => cacheWaits r1 r1.die nd (r1.sreg 5).toNat (r1.sreg 6).toNat) = some false := by decide +kernel

/-- The die holds the line in a state, with its entry, an NC copy and a count. -/
def caching (st : RdcState) (d : DirState) : State :=
  { r1 with rdc := [⟨0, 0, st, 15, 0, Vector.replicate 4 0, 0, 0, []⟩], dir := [⟨0, d⟩], nc := [⟨0, 1, 0, 1, 0, false, none, false, false⟩], counted := [⟨0, 2, 0, 0⟩] }

theorem meets_FencesAndCacheMaintenance_lines : ∀ x ∈ [(RdcState.m, DirState.owned 0), (.e, .owned 0), (.s, .shared 1)],
    optHas (fun nd => cacheCheck nd ((caching x.1 x.2).sreg 5).toNat ((caching x.1 x.2).sreg 6).toNat == none &&
      !cacheWaits (caching x.1 x.2) (caching x.1 x.2).die nd ((caching x.1 x.2).sreg 5).toNat ((caching x.1 x.2).sreg 6).toNat &&
      lineInRange (caching x.1 x.2) nd ((caching x.1 x.2).sreg 5).toNat ((caching x.1 x.2).sreg 6).toNat 0) (nodeOf (caching x.1 x.2) (caching x.1 x.2).hart.node) = true ∧
    (caching x.1 x.2).die = 0 := by decide +kernel

theorem meets_MonitorWaits :
    let s := mach (fun h => { h with monitor := some 0, front := { h.front with regs := [(2, 5), (5, 0x10000)] } })
    checkAccess r1 r1.hart.node (r1.sreg 5).toNat 1 true false false = none ∧ r1.pageOf (r1.sreg 5).toNat = some (0, placedLeaf) ∧ leafMT placedLeaf = 0 ∧
    leafNC placedLeaf = false ∧ leafEPH placedLeaf = false ∧ isHost (leafPA placedLeaf) = false ∧ r1.hart.monitor = none ∧ s.hart.monitor = some 0 ∧
    s.sreg 2 ≠ 0 ∧ s.sreg 0 = 0 ∧ s.noneReady = true ∧ (mach (fun h => { h with wait := .monwait 2 5 })).hart.wait = .monwait 2 5 := by decide +kernel

/-- The page with another leaf, on a device with the coherent classes of Causeway in use, or not. -/
def leafed (e : Word) (coh : Word) : State :=
  { (mgmtPut r1 0xB0008 coh) with nodes := r1.nodes.map (fun n => { n with pages := [(1, e)] }) }

/-- The byte at 0x10000 passes its checks and has that leaf. -/
def leafAt (e coh : Word) : Bool :=
  checkAccess (leafed e coh) 1 0x10000 1 true false false == none && optHas (fun p => p.2 == e) ((leafed e coh).pageOf 0x10000)

/-- MONARM of a page of memory type 1, of an NC page, of an EPH page, of a host page without HOSTC or without coherent classes traps; of a host-coherent line it arms. -/
theorem meets_MonitorWaits_pages : leafAt 0x79 3 = true ∧ leafAt 0x239 3 = true ∧ leafAt 0x439 3 = true ∧ leafAt 0x8000000000039 3 = true ∧
    leafAt 0x8000000000839 1 = true ∧ leafAt 0x8000000000839 3 = true ∧ leafMT 0x79 = 1 ∧ leafNC 0x239 = true ∧ leafEPH 0x439 = true ∧
    isHost (leafPA 0x8000000000039) = true ∧ leafHOSTC 0x8000000000039 = false ∧ leafHOSTC 0x8000000000839 = true := by decide +kernel

theorem meets_MonitorWaits_coherent : hostCoherent (leafed 0x8000000000839 1) = false ∧ hostCoherent (leafed 0x8000000000839 3) = true ∧
    leafMT 0x8000000000839 ≠ 1 := by decide +kernel

theorem meets_CsrReadsAndWrites : r1.agent = .hart ∧ (0x010, r1.hart.front.wbase.setWidth 64) ∈ csrTable r1 ∧ csrRead r1 0x073 = some 0 ∧
    csrOpOf (.csrs 2 0x020) r1.sreg 0 = some (2, 0x020, 5) ∧ csrRead r1 0x020 = some 0 ∧ (csrWrite r1.hart 0x020 5).isSome = true ∧
    csrOpOf (.csrw 0 0x073) r1.sreg 0 = some (0, 0x073, 0) ∧ (csrWrite r1.hart 0x073 0).isSome = true ∧ r1.front.levels = [] ∧ r1.hart.vlmaxe < 2 ^ 18 := by
  decide +kernel

theorem meets_LstateAndCsrTraps : csrOpOf (.csrw 0 0x014) r1.sreg r1.hart.lstate = some (0, 0x014, 0) ∧ lstateOk 0 = true ∧
    csrOpOf (.csrw 3 0x014) r1.sreg r1.hart.lstate = some (3, 0x014, 0xFFFFFFFFFFFFFFFF) ∧ lstateOk (2 ^ 64 - 1) = false ∧
    csrOpOf (.csrw 64 0x014) r1.sreg 0 = some (64, 0x014, 0) ∧ (csrRead r1 0x014).isSome = true ∧ csrRead r1 0x0FF = none ∧ csrRead r1 0x010 = some 0 ∧ csrWrite r1.hart 0x010 5 = none := by
  decide +kernel

theorem meets_WindowAndMark : r1.agent = .hart ∧ (192 : BitVec 11).toNat % 8 = 0 ∧ (192 : BitVec 11).toNat ≤ 192 ∧ (4 : BitVec 11).toNat % 8 ≠ 0 ∧
    192 < (200 : BitVec 11).toNat := by decide +kernel

theorem meets_TrapEntry : (handled id).agent = .hart ∧ (handled id).hart.trap.tstatus.getLsbD 0 = false ∧ (handled id).hart.trap.tvec ≠ 0 ∧
    Cause.misaligned ∉ [.leaseViolation, .watchdog, .checkMismatch, .dataUncorrectable] := by decide +kernel

theorem meets_TrapEndsTask : r1.agent = .hart ∧ (nodeOf r1 r1.hart.node).isSome = true ∧ (inHandlerState id).hart.trap.tstatus.getLsbD 0 = true := by decide +kernel

theorem meets_ReturnFromTrap : (inHandlerState id).agent = .hart ∧ (inHandlerState id).hart.trap.tstatus.getLsbD 0 = true ∧
    (inHandlerState id).hart.trap.tstatus.getLsbD 1 = false ∧
    (inHandlerState (fun h => { h with trap := { h.trap with tstatus := 3 } })).hart.trap.tstatus.getLsbD 1 = true ∧
    (nodeOf (inHandlerState id) (inHandlerState id).hart.node).isSome = true ∧ r1.hart.trap.tstatus.getLsbD 0 = false := by decide +kernel

/-- Another hart of the same core, parked and ready. -/
def twoHarts : State := { m0 with others := [{ m0.hart with hid := 9, status := .parked }] }

theorem meets_YieldParkAndEnd : (∀ h ∈ m0.others, sameCore h m0.hart = true → h.readyParked = true → h.prio.toNat < m0.hart.prio.toNat) ∧
    (∃ h ∈ twoHarts.others, (∀ g ∈ twoHarts.others, g.hid ≠ twoHarts.hart.hid) ∧ sameCore h twoHarts.hart = true ∧ h.readyParked = true ∧
      twoHarts.hart.prio.toNat ≤ h.prio.toNat) ∧ m0.noneReady = true ∧ (nodeOf m0 m0.hart.node).isSome = true ∧
    (nodeOf m0 m0.hart.node).map (fun nd => decide (nd.nextTask.getD (m0.hart.task.toNat / hdrGroupSize nd.hdr) 0 ≥
      min (hdrTasks nd.hdr) ((m0.hart.task.toNat / hdrGroupSize nd.hdr + 1) * hdrGroupSize nd.hdr))) = some true ∧
    (nodeOf m0 m0.hart.node).map (fun nd => decide (nd.endedTasks + 1 = hdrTasks nd.hdr)) = some true ∧
    optHas (fun x => x.wait == .park 64) (hartOf (mach (fun h => { h with wait := .park 64 })) 1) = true ∧ m0.agent = .hart ∧ (64 : BitVec 12) ≠ 0 := by
  decide +kernel

/-- A node of one group of two tasks, of which the first runs. -/
def twoTasks : State :=
  { m0 with nodes := m0.nodes.map (fun n => { n with hdr := n.hdr.take 3 ++ [0x10, 1] ++ (n.hdr.drop 5).take 11 ++ natBytes 2 4 ++ n.hdr.drop 20 }) }

theorem meets_YieldParkAndEnd_next : twoTasks.agent = .hart ∧ twoTasks.hart.status = .running ∧ twoTasks.hart.out = false ∧
    optHas (fun nd => decide (nd.nextTask.getD (twoTasks.hart.task.toNat / hdrGroupSize nd.hdr) 0 <
      min (hdrTasks nd.hdr) ((twoTasks.hart.task.toNat / hdrGroupSize nd.hdr + 1) * hdrGroupSize nd.hdr))) (nodeOf twoTasks twoTasks.hart.node) = true := by
  decide +kernel

/-! Vector, matrix and distribution side. -/

/-- A hart with vector settings: format code, vl, and what a function adds. -/
def vecs (fmt vl : Nat) (f : Vec → Vec) : State :=
  mach (fun h => { h with front := { h.front with regs := [(2, 5), (5, 0x10000), (6, 2), (8, 0x101), (10, 0x10040), (12, 0x1000), (14, 0x100)] },
                          vec := f { h.vec with vtype := BitVec.ofNat 13 fmt, vl := BitVec.ofNat 18 vl } })
/-- A stream at the page, one bound to register 3, and streams not set. -/
def someStreams (stride : BitVec 32) (fmt : Nat) : List Stream :=
  [⟨0x10000, 0, stride, 0, BitVec.ofNat 8 fmt, true, false, false, 0⟩, ⟨0, 0, 0, 0, 0, false, true, true, 3⟩] ++ List.replicate 14 Stream.zero
def vq (fmt vl : Nat) : State := vecs fmt vl (fun v => { v with streams := someStreams (BitVec.ofNat 32 (fmtEW fmt / 8)) fmt })

theorem meets_VectorConfiguration : vtypeOk 0 = true ∧ vtypeOk 9 = true ∧ (vecs 9 4 id).hart.shapeOk ((vecs 9 4 id).sreg 2).toNat ((vecs 9 4 id).sreg 6).toNat = true := by
  decide +kernel

theorem meets_ElementwiseCompletes :
    let s := vecs 9 4 id
    s.agent = .hart ∧ s.noLaneFault = true ∧ ∃ e, elementOf (.vadd 65 66 67 false) s.hart = some (some e) ∧ (∀ r ∈ e.writes, s.hart.vec.isBound r = false) ∧
      boundWidths s.hart.vec (boundSources s.hart.vec e.srcs) = true ∧
      xBoundReads (s.hart.vec.active e.masked ((boundSources s.hart.vec e.srcs).map (fun p => s.hart.vec.stream p.1))) [] (boundSources s.hart.vec e.srcs)
        s.hart.vec.vrf s = .ok ((s.hart.vec.vrf, []), s) := ⟨rfl, by decide +kernel, _, rfl, by decide +kernel, rfl, rfl⟩

theorem meets_ElementwiseCompletes_refused : elementOf (.vadd 65 66 3 false) (vecs 9 4 id).hart = some none ∧
    ∃ e, elementOf (.vadd 67 66 65 false) (vq 9 4).hart = some (some e) ∧ (∃ r ∈ e.writes, (vq 9 4).hart.vec.isBound r = true) ∧
    ∃ g, elementOf (.vadd 65 66 67 false) (vq 9 4).hart = some (some g) ∧ boundWidths (vq 9 4).hart.vec (boundSources (vq 9 4).hart.vec g.srcs) = false :=
  ⟨rfl, _, rfl, ⟨3, by decide +kernel, by decide +kernel⟩, _, rfl, by decide +kernel⟩

theorem meets_ElementwiseFrame :
    let s := vecs 9 4 id
    ∃ e, elementOf (.vadd 65 66 67 true) s.hart = some (some e) ∧ (∀ r ∈ e.srcs ++ e.writes, s.hart.vec.isBound r = false) ∧ s.noLaneFault = true ∧
      e.dst = .vec 1 8 ∧ 8 ∈ [4, 8, 16, 32, 64] ∧ s.hart.vec.vl.toNat * 8 ≤ 98304 * 8 := ⟨_, rfl, by decide +kernel, by decide +kernel, rfl, by decide +kernel⟩

theorem meets_ElementwiseMasksAndGroups :
    let s := vecs 9 4 id
    (∃ e, elementOf (.vcmpeq 3 66 67 false) s.hart = some (some e) ∧ e.dst = .mask 3 ∧ (∀ r ∈ e.srcs ++ e.writes, s.hart.vec.isBound r = false)) ∧
    (∃ e, elementOf (.vwadd 66 68 69 false) s.hart = some (some e) ∧ e.dst = .group 2 16 ∧ (∀ r ∈ e.srcs ++ e.writes, s.hart.vec.isBound r = false)) ∧
    0 < s.hart.vlmax * 8 / 16 ∧ s.hart.vlmax ≤ 98304 ∧ s.hart.vec.vl.toNat ≤ 16 * (s.hart.vlmax * 8 / 16) :=
  ⟨⟨_, rfl, rfl, by decide +kernel⟩, ⟨_, rfl, rfl, by decide +kernel⟩, by decide +kernel⟩

theorem meets_VectorIntegerArithmetic :
    let s := vecs 9 4 id
    (∃ f, vintOf (.vadds 65 66 67 false) = some (65, 66, 67, false, some true, f)) ∧ (∃ f, vintOf (.vadd 65 66 67 false) = some (65, 66, 67, false, some false, f)) ∧
    (∃ f, vintOf (.vmulh 65 66 67 false) = some (65, 66, 67, false, none, f)) ∧ (∃ f, vwideOf (.vwadd 66 68 69 false) = some (66, 68, 69, false, f)) ∧
    (∃ f, vcmpOf (.vcmplt 15 66 67 false) = some (15, 66, 67, false, f)) ∧ s.hart.vec.isInt = true ∧ s.hart.vec.ew = 8 ∧ s.hart.vec.signed = true ∧
    (∀ r ∈ [(65 : BitVec 7), 66, 67, 68, 69], isV s.hart r = true) ∧ s.noLaneFault = true ∧ s.hart.vec.vl.toNat * s.hart.vec.ew ≤ 98304 * 8 ∧
    vnum 66 % 2 = 0 ∧ vnum 66 + 2 ≤ s.hart.vregs.toNat ∧ vnum 68 ≠ vnum 66 ∧ vnum 69 ≠ vnum 66 + 1 ∧ s.hart.vlmax ≤ 98304 ∧ 0 < s.hart.vlmax * 8 / 16 ∧
    s.hart.vec.vl.toNat ≤ 2 * (s.hart.vlmax * 8 / 16) ∧ (15 : BitVec 7).toNat < 16 ∧ s.hart.vec.active false [] = [0, 1, 2, 3] ∧
    (vecs 0x709 1 id).hart.vec.active false [] = [0] ∧ (vecs 0x709 1 id).hart.vec.ovm ≠ 0 ∧ (vecs 0x1709 1 id).hart.vec.sat = true ∧
    fitsIn 8 true 127 = true ∧ fitsIn 8 true 128 = false ∧ fitsIn 8 true (-128) = true ∧ fitsIn 8 true (-129) = false :=
  ⟨⟨_, rfl⟩, ⟨_, rfl⟩, ⟨_, rfl⟩, ⟨_, rfl⟩, ⟨_, rfl⟩, by decide +kernel⟩

/-- No register is bound to a stream that is not set. -/
theorem unbound (fmt vl : Nat) : ∀ r, (vecs fmt vl id).hart.vec.isBound r = false := by
  intro r
  have : (vecs fmt vl id).hart.vec.streams = List.replicate 16 Stream.zero := rfl
  unfold Vec.isBound Vec.boundTo
  simp only [Vec.stream, this, Option.isSome_eq_false_iff, Option.isNone_iff_eq_none, List.find?_eq_none, Bool.and_eq_true, not_and]
  intro x hx hb
  exfalso
  revert hb
  revert x
  decide

theorem meets_VectorLogicAndPermutes :
    let s := vecs 24 4 id
    (∃ f, vbitOf (.vand 65 66 67 false) = some (65, 66, 67, false, false, f)) ∧ (∃ f, vbitOf (.vfshl 65 66 67 true) = some (65, 66, 67, true, true, f)) ∧
    s.agent = .hart ∧ s.hart.vec.ew = 4 ∧ s.hart.vec.cls ∈ [.sint, .uint, .grouped] ∧ (∀ r ∈ [(65 : BitVec 7), 66, 67], isV s.hart r = true) ∧ s.noLaneFault = true ∧
    s.hart.vec.vl.toNat * 4 ≤ 98304 * 8 ∧ (3 : BitVec 6).toNat < s.hart.vregs.toNat ∧ (0x96 : Nat) = 128 + (0x16 : BitVec 7).toNat ∧ (63 : BitVec 7).toNat < 64 ∧
    getEl s.hart.vec.vrf (vnum 67) 4 0 < s.hart.vlmaxe ∧ s.hart.vec.vstart = 0 ∧ (vecs 0 4 id).hart.vec.cls = .float ∧
    (vecs 9 6 (fun v => { v with vshape := 0x200003 })).hart.vec.vl.toNat =
      (vecs 9 6 (fun v => { v with vshape := 0x200003 })).hart.vec.nrow * (vecs 9 6 (fun v => { v with vshape := 0x200003 })).hart.vec.ncol ∧
    2 * 2 + 1 ∈ (vecs 9 6 (fun v => { v with vshape := 0x200003 })).hart.vec.active false [] := ⟨⟨_, rfl⟩, ⟨_, rfl⟩, by decide +kernel⟩

-- 07 Table 7.6: 460.0 rounds to 448 in f8a, 470.0 to the candidate 480, 2^-10 to 0, all by RNE; 1.0 is exact
theorem meets_RoundingIsCorrect : RoundsTo f8aF 0 false (460, 1) 0x7E ∧ RoundsTo f8aF 0 false (470, 1) 0x7F ∧ RoundsTo f8aF 0 false (1, 1024) 0 ∧
    RoundsTo f8aF 2 true (460, 1) 0x7F ∧ RoundsTo f8aF 3 false (1, 1024) 1 ∧ f8aF.maxFin false = 0x7E ∧ fracEq (magnitude f8aF 0x38) (1, 1) = true ∧
    fracEq (magnitude f8aF 0x7E) (448, 1) = true ∧ fracLt (1, 1024) (magnitude f8aF (2 ^ f8aF.fb)) = true ∧ f8aF ∈ [f32F, f16F, bf16F, f8aF, f8bF] := by
  unfold RoundsTo
  decide +kernel

theorem meets_VectorFloatResults :
    let s := vecs 0 1 id
    (∃ f, vexactOf (.vfadd 65 66 67 false) = some (65, 66, 67, false, false, f)) ∧ (∃ f, vexactOf (.vfnma 65 66 67 false) = some (65, 66, 67, false, true, f)) ∧
    s.agent = .hart ∧ s.hart.vec.fmt ≤ 2 ∧ (∀ r ∈ [(65 : BitVec 7), 66, 67], isV s.hart r = true) ∧ s.noLaneFault = true ∧
    s.hart.vec.vl.toNat * s.hart.vec.ew ≤ 98304 * 8 ∧ s.hart.vec.active false [] = [0] ∧ (vecs 0x700 1 id).hart.vec.ovm ≠ 0 ∧ (15 : BitVec 7).toNat < 16 ∧
    f32F.val 0x7FC00000 = .nan ∧ (f32F.val 0x80000000).isZero = true ∧ f32F.val 0x7F800000 = .inf false ∧ f32F.val 0xFF800000 = .inf true ∧
    (f32F.val 0x3F800000).isFin = true ∧ floatOrder 32 0xBF800000 < 0 ∧ floatOrder 32 0x80000000 = floatOrder 32 0 ∧ floatRank 32 0x80000000 < floatRank 32 0 ∧
    f32F.val 0xBF800000 ≠ .nan ∧ (fracAdd (1, 1) (fracNeg (1, 1))).1 = 0 ∧ (fracAdd (1, 1) (1, 2)).1 ≠ 0 := ⟨⟨_, rfl⟩, ⟨_, rfl⟩, by decide +kernel⟩

theorem meets_VectorConversions :
    let s := vecs 0 4 id
    let n := vecs 0xA0 4 (fun v => { v with scale := [(0, 0x083800)] })
    let q := vecs 0xB9 4 (fun v => { v with scale := [(5, 0x083800)] })
    s.hart.vec.cls ∈ [.float, .narrow, .sint, .uint] ∧ fmtClass (1 : BitVec 5).toNat ∈ [.float, .narrow, .sint, .uint] ∧ fmtEW (1 : BitVec 5).toNat = 16 ∧
    fmtEW (12 : BitVec 5).toNat = 64 ∧ fmtClass (12 : BitVec 5).toNat = .sint ∧ s.hart.vec.ew = 32 ∧ 64 % 32 = 0 ∧ vnum 68 % (64 / 32) = 0 ∧
    vnum 68 + 64 / 32 ≤ s.hart.vregs.toNat ∧ vnum 66 < vnum 68 ∧ s.hart.vlmax * 8 % 64 = 0 ∧ 0 < s.hart.vlmax ∧ s.hart.vec.vl.toNat * 32 ≤ s.hart.vlmax * 8 ∧
    s.hart.vlmax ≤ 98304 ∧ isV s.hart 68 = true ∧ isV s.hart 66 = true ∧ s.noLaneFault = true ∧
    n.hart.vec.fmt ≤ 2 ∧ n.hart.vec.blk ∈ [5, 6, 7] ∧ (n.sreg (12 : BitVec 7).toNat).toNat = 0x1000 ∧ (0x1000 < 2 ^ 13 ∧ 0x1000 / 1024 % 4 = 0 ∧ 0x1000 / 4096 = 1) ∧
    0x1000 % 1024 + (n.hart.vec.vl.toNat - 1) / 2 ^ n.hart.vec.blk ≤ 1023 ∧ (f16F.val ((Store.get zeroOf n.hart.vec.scale 0).toNat % 65536)).isFin = true ∧ (f16F.val ((Store.get zeroOf n.hart.vec.scale 0).toNat % 65536)).isZero = false ∧
    q.hart.vec.cls = .grouped ∧ q.hart.vec.blk ∈ [5, 6, 7] ∧ q.hart.vec.ew = 8 ∧ (q.sreg (2 : BitVec 7).toNat).toNat = 5 ∧
    5 + (q.hart.vec.vl.toNat - 1) / 2 ^ q.hart.vec.blk ≤ 1023 ∧ vnum 68 % (32 / 8) = 0 ∧ vnum 68 + 32 / 8 ≤ q.hart.vregs.toNat ∧ vnum 65 < vnum 68 ∧
    (fracMul (1, 2) (((9 : Nat) : Int) - (0x083800 / 65536 % 256 : Nat), 1)).1 ≠ 0 := by decide +kernel

theorem meets_CompressAndExpand :
    let s := vecs 9 4 id
    s.hart.vec.vstart = 0 ∧ isV s.hart 65 = true ∧ isV s.hart 66 = true ∧ s.hart.vec.isBound 1 = false ∧ s.hart.vec.isBound 2 = false ∧ s.noLaneFault = true ∧
    s.hart.vec.ew ≠ 0 := by decide +kernel

theorem meets_Reductions : (∃ ok f, reductionOf (.vredand 65 66 true) = some (ok, f, 65, 66, true) ∧ ok (vecs 9 4 id).hart.vec = true) ∧
    (∃ ok f, reductionOf (.vfredmax 65 66 false) = some (ok, f, 65, 66, false) ∧ ok (vecs 0 4 id).hart.vec = true) ∧ (vecs 0 4 id).agent = .hart ∧
    (vecs 9 4 id).hart.vec.isInt = true := ⟨⟨_, _, rfl, by decide +kernel⟩, ⟨_, _, rfl, by decide +kernel⟩, by decide +kernel⟩

theorem meets_MaskInstructions : (∃ f, maskOf (.mset 15 6 2) (vecs 9 4 id).hart.vec (vecs 9 4 id).sreg = some (15, true, f)) ∧
    (∃ f, maskOf (.mnot 0 15) (vecs 9 4 id).hart.vec (vecs 9 4 id).sreg = some (0, true, f)) ∧ (15 : BitVec 7).toNat < 16 := ⟨⟨_, rfl⟩, ⟨_, rfl⟩, by decide⟩

/-- A recorded chain of one word, VXOR v6, v6, v6, at 0x10000 behind its VCHAIN #1. -/
def chained : State :=
  let s := vecs 9 4 id
  { s with mem := Store.write memDefault [] 0 (natBytes 0x6C000000 4 ++ natBytes 0x611A3462 4) }

theorem meets_Chains : (chained.sreg 5).toNat % 4 = 0 ∧ ∃ u v l, xFetch (chained.sreg 5).toNat chained = .ok (0x6C000000, u) ∧
    nbits 0x6C000000 25 7 = 0x36 ∧ nbits 0x6C000000 22 3 = 0 ∧ nbits 0x6C000000 0 18 = 0 ∧
    xChainWords ((chained.sreg 5).toNat + 4) (nbits 0x6C000000 18 4 + 1) u = .ok (l, v) ∧ v.noLaneFault = true := by
  refine ⟨by decide +kernel, _, _, _, rfl, by decide, by decide, by decide, rfl, ?_⟩
  rfl

/-- The fetch of a chain from an address outside the lease fails. -/
theorem meets_Chains_fetch : ((vecs 9 4 id).sreg 12).toNat % 4 = 0 ∧
    ∃ u, xFetch ((vecs 9 4 id).sreg 12).toNat (vecs 9 4 id) = .error (.trap .leaseViolation 0x1000 false u) := ⟨by decide +kernel, _, rfl⟩

theorem meets_StreamSettings :
    let s := vq 9 4
    (s.hart.vec.stream 0).bound = false ∧ s.hart.vec.ew ≠ 4 ∧ (vq 24 4).hart.vec.ew = 4 ∧ isV s.hart 66 = true ∧ streamOk s.hart.vec 0 = true ∧
    s.hart.vec.isBound (vnum 66) = false ∧ s.hart.vec.boundTo (vnum 67) = some 1 ∧ isV s.hart 67 = true := by decide +kernel

theorem meets_VectorLoads :
    let s := vq 9 4
    (∃ k, vloadOf (.vld 65 0 false) s = some (65, 0, false, k, true) ∧ k = .unit) ∧ isV s.hart 65 = true ∧ streamOk s.hart.vec 0 = true ∧
    walkOk s.hart .unit = true ∧ walkOk s.hart (.rows 5) = true ∧ s.hart.vec.isBound (vnum 65) = false ∧ injKind s.hart.inj.tinject ≠ 4 ∧ s.counted = [] ∧
    s.hart.vec.active false [s.hart.vec.stream 0] = [0, 1, 2, 3] ∧
    (∀ e ∈ s.hart.vec.active false [s.hart.vec.stream 0], s.localLoad (walkAddr s.hart.vec (s.hart.vec.stream 0) .unit e) (elBytes s.hart.vec.ew) = true ∧
      walkAddr s.hart.vec (s.hart.vec.stream 0) .unit e % elBytes s.hart.vec.ew = 0) := ⟨⟨_, rfl, rfl⟩, by decide +kernel⟩

/-- The state after steps that go through. -/
def after {α : Type} (m : Except Stop (α × State)) (s : State) : State :=
  match m with
  | .ok (_, u) => u
  | .error _ => s

theorem meets_VectorStores :
    let s := vq 9 4
    vstoreOf (.vst 65 0 false) s = some (65, 0, false, .unit, true, none, none) ∧
    vstoreOf (.vstn 65 0 10 false) s = some (65, 0, false, .unit, true, none, some 0x10040) ∧
    vstoreOf (.vstrc 65 0 6 false) s = some (65, 0, false, .unit, true, some 2, none) ∧ elemCheck s (0x10040 : Word).toNat 8 true = none ∧ isV s.hart 65 = true ∧ streamOk s.hart.vec 0 = true ∧
    (∀ e ∈ s.hart.vec.active false [s.hart.vec.stream 0], elemCheck s (walkAddr s.hart.vec (s.hart.vec.stream 0) .unit e) (elBytes s.hart.vec.ew) true = none) ∧
    joinRuns (joinRuns ((s.hart.vec.active false [s.hart.vec.stream 0]).map (fun e => (walkAddr s.hart.vec (s.hart.vec.stream 0) .unit e,
      natBytes (getEl s.hart.vec.vrf (vnum 65) s.hart.vec.ew e) (s.hart.vec.ew / 8))))) = [(0x10000, [0, 0, 0, 0])] ∧
    s.plainStore 0x10000 4 0 = true ∧ passes (xWriteRuns none (storeRuns (decide (s.hart.det ≠ 0)) ((s.hart.vec.active false [s.hart.vec.stream 0]).map
      (fun e => (walkAddr s.hart.vec (s.hart.vec.stream 0) .unit e, natBytes (getEl s.hart.vec.vrf (vnum 65) s.hart.vec.ew e) (s.hart.vec.ew / 8))))) s) = true ∧
    passes (xWriteBytes false 0x10040 (natBytes 4 8) s) = true := ⟨rfl, rfl, rfl, by decide +kernel⟩

/-- Runs of bytes go through, and go through again with the tag that they have raised the RIN to. -/
def goTwice (m : X Unit) (s : State) : Bool := passes (m s) && passes (m (takeTag s.die s (rinOf (after (m s) s) s.die)))

theorem meets_VectorStores_runs :
    let s := vq 9 4
    let u := clearFull false (after (xWriteRuns none [(0x10000, [0, 0, 0, 0])] s) s) [(0x10000, [0, 0, 0, 0])]
    storeRuns (decide (s.hart.det ≠ 0)) ((s.hart.vec.active false [s.hart.vec.stream 0]).map (fun e => (walkAddr s.hart.vec (s.hart.vec.stream 0) .unit e,
      natBytes (getEl s.hart.vec.vrf (vnum 65) s.hart.vec.ew e) (s.hart.vec.ew / 8)))) = [(0x10000, [0, 0, 0, 0])] ∧
    goTwice (xWriteRuns none [(0x10000, [0, 0, 0, 0])]) s = true ∧ (endWalk u.loadDone 0 .unit).noTransfers = true ∧
    passes (xWriteBytes false 0x10040 (natBytes ((endWalk u.loadDone 0 .unit).hart.vec.stream 0).pos.toNat 8) (endWalk u.loadDone 0 .unit)) = true := by decide +kernel

theorem meets_VectorStores_packed :
    let s := vq 24 3
    s.hart.vec.ew = 4 ∧ streamOk s.hart.vec 0 = true ∧ passes (xPackedWrites none (packedWrites ((s.hart.vec.active false [s.hart.vec.stream 0]).map (fun e =>
      (walkAddr s.hart.vec (s.hart.vec.stream 0) .unit e, decide (((s.hart.vec.stream 0).pos.toNat + e) % 2 = 1),
        BitVec.ofNat 8 (getEl s.hart.vec.vrf (vnum 65) 4 e)))) []) s) = true ∧ goTwice (xPackedWrites none (packedWrites ((s.hart.vec.active false [s.hart.vec.stream 0]).map (fun e =>
      (walkAddr s.hart.vec (s.hart.vec.stream 0) .unit e, decide (((s.hart.vec.stream 0).pos.toNat + e) % 2 = 1),
        BitVec.ofNat 8 (getEl s.hart.vec.vrf (vnum 65) 4 e)))) [])) s = true := by decide +kernel

/-- A spill frame of two bytes of ui8 at the page. -/
def framed : State :=
  let s := vecs 9 2 id
  { s with mem := Store.write memDefault [] 0 (spillFrame s.hart.vec 1) }

theorem meets_SpillFillAndScales : framed.noTransfers = true ∧ injKind framed.hart.inj.tinject ≠ 4 ∧ isV framed.hart 65 = true ∧ framed.hart.vec.isBound (vnum 65) = false ∧
    (framed.sreg 5).toNat % 64 = 0 ∧ passes (xFrameCheck (framed.sreg 5).toNat (spillFrame framed.hart.vec (vnum 65)).length true framed) = true ∧
    goTwice (xWriteRuns none [((framed.sreg 5).toNat, spillFrame framed.hart.vec (vnum 65))]) framed = true ∧
    passes (xReadBytes (framed.sreg 5).toNat 64 framed) = true ∧ fmtEW (fieldAt (memBytes framed 0 64) 6 1) ∈ [8, 16, 32, 64] ∧
    fieldAt (memBytes framed 0 64) 0 4 = 0x4C495053 ∧ fieldAt (memBytes framed 0 64) 4 2 = 0x0100 ∧
    fieldAt (memBytes framed 0 64) 12 4 = spillBytes (fieldAt (memBytes framed 0 64) 8 4) (fmtEW (fieldAt (memBytes framed 0 64) 6 1)) ∧
    0 < fieldAt (memBytes framed 0 64) 12 4 ∧ fieldAt (memBytes framed 0 64) 12 4 ≤ framed.hart.vlmax ∧
    passes (xFrameCheck ((framed.sreg 5).toNat + 64) 64 false framed) = true ∧ passes (xReadBytes ((framed.sreg 5).toNat + 64) 64 framed) = true ∧
    (1008 : BitVec 10).toNat + ((15 : BitVec 4).toNat + 1) ≤ 1024 ∧ (framed.sreg 5 + BitVec.ofNat 64 (4 * (15 : BitVec 4).toNat)).toNat % 4 = 0 ∧
    passes (xFrameCheck (framed.sreg 5 + BitVec.ofNat 64 (4 * (15 : BitVec 4).toNat)).toNat 64 false framed) = true := by decide +kernel

/-- A hart with two rows of three columns, integer cells, formats i8 and i8; s8 asks for one row from row 1 on. -/
def mats : State := mach (fun h => { h with
  parts := 1, front := { h.front with regs := [(2, 0x101), (8, 0x101), (9, 0x3F800000)] }, mat := { h.mat with tshape := 0x30002, tfmt := 0x10909 } })

theorem meets_MatrixConfigurationAndMoves :
    let v := 2 + 3 * 2 ^ 8 + 9 * 2 ^ 17 + 9 * 2 ^ 22
    v < 2 ^ 32 ∧ tshapeOk (v % 256 + v / 2 ^ 8 % 512 * 2 ^ 16) = true ∧ tfmtOk (v / 2 ^ 17 % 32 + v / 2 ^ 22 % 32 * 2 ^ 8 + v / 2 ^ 27 % 2 * 2 ^ 16) = true ∧
    tgrpOk (v / 2 ^ 28 % 8 + v / 2 ^ 31 % 2 * 2 ^ 8) = true ∧ (1 : BitVec 7).toNat < 2 * mats.hart.parts.toNat ∧ mats.agent = .hart ∧ isV mats.hart 65 = true ∧
    mats.hart.vec.isBound (vnum 65) = false ∧ (mats.sreg 8).toNat = 0x101 ∧ 0x101 / 256 % 256 ≠ 0 ∧ 0x101 % 256 + 0x101 / 256 % 256 ≤ mats.hart.mat.rows ∧
    mats.hart.mat.rows ≤ 128 ∧ 0 < mats.hart.mat.cols ∧ mats.hart.mat.cols ≤ 256 ∧ mats.hart.vlmax ≤ 98304 ∧ injKind mats.hart.inj.tinject = 0 ∧
    4 * (0x101 / 256 % 256 * mats.hart.mat.cols) ≤ mats.hart.vlmax ∧ (8 : BitVec 7).toNat % 2 = 0 ∧ (mats.sreg 9).toNat < 2 ^ 32 ∧
    max (0x101 / 256 % 256 * mats.hart.mat.cols * (epiOut 0).width / 8) (4 * mats.hart.mat.cols) ≤ mats.hart.vlmax ∧ mats.hart.mat.bad = [] ∧
    Store.get zeroOf (mach (fun _ => { mats.hart with mat := { mats.hart.mat with bad := [(tileKey 1 (1 + 0) 0, 1)] } })).hart.mat.bad
      (tileKey (1 : BitVec 4).toNat (0x101 % 256 + 0) 0) = 1 ∧ (1 : BitVec 2) ≠ 3 := by decide +kernel

theorem meets_OuterProductsCommit : outerOf (.topi 1 65 66 0 0) = some (some .topi, none, 1, 65, 66, 0, 0) ∧
    xOuterCheck (some .topi) none 1 65 66 0 0 mats = .ok (⟨1, .topi, 1, .vreg 1, .vreg 2, 0, 0⟩, mats) ∧ mats.noTransfers = true ∧
    mats.cleanChunks ⟨1, .topi, 1, .vreg 1, .vreg 2, 0, 0⟩ ∧ injKind mats.hart.inj.tinject ≠ 1 ∧ mats.hart.mat.bad = [] ∧ 2 * mats.hart.parts.toNat ≤ (2 : BitVec 4).toNat ∧
    m0.hart.mat.rows = 0 ∧ mats.hart.mat.form ≠ some .top :=
  ⟨rfl, rfl, by decide +kernel, ⟨(by intro a h; cases h), (by intro a h; cases h)⟩, by decide +kernel, by decide +kernel, by decide +kernel, by decide +kernel, by decide +kernel⟩

theorem meets_OuterProductCells :
    mats.hart.mat.rows ≤ 128 ∧ mats.hart.mat.cols ≤ 256 ∧ mats.hart.vlmax ≤ 98304 ∧
    (128 * (1 - 1) + mats.hart.mat.rows) * fmtEW mats.hart.mat.afmt ≤ mats.hart.vlmax * 8 ∧
    (256 * (1 - 1) + mats.hart.mat.cols) * fmtEW mats.hart.mat.bfmt ≤ mats.hart.vlmax * 8 ∧ fmtEW mats.hart.mat.afmt ∈ [4, 8, 16] ∧
    fmtEW mats.hart.mat.bfmt ∈ [4, 8, 16] ∧ mats.hart.mat.afmt = 9 ∧ mats.hart.mat.bfmt = 9 ∧ 1 ∈ activeBelow mats.hart.vec mats.hart.mat.rows 0 ∧
    2 ∈ activeBelow mats.hart.vec mats.hart.mat.cols 0 ∧ 2 ∉ activeBelow mats.hart.vec mats.hart.mat.rows 0 := by decide +kernel

/-- A hart with two elements of distributions and a stream over them. -/
def dists : State := vecs 0 2 (fun v => { v with streams := someStreams 64 0 })

theorem meets_Distributions : (∃ f, distOf (.dadd 1 2 3) dists = some (true, 1, 1, 0, f)) ∧ (∃ f, distReadOf (.dcdf 65 4 2) dists = some (true, 65, 4, f)) ∧
    dists.hart.vec.vl.toNat ≤ dists.hart.dlmax ∧ dists.noLaneFault = true ∧ isV dists.hart 65 = true ∧ dists.hart.vec.isBound (vnum 65) = false ∧
    dists.hart.vec.fmt = 0 ∧ (dists.sreg 2).toNat < 2 ^ 16 ∧ distStream dists.hart.vec 0 = true ∧ dists.counted = [] ∧
    injKind dists.hart.inj.tinject ≠ 4 ∧ (∀ e ∈ dists.hart.vec.active false [dists.hart.vec.stream 0], dists.localLoad (distAddr (dists.hart.vec.stream 0) e) 64 = true) ∧
    (∀ e ∈ dists.hart.vec.active false [dists.hart.vec.stream 0], elemCheck dists (distAddr (dists.hart.vec.stream 0) e) 64 true = none) ∧
    goTwice (xWriteRuns none (storeRuns (decide (dists.hart.det ≠ 0)) ((dists.hart.vec.active false [dists.hart.vec.stream 0]).map (fun e => (distAddr (dists.hart.vec.stream 0) e,
        natBytes (pointsNat (dists.hart.dist.points 2 e)) 64))))) dists = true := ⟨⟨_, rfl⟩, ⟨_, rfl⟩, by decide +kernel⟩

theorem meets_Distributions_refused : ∃ f, distOf (.dadd 16 2 3) dists = some (false, 1, 16, 0, f) := ⟨_, rfl⟩

theorem meets_PairingKeepsMass : massOf (List.replicate 8 (0, 2 ^ 21)) = 2 ^ 24 ∧ (List.replicate 8 ((0 : Nat), (2 ^ 21 : Nat))).length = 8 := by decide

/-! Engines, barriers, intervals, advice, steps and events. -/

/-- The page with some bytes stored. -/
def held (l : List (Nat × List Byte)) : State :=
  let s := regsOf [(5, 0x10000), (6, 0x10040), (7, 0x300000002), (8, 0x8000000000001000), (9, 0x50001), (10, 7), (11, 0x50000), (12, 1)]
  { s with mem := l.foldl (fun m p => Store.write memDefault m p.1 p.2) [] }

/-- A block that copies 16 bytes from 0x10100 to 0x10200, and one with no bytes; a barrier object at 0x10040. -/
def copyBlock (n : Nat) : List Byte :=
  natBytes 0x10100 8 ++ natBytes 0x10200 8 ++ natBytes n 4 ++ natBytes 1 4 ++ natBytes 1 4 ++ natBytes 0 4 ++ List.replicate 32 0
def barred (o : Nat) : State := held [(0, copyBlock 16), (0x40, natBytes o 16)]
def copies : State := barred 8194
/-- A gather of two entries of 8 bytes. -/
def gatherBlock : List Byte :=
  natBytes 0x10100 8 ++ natBytes 0x10200 8 ++ natBytes 0x10300 8 ++ natBytes 2 4 ++ natBytes 8 4 ++ natBytes 4 4 ++ natBytes 0 4 ++ List.replicate 24 0
/-- An all-reduce of two words between chips 0 and 1. -/
def collBlock : List Byte :=
  natBytes 0x10100 8 ++ natBytes 0x10200 8 ++ natBytes 2 4 ++ natBytes 2 1 ++ natBytes 0 1 ++ natBytes 19 1 ++ natBytes 0 1 ++ natBytes 3 8 ++ natBytes 7 8 ++
    List.replicate 16 0

theorem meets_EngineCommandsAndEvents_issue :
    copies.barrierOpen (copies.sreg 6) = true ∧ copies.plainLoad (copies.sreg 5).toNat 64 0 = true ∧
    copyFields (memBytes copies 0 64) = some ([⟨false, 0x10100, 0x1010F, false⟩, ⟨false, 0x10200, 0x1020F, true⟩], 16) ∧
    passes (xExtents false [⟨false, 0x10100, 0x1010F, false⟩, ⟨false, 0x10200, 0x1020F, true⟩] copies) = true ∧
    copyFields (copyBlock 0) = none ∧ (gatherFields gatherBlock).isSome = true ∧ (collFields collBlock 3).isSome = true ∧
    barSpad (copies.sreg 6) = false ∧ checkAccess copies copies.hart.node (copies.sreg 5).toNat 64 true true false = none ∧
    engineFull copies (newTransfer copies .copy (memBytes copies 0 64) (copies.sreg 5) (copies.sreg 6)
      [⟨false, 0x10100, 0x1010F, false⟩, ⟨false, 0x10200, 0x1020F, true⟩] 16) = false ∧
    copies.hart.trap.tstatus.getLsbD 0 = false ∧ (handled id).hart.trap.tvec ≠ 0 := by decide +kernel

theorem meets_EngineCommandsAndEvents_commands : commandOf (.xcopy 5 6) copies = some (.copy, 5, 6, copyFields) ∧
    commandOf (.xgath 5 6) copies = some (.gather, 5, 6, gatherFields) := ⟨rfl, rfl⟩

/-- A transfer of the hart, with some of its bytes counted. -/
def transferOf (k : EngineKind) (b : List Byte) (total done : Nat) : Transfer :=
  ⟨0, k, 1, 1, 0, 0, 0, b, 0x10000, 0x10040, 0, 0, total, done, false, [⟨false, 0x10100, 0x1010F, false⟩, ⟨false, 0x10200, 0x1020F, true⟩], 0, false, [], [], []⟩
def moving (k : EngineKind) (b : List Byte) (total done : Nat) : State := { copies with transfers := [transferOf k b total done], nextXfer := 1 }
/-- The same collective with the commands of chip 1, and a wait that is bounded. -/
def collective (rop : BitVec 8) : State :=
  let s := mgmtPut (mgmtPut (moving .coll collBlock 8 0) 0x90010 3) 0xA0440 100
  { s with peers := [⟨1, 3, 7, 2, rop, 19, 2, List.replicate 8 1, 1, 0⟩] }

theorem meets_EngineCommandsAndEvents_step :
    let s := moving .copy (copyBlock 16) 16 0
    let t := transferOf .copy (copyBlock 16) 16 0
    s.transfers.find? (fun x => decide (x.num = t.num)) = some t ∧ isHead s t = true ∧ passes (xferStep t s) = true ∧
    (moving .copy (copyBlock 16) 16 16).transfers.find? (fun x => decide (x.num = 0)) = some (transferOf .copy (copyBlock 16) 16 16) := by decide +kernel

theorem meets_EngineCommandsAndEvents_collective :
    let t := transferOf .coll collBlock 8 0
    (∀ rop ∈ [(0 : BitVec 8), 1], (∀ c ∈ otherMembers (collective rop) t.block, (peerOf (collective rop) t c).isSome = true) ∧
      firstOfHart (collective rop) t = true) ∧ (collPeers (collective 0) t).all (peerAgrees t.block) = true ∧
    passes (xCollRun t (collPeers (collective 0) t) (collective 0)) = true ∧ (collPeers (collective 1) t).all (peerAgrees t.block) = false ∧
    passes (xCollEnd t 63 (collective 1)) = true ∧ mgmtGet (collective 0) 0xA0440 ≠ 0 ∧
    (∃ c ∈ otherMembers (collective 0) t.block, peerOf { collective 0 with peers := [] } t c = none) ∧
    passes (xCollEnd t 62 { collective 0 with peers := [] }) = true := by decide +kernel

/-- A barrier object of two arrivals, of which `n` are to come, with its phase 1, and bytes to come. -/
def barWith (n bytes : Nat) : Nat := 2 + n * 2 ^ 12 + 2 ^ 24 + 5 * 2 ^ 32 + bytes * 2 ^ 64

theorem meets_Barriers :
    (barred 0).barrierOpen ((barred 0).sreg 6) = true ∧ ((barred 0).sreg 7).toNat / 2 ^ 12 % 2 ^ 20 = 0 ∧
    (barred 0).barrierOpen ((barred 0).sreg 8) = true ∧ barSpad ((barred 0).sreg 8) = true ∧
    (barred (barWith 2 0)).barrierAt ((barred 0).sreg 6) (barWith 2 0) = true ∧ (1 : BitVec 4).toNat < barApend (barWith 2 0) ∧
    (2 : BitVec 4).toNat = barApend (barWith 2 0) ∧ barBpend (barWith 2 0) = 0 ∧ (barred (barWith 2 9)).barrierAt ((barred 0).sreg 6) (barWith 2 9) = true ∧
    0 < barBpend (barWith 2 9) ∧ barApend (barWith 2 0) < (15 : BitVec 4).toNat ∧ ((barred 0).sreg 10).toNat < 2 ^ 32 ∧
    barBpend (barWith 2 9) + ((barred 0).sreg 10).toNat < 2 ^ 32 ∧
    (barred (barWith 2 (2 ^ 32 - 1))).barrierAt ((barred 0).sreg 6) (barWith 2 (2 ^ 32 - 1)) = true ∧
    2 ^ 32 ≤ barBpend (barWith 2 (2 ^ 32 - 1)) + ((barred 0).sreg 10).toNat ∧
    (∀ o ∈ [0, barWith 2 0, barWith 2 9], (barred o).barrierRoom ((barred 0).sreg 6) = true) ∧ (barred 0).barrierRoom ((barred 0).sreg 8) = true := by
  decide +kernel

/-- An object whose sector has a tag of a later interval: reading it raises the RIN. -/
theorem meets_Barriers_receives :
    let s := { (barred 0) with vs := [⟨1, 0, false, 5, true, false, none, false, none, none⟩] }
    barSpad (s.sreg 6) = false ∧ optHas (fun p => decide (p.1 / 64 = 1)) (s.pageOf (s.sreg 6).toNat) = true ∧ (∀ y ∈ s.vs, y.sector = 1 ∧ y.undo = true ∧ y.tag = 5) ∧
    rinBefore (rinOf s s.die) 5 = true ∧ s.vs ≠ [] := by decide +kernel

theorem meets_Barriers_waits :
    let o := barWith 2 0
    let v := o + 2 ^ 28
    ((barred o).sreg 9).toNat / 16 % 2 ^ 12 = 0 ∧ (barred v).barrierAt ((barred v).sreg 6) v = true ∧ barOvr v = true ∧ barOvr o = false ∧
    barPhase o ≠ ((barred o).sreg 11).toNat % 16 ∧ barPhase o = ((barred o).sreg 9).toNat % 16 ∧ ((barred o).sreg 9).toNat / 2 ^ 16 ≠ 0 ∧
    barPhase o = ((barred o).sreg 12).toNat % 16 ∧ ((barred o).sreg 12).toNat / 2 ^ 16 = 0 ∧ (barred o).noneReady = true := by decide +kernel

/-- A hart that sleeps at the object at 0x10040, waiting for the end of phase 1. -/
def asleep (o : Nat) : State := { (barred o) with hart := { (barred o).hart with status := .waiting, wait := .bwait 4 0x10040 1 5 false } }

theorem meets_Barriers_wakes : (asleep (barWith 2 0)).hart.wait = .bwait 4 0x10040 1 5 false ∧ (asleep (barWith 2 0)).hart.out = false ∧
    barRzClear (barObject (asleep (barWith 2 0)) (asleep (barWith 2 0)).hart 0x10040) = true ∧ (5 : BitVec 48) ≠ BitVec.allOnes 48 ∧
    barOvr (barObject (asleep (barWith 2 0)) (asleep (barWith 2 0)).hart 0x10040) = false ∧
    barPhase (barObject (asleep (barWith 2 0)) (asleep (barWith 2 0)).hart 0x10040) = (1 : BitVec 4).toNat ∧
    optHas (fun r => !r.2.1) (barRead (asleep (barWith 2 0)) (whoHart (asleep (barWith 2 0)).hart) 0x10040) = true ∧
    barOvr (barObject (asleep (barWith 2 0 + 2 ^ 28)) (asleep (barWith 2 0 + 2 ^ 28)).hart 0x10040) = true := by decide +kernel

/-- A hart with an unreleased irrevocable write; a hart of a deterministic node. -/
def irrevocable : State := { m0 with egress := [⟨0, 0, 0, 0, none, false, 5, 0, 0, some 1, none⟩] }
def detNode (s : State) (m : BitVec 8) : State :=
  { s with hart := { s.hart with det := m.setWidth 2 }, nodes := s.nodes.map (fun n => { n with hdr := n.hdr.take 15 ++ m :: n.hdr.drop 16 }) }

theorem meets_IntervalsAndPhases : m0.agent = .hart ∧ m0.noTransfers = true ∧ m0.rollingBack = false ∧ m0.noneReady = true ∧
    newestTag (ownEgress m0 m0.hart.hid) = none ∧ newestTag (ownEgress irrevocable irrevocable.hart.hid) = some 5 ∧ irrevocable.noTransfers = true ∧
    { m0 with hart := { m0.hart with wait := .sealWait 4 0 false } }.hart.wait = .sealWait 4 0 false ∧ m0.hart.out = false ∧
    rinUpTo 0 m0.sealedRin = true ∧ (∀ e ∈ m0.egress, e.hid ≠ some m0.hart.hid) ∧ m0.others.all (fun h => !sealMet m0 h) = true ∧
    m0.hart.det = 0 ∧ (detNode m0 1).hart.det ≠ 0 ∧ (detNode m0 1).noTransfers = true ∧ (detNode m0 1).noneReady = true := by decide +kernel

/-- Its task has arrived. -/
def arrivedAll (m : BitVec 8) : State :=
  let s := detNode m0 m
  { s with hart := { s.hart with status := .waiting, wait := .dbar, detm := { s.hart.detm with arrived := true } } }

theorem meets_IntervalsAndPhases_merge : ∀ m ∈ [(1 : BitVec 8), 2],
    optHas (fun nd => decide (nd.num = 1 ∧ hdrDet nd.hdr ≠ 0 ∧ (hdrDet nd.hdr = 2 → detCheck (arrivedAll m) nd = none))) (nodeOf (arrivedAll m) 1) = true ∧
    phaseFull (arrivedAll m) 1 = true := by decide +kernel

/-- An advice context of the hart with n actions, with registers. -/
def advised (f : Advice → Advice) : State :=
  let s := onAdvice m0
  { s with hart := { s.hart with adv := f { s.hart.adv with status := .ready, wdog := 5, front := { s.hart.adv.front with regs := [(2, 2), (5, 0x10000)] } } } }

theorem meets_AdviceInstructions : (advised id).agent = .advice ∧ (advised id).hart.adv.actions < (advised id).lead ∧ (1 : BitVec 4).toNat ≤ 2 ∧
    optHas (fun nd => decide (leaseFail nd ((advised id).sreg 5).toNat ((advised id).sreg 2).toNat false false false = none))
      (nodeOf (advised id).retire (advised id).retire.hart.node) = true ∧
    0 < ((advised id).sreg 2).toNat ∧ ((advised id).sreg 5).toNat % 65536 + ((advised id).sreg 2).toNat ≤ 65536 ∧
    ((advised id).retire.placeQ.filter (fun q => q.die == BitVec.ofNat 2 (advised id).retire.die)).length < 256 ∧
    (advised (fun a => { a with actions := 100000 })).lead ≤ (advised (fun a => { a with actions := 100000 })).hart.adv.actions ∧
    (aldRead (advised id) ((advised id).sreg 5 + (0 : BitVec 11).signExtend 64)).isSome = true ∧
    aldRead (advised id) ((advised id).sreg 2 + (0 : BitVec 11).signExtend 64) = none := by decide +kernel

theorem meets_AdviceInstructions_waits : (advised id).hart.pmOcc.toNat < (1 : BitVec 7).toNat ∧ (0 : BitVec 7).toNat ≤ (advised id).hart.pmOcc.toNat ∧
    (advised id).hart.pmOcc.toNat < ((advised id).sreg 2).toNat % 2 ^ 48 ∧ (advised id).hart.adv.status ≠ .none ∧
    (advised (fun a => { a with status := .waiting, markId := some 3 })).hart.adv.status = .waiting ∧
    (advised (fun a => { a with status := .waiting, markId := some 3 })).hart.adv.markId = some 3 ∧
    (advised (fun a => { a with wdog := 0 })).hart.adv.status = .ready ∧ (advised (fun a => { a with wdog := 0 })).hart.adv.wdog = 0 := by decide +kernel

theorem meets_WordsOfOtherAgents : (Instr.aend).isWord = true ∧ adviceWord .aend = true ∧ (ozsisWordOf (.ozhash 1)).isSome = true ∧ m0.agent = .hart ∧
    (onAdvice m0).agent = .advice ∧ sequencerWord (.vadd 65 66 67 false) = false ∧ (Instr.vadd 65 66 67 false).isWord = true := by decide +kernel

/-- What a turn runs has a property. -/
def turnHas (f : State → Bool) (x : Turn) : Bool :=
  match x with
  | .run t => f t
  | _ => false

theorem turnHas_run {f : State → Bool} {x : Turn} (h : turnHas f x = true) : ∃ t, x = .run t ∧ f t = true := by
  cases x with
  | run u => exact ⟨u, rfl, h⟩
  | event _ _ => cases h
  | idle _ => cases h

theorem meets_StepRunsTheWord_hart : ∃ t, takeTurn (placed State.reset 0x02040302 .hart) = .run t ∧
    ((t.agent == .hart) && decide (t.hart.front.pc.toNat % 64 + 4 ≤ 64) && decide (checkAccess t t.hart.node t.hart.front.pc.toNat 4 false false true = none) &&
      t.plainAt t.hart.front.pc.toNat 0 && t.counted.isEmpty && (cohFetch t t.die (0 / 64)).isSome) = true := turnHas_run (by decide +kernel)

theorem meets_StepRunsTheWord_violation : ∃ t, takeTurn (mach (fun h => { h with front := { h.front with pc := 0x30000 } })) = .run t ∧
    ((t.agent == .hart) && (checkAccess t t.hart.node t.hart.front.pc.toNat 4 false false true).isSome) = true := turnHas_run (by decide +kernel)

theorem meets_StepRunsTheWord_advice : ∃ t, takeTurn (placed State.reset 0 .advice) = .run t ∧
    ((t.agent == .advice) && decide ((t.hart.adv.front.pc - t.hart.adv.text).toNat < t.hart.adv.textSize) && decide (t.hart.adv.front.pc.toNat % 4 = 0) &&
      (t.pageOf t.hart.adv.front.pc.toNat == some (0, placedLeaf)) && !poisonAt t 0) = true := turnHas_run (by decide +kernel)

theorem meets_StepRunsTheWord_ozsis : ∃ t, takeTurn { State.reset with agent := .ozsis, boot := .running, sched := [] } = .run t ∧
    ((t.agent == .ozsis) && decide (t.oz.front.pc.toNat % 4 = 0) && decide (t.oz.front.pc.toNat + 4 ≤ 0x80000)) = true := turnHas_run (by decide +kernel)

theorem meets_StepRunsTheWord_event : { State.reset with sched := [], pending := [Instr.sealTimer] }.sched = [] ∧
    { State.reset with sched := [], pending := [Instr.sealTimer] }.pending = [Instr.sealTimer] ∧ Instr.sealTimer ∉ [Instr.rollback, .rstCtlCold, .rstCtlWarm] := by decide +kernel

theorem meets_WordsOfOtherAgents_reserved : (0xAE000000 : BitVec 32).toNat / 2 ^ 25 = 0x57 ∧ 0x58 ≤ (0xB0000000 : BitVec 32).toNat / 2 ^ 25 ∧
    (0x3E000000 : BitVec 32).toNat / 2 ^ 25 = 0x1F ∧ m0.agent = .hart ∧ (onAdvice m0).agent = .advice := by decide +kernel

theorem meets_EncodeDecodeRoundTrip : (Instr.vadd 65 66 67 true).isWord = true ∧ (Instr.vadd 65 66 67 true).wf = true := by decide +kernel

/-- An XOR of registers placed at 0x10000 after reset is a step that answers a next state. -/
theorem meets_MemoryStaysCanonical : (placed State.reset 0x0A040302 .hart).Inv ∧ ∃ t, step (placed State.reset 0x0A040302 .hart) = .next t :=
  ⟨by unfold State.Inv; decide +kernel, goes_next (by decide +kernel)⟩

/-! Events. -/

theorem meets_HartEvents : m0.hart.resident = true ∧ mgmtGet m0 0x70010 ≠ 0 ∧ (nodeOf m0 m0.hart.node).isSome = true ∧
    optHas (fun x => x.resident && !x.out) (hartOf m0 1) = true ∧ isDeviceMem (0x40 : BitVec 52).toNat = true ∧ (0x40 : BitVec 52).toNat < 2 ^ 28 ∧
    optHas (fun x => x.resident && x.status != .running && x.wait != .retry) (hartOf twoHarts 9) = true ∧
    (∀ t ∈ twoHarts.transfers, t.hid ≠ 9) ∧
    optHas (fun x => !x.holdsSlot && decide (x.mat.bad = []) && (match savePlace twoHarts x with
      | .ok _ => true
      | .error _ => false)) (hartOf twoHarts 9) = true := by decide +kernel

/-- A hart that has been launched and is not resident; one that is switched out. -/
def arriving : State := { m0 with hart := Hart.absent, arrivals := [m0.hart] }
def saved : State :=
  let h := { m0.hart with status := .parked, out := true, saveAt := 0x100000 }
  { m0 with hart := h, mem := Store.write memDefault m0.mem h.saveAt (h.saveHeader 0) }
/-- A core whose hart has parked while a hart of another logical core placed on it is ready. -/
def sharing : State :=
  { (mgmtPut m0 0x20008 0) with hart := { m0.hart with status := .parked }, others := [{ m0.hart with hid := 9, lcore := 1, status := .parked, out := true }] }

theorem meets_HartEvents_places : (∃ x, arriving.arrivals.find? (fun y => decide (y.hid = 1)) = some x ∧ (residentPlace arriving x).isSome = true) ∧
    optHas (fun x => x.out && x.alive && decide (poisonIn saved x.saveAt x.saveSize = none) && headerValid (memBytes saved x.saveAt x.saveSize) &&
      (residentPlace saved (restoredHart saved x (memBytes saved x.saveAt x.saveSize))).isSome && !vsFull saved (homeDie x.saveAt)) (hartOf saved 1) = true ∧
    optHas (fun x => x.out && x.alive && decide (poisonIn { saved with mem := [] } x.saveAt x.saveSize = none) &&
      !headerValid (memBytes { saved with mem := [] } x.saveAt x.saveSize)) (hartOf { saved with mem := [] } 1) = true ∧
    nextCore sharing 0 0 (((coreHarts sharing 0 0).head?.map (fun h => h.lcore.toNat % 64)).getD 63) = some 1 ∧
    ((coreHarts sharing 0 0).head?.map (fun h => h.lcore.toNat % 64)).getD 63 = 0 ∧ passes (xSwitchOut (coreHarts sharing 0 0) sharing) = true := by
  refine ⟨optHas_some (by decide +kernel), ?_⟩
  decide +kernel

/-- Page 1 of every address space of slot 0 leads to physical page 0 with a leaf. -/
def mapped (leaf : Nat) (l : List (Nat × List Byte)) (s : State) : State :=
  let tab := [(0x20000, 0x22003), (0x22000, 0x24003), (0x24000, 0x26003), (0x26000, 0x28003), (0x28008, leaf)]
  let m := tab.foldl (fun m p => Store.write memDefault m p.1 (natBytes p.2 8)) s.mem
  mgmtPut { s with mem := l.foldl (fun m p => Store.write memDefault m p.1 p.2) m } 0x30000 0x20000

/-- Graph slot 0 enabled with its word at 0x10008 armed. -/
def graphed (l : List (Nat × List Byte)) : State :=
  let s := mapped 0x39 l State.reset
  mgmtPut { s with graphs := s.graphs.set 0 ⟨some 0x10008, 0, []⟩ } 0x10000 1

theorem meets_SchedulerEvents_armed : ∀ v ∈ [0, 0x10100], let s := graphed [(8, natBytes v 8)]
    armedOf s 0 = some 0x10008 ∧ s.boot = .running ∧ s.fw = .idle ∧ graphOn s 0 = true ∧ graphHalted s 0 = false ∧
    (match schedBytes s (asidOf s (0 : BitVec 6).toNat) (0x10008 : Word).toNat 8 with
     | .ok l => decide (bytesNat l = v)
     | .error _ => false) = true ∧ (∀ x ∈ s.nodes, x.slot = 0 → x.addr = 0x10100 → x.state.live = false) := by decide +kernel

/-- A node's copy from its fields, as (offset, bytes). -/
def nodeRaw (fs : List (Nat × List Byte)) : List Byte := fs.foldl (fun r f => r.take f.1 ++ f.2 ++ r.drop (f.1 + f.2.length)) (natBytes 0x100 2 ++ List.replicate 254 0)
/-- A node of slot 0 at 0x10100 with its copy, in a state. -/
def nodeAt (st : NodeState) (raw : List Byte) : Node := { placedNode 1 .hart with addr := 0x10100, state := st, raw := raw, pages := [], lease := [], cores := [] }
def withNode (nd : Node) (l : List (Nat × List Byte)) : State := { (graphed l) with nodes := [nd], nextNode := 2 }

/-- A tiny kernel: launch header at 0x10200, text of one word at 0x10300. -/
def kernelRaw : List Byte := nodeRaw [(2, [1]), (0x20, natBytes 0x10200 8), (0x28, natBytes 0x10400 8), (0x40, natBytes 0x10300 8)]
def semHeader : List Byte := natBytes 0x4D455343 4 ++ natBytes 0x0100 2 ++ List.replicate 6 0 ++ natBytes 4 4 ++ List.replicate 48 0
def kernelNode (st : NodeState) : Node := { nodeAt st kernelRaw with sem := semHeader ++ List.replicate 64 0 }

theorem meets_SchedulerEvents_ready :
    let k := withNode (kernelNode .ready) []
    let c := withNode (nodeAt .ready (nodeRaw [(2, [2]), (0x31, [8]), (0x20, natBytes 0x10008 8)])) []
    let b := withNode (nodeAt .ready (nodeRaw [(2, [9])])) []
    (nodeOf k 1).map nodeCause = some 0 ∧ (nodeOf k 1).map Node.kind = some 1 ∧ (nodeOf c 1).map nodeCause = some 0 ∧ (nodeOf c 1).map Node.kind = some 2 ∧
    (nodeOf k 1).map Node.resWait = some false ∧ (nodeOf b 1).map nodeCause ≠ some 0 ∧ graphOn k 0 = true ∧ graphHalted k 0 = false ∧
    admissionOpen k = true ∧ admissionOpen { k with fw := .quiesce 0 0 } = false ∧ admissionOpen { k with leaseHeld := true } = false := by decide +kernel

theorem meets_SchedulerEvents_posted :
    let s := withNode { nodeAt .posted [] with arrivals := 1 } [(0x100, nodeRaw [(2, [7])])]
    optHas (fun nd => !nd.copied && (match copyNode s nd with
      | .ok x => decide (x.kind ≠ 5 ∧ x.arrivals = 1)
      | .error _ => false)) (nodeOf s 1) = true := by decide +kernel

theorem meets_SchedulerEvents_admitted :
    let s := withNode (kernelNode .ready) []
    let nd := kernelNode .ready
    let u := applyRemap s
    let ps := leasePages u (asidOf u nd.slot.toNat) (planDie (planOf u nd)) nd.newLease
    admittable s nd = true ∧ admissionOpen s = true ∧ planOk nd (planOf u nd) = true ∧ poisonedWalk ps = none ∧ absentPages ps = [] ∧
    (leavesOf ps).any (fun e => systemArea (leafPA e.2)) = false ∧ misplaced u nd ps = [] ∧
    optHas (fun m => decide (m.num = 1)) (leastBy (admitKey u) (u.nodes.filter (admissible u))) = true := by decide +kernel

theorem meets_SchedulerEvents_control : ∀ k ∈ [(2 : BitVec 8), 3, 4],
    let nd := nodeAt .running (nodeRaw [(2, [k]), (0x31, [8]), (0x32, [1]), (0x20, natBytes 0x10008 8)])
    let s := withNode nd []
    nd.word 0x20 % fieldAt nd.raw 0x31 1 = 0 ∧ nd.kind = k.toNat ∧
    (match schedBytes s (asidOf s nd.slot.toNat) (nd.word 0x20) (fieldAt nd.raw 0x31 1) with
     | .ok _ => true
     | .error _ => false) = true := by decide +kernel

/-- A SIGNAL node, and its page with memory type 1. -/
def signalNode : Node := nodeAt .running (nodeRaw [(2, [6]), (0x20, natBytes 0x10010 8), (0x28, natBytes 5 8)])
def signalling (leaf : Nat) : State :=
  { (mgmtPut { (mapped leaf [] State.reset) with nodes := [signalNode] } 0x10000 1) with nextNode := 2 }
def walkHas (f : Word → Bool) (w : Walk) : Bool :=
  match w with
  | .leaf e => f e
  | _ => false

theorem meets_SchedulerEvents_signal : signalNode.state = .running ∧ signalNode.kind = 6 ∧ signalNode.word 0x20 % 8 = 0 ∧
    walkHas (fun e => leafW e && leafRD e && decide (leafMT e ≠ 1) && !isHost (leafPA e + signalNode.word 0x20 % 65536) &&
      !poisonAt (signalling 0x39) (leafPA e + signalNode.word 0x20 % 65536) && !vsFull (signalling 0x39) (homeDie (leafPA e + signalNode.word 0x20 % 65536)) &&
      (cohWrite (signalling 0x39) (homeDie (leafPA e + signalNode.word 0x20 % 65536)) ((leafPA e + signalNode.word 0x20 % 65536) / 256)
        ((leafPA e + signalNode.word 0x20 % 65536) / 64)).isSome)
      (walk (signalling 0x39) (asidOf (signalling 0x39) 0) (signalNode.word 0x20 / 65536)) = true ∧
    walkHas (fun e => leafW e && leafRD e && decide (leafMT e = 1)) (walk (signalling 0x79) (asidOf (signalling 0x79) 0) (signalNode.word 0x20 / 65536)) = true ∧
    egFull (signalling 0x79) 0 1 = false := by decide +kernel

/-- Nodes that end, and a SEALED one. -/
theorem meets_SchedulerEvents_ends :
    let nop := nodeAt .running (nodeRaw [(2, [7])])
    let k := { kernelNode .running with hdr := placedHeader, endedTasks := 1 }
    let d := nodeAt .sealed (nodeRaw [(2, [7])])
    nop.nextWait = .none ∧ nop.kind ≠ 1 ∧ k.nextWait = .none ∧ k.kind = 1 ∧ hdrDet k.hdr = 0 ∧ hdrTasks k.hdr ≤ k.endedTasks ∧
    (∀ x ∈ (withNode k []).transfers, x.node ≠ 1) ∧ canRetire (withNode d []) d = true ∧ State.reset.graphs.length = 64 ∧
    (0x1 : Word).getLsbD 0 = true ∧ graphOn State.reset 3 = false ∧ (0x2 : Word).getLsbD 0 = false := by decide +kernel

/-- An invalidation of page 1 of address space 0 in progress, once with nothing that waits, once behind a node. -/
def invalidating (w : List Nat) : State := { m0 with inval := some ⟨0, 1, 1, false, w⟩ }
/-- Page 1 of address space 0 lies at 0x6000000 on die 0, from its own table. -/
def movable : State := mapped 0x6000039 [] State.reset

theorem meets_ManagementEvents : State.reset.resQ = [] ∧ (∀ x ∈ State.reset.nodes, x.cwWait = []) ∧
    (mgmtGet (mgmtPut State.reset 0x30030 0x80) 0x30030).getLsbD 7 = true ∧ (mgmtGet State.reset 0x30030).getLsbD 7 = false ∧
    (∀ x ∈ State.reset.nodes, transLive State.reset x.num = false) ∧ (∃ x ∈ m0.nodes, leaseLive m0 x.num = true ∧ ∃ p ∈ x.pages, p.1 = 1) ∧
    unreleased State.reset (latchInval State.reset (mgmtMerge 0x30030 (mgmtGet State.reset 0x30030) 1)) = false ∧
    unreleased { State.reset with egress := [⟨0, 0, 0, 0, none, false, 1, 0, 1, some 1, none⟩] } ⟨0, 1, 1, false, []⟩ = true ∧
    unreleased (invalidating []) ⟨0, 1, 1, false, []⟩ = false ∧
    [1].any (transLive (invalidating [1])) = true ∧ ([] : List Nat).any (transLive (invalidating [])) = false ∧
    (100 : Word).toNat % 128 ≠ 0x7F ∧ coreGood State.reset 0 ((100 : Word).toNat % 128) = false ∧ coreGood State.reset 0 ((3 : Word).toNat % 128) = true ∧
    (0xFF : Word).toNat % 128 = 0x7F ∧ dieBusy State.reset 0 = false ∧ dieBusy m0 0 = true ∧
    (0x90000 : BitVec 32).toNat % 8 = 0 ∧ mgmtEvents State.reset (0x90000 : BitVec 32).toNat 5 = [.mgmtRegisterWrite 0x90000 5] ∧
    ¬ (0x90110 ≤ (0x90000 : BitVec 32).toNat) := by decide +kernel

/-- A frame that is free is found where the search begins with one. -/
theorem findFrame_first {taken : Nat → Bool} {base n k m : Nat} (h : taken (base + k % n) = false) :
    findFrame taken base n k (m + 1) = some ((base + k % n) * 65536) := by
  simp [findFrame, h]

theorem movable_free {f : Nat} (h : 2 ^ 21 ≤ f) (g : f < 2 ^ 24) : frameTaken movable (usedFrames movable) f = false := by
  have hs : mgmtGet movable 0xA0410 = 0 ∧ mgmtGet movable 0xA0408 = 0 ∧ movable.vs = [] ∧ movable.freed = [] := by decide +kernel
  have hr : frameRefs movable f = false := rfl
  have hu : ∀ x ∈ usedFrames movable, x < 2 ^ 21 := by decide +kernel
  have hm : f ∉ usedFrames movable := fun hf => by have := hu f hf; omega
  simp [frameTaken, parSlice, hs, hm, hr]

/-- Wherever on die 1 the search for a frame begins, it finds one for the page. -/
theorem meets_ManagementEvents_migration : (∃ e new, walk movable 0 1 = .leaf e ∧ isDeviceMem (leafPA e) = true ∧ systemArea (leafPA e) = false ∧ pageUnreleased movable (leafPA e) = false ∧ homeDie (leafPA e) ≠ 1 ∧
      frameFor movable (leafPA e) 1 = some new ∧ (new + 65536 ≤ leafPA e ∨ leafPA e + 65536 ≤ new) ∧ pageBusy movable new = false ∧
      pageBusy movable (leafPA e) = false) ∧ pageHeld movable 0 1 = false ∧ moveRoom movable 1 = true ∧
    isDeviceMem (leafAddress movable 0 1) = true ∧
    (cohWrite movable (homeDie (leafAddress movable 0 1)) (leafAddress movable 0 1 / 256) (leafAddress movable 0 1 / 64)).isSome = true ∧
    movable.nc = [] ∧ movable.counted = [] ∧ hostLines movable (leafPA 0x6000039) = [] ∧ systemArea profileAddress = true := by
  refine ⟨⟨0x6000039, (2 ^ 21 + (Config.freeWord movable.free).toNat % 1830912) * 65536, by decide +kernel, by decide +kernel, by decide +kernel, rfl, by decide +kernel, ?_, ?_, rfl, rfl⟩, ?_⟩
  · have hk : (Config.freeWord movable.free).toNat % 1830912 < 1830912 := Nat.mod_lt _ (by decide)
    have hp : isCtier (leafPA 0x6000039) = false := by decide +kernel
    simp only [frameFor, hp]
    exact findFrame_first (movable_free (by omega) (by omega))
  · have hp : leafPA 0x6000039 = 0x6000000 := by decide +kernel
    rw [hp]
    omega
  · decide +kernel

/-- A page of which the host owns a line, and shares another. -/
theorem meets_ManagementEvents_recall : ∀ st ∈ [DirState.owned 4, .shared 0x11],
    let s := { movable with dir := [⟨0x60001, st⟩] }
    0x60001 ∈ hostLines s (leafPA 0x6000039) ∧ dirOf s 0x60001 = some st ∧ st.stable = true ∧ st.holders.getLsbD 4 = true ∧ pageBusy s (leafPA 0x6000039) = false ∧
    moveRoom s 1 = true ∧ walkHas (fun e => e == 0x6000039) (walk s 0 1) = true ∧ homeDie (leafPA 0x6000039) ≠ 1 := by decide +kernel

/-- A line of page 0 with a directory entry and RDC lines of die 1, whose home is die 0. -/
def lined (d : Option DirState) (r : Option (RdcState × BitVec 4)) : State := setRdc (setDir State.reset 5 d) 1 5 r

theorem meets_CoherenceMessages_requests : deviceMem (lined none none) (5 * 256) = true ∧ setAwaited (lined none none) 5 = false ∧ isCounted (lined none none) 5 = false ∧ (1 : BitVec 3).toNat ≠ homeDie (5 * 256) ∧
    rdcOf (lined none none) 1 5 = none ∧ dirOf (lined none none) 5 = none ∧ (setEntries (lined none none) 5).length < 16 ∧
    dirOf (lined (some (.shared 4)) none) 5 = some (.shared 4) ∧ (4 : BitVec 5) ≠ 0 ∧ (4 : BitVec 5).getLsbD (2 : BitVec 3).toNat = true ∧
    dirOf (lined (some (.owned 2)) none) 5 = some (.owned 2) ∧ (2 : BitVec 3) ≠ 1 ∧
    (∀ m ∈ [(2 : BitVec 5), 6], (rdcOf (lined (some (.shared m)) (some (.s, 0))) 1 5).map RdcLine.st = some .s ∧
      dirOf (lined (some (.shared m)) (some (.s, 0))) 5 = some (.shared m) ∧ m.getLsbD (1 : BitVec 3).toNat = true) ∧
    (2 : BitVec 5) &&& ~~~(agentBit 1) = 0 ∧ (6 : BitVec 5) &&& ~~~(agentBit 1) ≠ 0 := by decide +kernel

theorem meets_CoherenceMessages_answers :
    (∀ st ∈ [RdcState.m, .e, .xi], (rdcOf (lined (some (.owned 1)) (some (st, 1))) 1 5).map RdcLine.st = some st ∧ dirOf (lined (some (.owned 1)) (some (st, 1))) 5 = some (.owned 1)) ∧
    (∀ m ∈ [(2 : BitVec 5), 6], dirOf (lined (some (.wi m (.rdx 3))) none) 5 = some (.wi m (.rdx 3)) ∧ m.getLsbD (1 : BitVec 3).toNat = true) ∧
    dirOf (lined (some (.wr 1 (.rds 3) false false)) none) 5 = some (.wr 1 (.rds 3) false false) ∧
    (∀ st ∈ [RdcState.is, .ie, .se, .s, .e, .m, .xi], (rdcOf (lined none (some (st, 0))) 1 5).map RdcLine.st = some st) ∧
    (∀ st ∈ [RdcState.ie, .se], ∀ w ∈ [(0 : BitVec 4), 2], optHas (fun y => y.st == st && y.stores == w && y.waiters.contains (true, 1))
      (rdcOf (modRdc (lined none (some (st, 0))) 1 5 (fun y => { y with want := 2, stores := w, waiters := [(true, 1)] })) 1 5) = true) ∧
    hostCoherent (mgmtPut (mgmtPut State.reset 0xB0008 3) 0xB0010 3) = true ∧ (mgmtPut (mgmtPut State.reset 0xB0008 3) 0xB0010 3).boot = .running ∧
    rdcOf (mgmtPut (mgmtPut State.reset 0xB0008 3) 0xB0010 3) 4 5 = none ∧ dirOf (mgmtPut (mgmtPut State.reset 0xB0008 3) 0xB0010 3) 5 = none ∧
    rdcOf (lined none none) 1 5 = none := by decide +kernel

/-- A chip alone in its domain, and one of two chips, with interval 1 being sealed at a stage. -/
def sealingAt (dom : Word) (st : Nat) (v : BitVec 64) : State := { (mgmtPut State.reset 0x90010 dom) with sealing := some ⟨1, st, v, 0, Ckpt.empty⟩ }

theorem meets_SealEvents : (mgmtGet State.reset 0x90000).toNat % 2 ^ 32 ≠ 0 ∧ (mgmtGet (mgmtPut State.reset 0x90000 0) 0x90000).toNat % 2 ^ 32 = 0 ∧ State.reset.rollingBack = false ∧ rinUpTo (rinOf State.reset 0) State.reset.sealedRin = false ∧
    State.reset.sealing = none ∧ isCoordinator State.reset = true ∧ rinUpTo 1 State.reset.sealedRin = false ∧
    (sealingAt 1 2 0).sealing = some ⟨1, 2, 0, 0, Ckpt.empty⟩ ∧ isCoordinator (sealingAt 1 2 0) = true ∧ (members (sealingAt 1 4 0)).getLsbD (0 : BitVec 6).toNat = true ∧
    members (sealingAt 1 4 0) &&& ~~~((0 : BitVec 64) ||| BitVec.ofNat 64 (2 ^ (0 : BitVec 6).toNat)) = 0 ∧ members (sealingAt 1 4 0) &&& ~~~(0 : BitVec 64) ≠ 0 ∧
    (sealingAt 1 4 1).sealing = some ⟨1, 4, 1, 0, Ckpt.empty⟩ ∧ (sealingAt 1 4 1).parity = .idle ∧ { (sealingAt 1 4 1) with parity := .build 1 true 0 }.parity = .build 1 true 0 ∧
    rinUpTo (rinOf (setRin (sealingAt 1 2 0) 2) 0) 1 = false ∧
    isCoordinator (sealingAt 3 4 1) = true ∧ (members (sealingAt 3 4 1)).getLsbD (1 : BitVec 6).toNat = true ∧ (1 : BitVec 64).getLsbD (1 : BitVec 6).toNat = false ∧
    (1 : BitVec 6).toNat ≠ selfChip (sealingAt 3 4 1) ∧ (sealingAt 3 4 1).rollingBack = false := by decide +kernel

/-- An undo entry of sector 4 for the open interval. -/
def undoing : State := { State.reset with vs := [⟨4, 7, false, 1, true, false, none, false, none, none⟩] }

/-- Parity configured over chips 0 to 7, in a stage. -/
def paritied (p : Parity) : State :=
  { (mgmtPut (mgmtPut (mgmtPut State.reset 0x90010 0xFF) 0xA0410 0x10000) 0xA0418 0xFF) with parity := p }

/-- The same group with its members reached by port 2, which is trained. -/
def grouped (p : Parity) : State :=
  (List.range 8).foldl (fun t c => mgmtPut t (0xA0100 + 8 * c) 2) (mgmtPut (paritied p) 0xA0010 1)

/-- A recorded node that had been leased. -/
def recorded : State := { State.reset with ckpt := { State.reset.ckpt with nodes := [nodeAt .leased []] } }

theorem meets_RollbackAndParity_relaunch : (∃ x ∈ recorded.ckpt.nodes, x.state.inFlight = true ∧ x.num ∉ failed recorded) ∧ recorded.unrec = [] ∧
    (∃ x, { (sealingAt 1 4 1) with parity := .finish 1 }.sealing = some x ∧ 4 ≤ x.stage ∧ rinUpTo 1 x.n = true) ∧
    dirtyStripe (paritied .idle) 3 = false ∧ dirtyStripe { (paritied .idle) with parWrites := [⟨0x400, 1, false⟩] } 3 = true ∧
    versionOk recorded.ckpt.version.toNat (Config.imageMinor (Store.get zeroOf recorded.phys.digests 3)) = true ∧
    mgmtGet (mgmtPut (paritied .idle) 0xA0428 (1 <<< 32)) 0xA0428 >>> 32 ≠ 0 := by
  refine ⟨⟨_, List.mem_cons_self, ?_⟩, ?_, ⟨_, rfl, ?_⟩, ?_, ?_, rfl, ?_⟩
  all_goals decide +kernel

theorem meets_RollbackAndParity : undoing.unrec = [] ∧ (∃ e ∈ undoing.vs, e.undo = true ∧ rinUpTo e.tag undoing.sealedRin = false ∧ e.held = false ∧
      (∀ f ∈ undoing.vs, f.sector = e.sector → f = e) ∧ (undoing.vs.filter (fun f => decide (f.sector = e.sector))).length = 1) ∧
    (∀ e ∈ undoing.vs, e.sector ≠ 0 / 64) ∧ (paritied (.build 1 true 0x10000)).parity = .build 1 true 0x10000 ∧
    (mgmtGet (paritied (.build 1 true 0x10000)) 0xA0410).toNat ≤ 0x10000 ∧ groupWhole (grouped (.build 1 true 0x10000)) = true ∧ (paritied .idle).parity = .idle ∧
    parityOn (paritied .idle) = true ∧ (mgmtGet (paritied .idle) 0xA0418).getLsbD ((7 : Word).toNat / 2 % 64) = true ∧
    (7 : Word).toNat / 2 % 64 ≠ selfChip (paritied .idle) ∧ (grouped (.rebuild 3)).parity = .rebuild 3 ∧ (grouped (.rebuild 3)).rollingBack = false ∧
    groupWhole (grouped (.rebuild 3)) = true ∧ groupWhole (paritied (.rebuild 3)) = false ∧ (0 : BitVec 6).toNat = selfChip (paritied .idle) ∧
    (3 : BitVec 6).toNat ≠ selfChip (paritied .idle) ∧ (mgmtGet (paritied .idle) 0xA0418).getLsbD (3 : BitVec 6).toNat = true ∧
    rinUpTo 1 1 = true := by
  refine ⟨rfl, ⟨_, List.mem_cons_self, ?_⟩, ?_⟩
  all_goals decide +kernel

/-- Chip 1 of the domain is reached by port 2, which is trained. -/
def linked : State := mgmtPut (mgmtPut (mgmtPut State.reset 0x90010 3) 0xA0010 1) 0xA0108 2

theorem meets_LinkAndHostEvents : ((0x11 : BitVec 8) = 0x10 ∨ (0x11 : BitVec 8) = 0x11) ∧ linksStayDown State.reset = false ∧
    linksStayDown (mgmtPut State.reset 0xC0068 3) = true := by decide +kernel

theorem meets_LinkAndHostEvents_routes : (3 : Word) = mgmtGet linked 0x90010 ∧ (mgmtGet linked 0x90010).getLsbD (1 : BitVec 6).toNat = true ∧
    1 ∈ routedBy linked 2 ∧ 1 ≠ selfChip linked ∧ (members linked).getLsbD 1 = true ∧ (mgmtGet linked 0xA0010).getLsbD 0 = true ∧
    (mgmtGet linked 0xA0010).getLsbD 1 = false ∧ (mgmtGet State.reset 0xA0010).getLsbD 0 = false ∧ linked.rollingBack = false ∧
    (1 : BitVec 6).toNat ≠ selfChip linked ∧ routeTo linked (1 : BitVec 6).toNat 1 = some 2 ∧ routeTo State.reset (1 : BitVec 6).toNat 1 = none ∧
    Store.get zeroOf { linked with straitFails := [(2, 15)] }.straitFails (2 : BitVec 4).toNat = 15 ∧ Store.get zeroOf linked.straitFails 2 ≠ 15 ∧
    0x10 ≤ (0x12 : BitVec 8).toNat ∧ (0x12 : BitVec 8).toNat ≤ 0x13 ∧ (portRec (setPortRec State.reset 1 ⟨31, false⟩) 1).fails = 31 ∧
    (portRec State.reset 1).fails ≠ 31 ∧ (portRec State.reset 1).retrained = false ∧
    (portRec (setPortRec State.reset 1 ⟨32, true⟩) 1).retrained = true := by decide +kernel

theorem meets_LinkAndHostEvents_host :
    let u := heard State.reset (entryPort State.reset (0x38 : BitVec 52).toNat)
    State.reset.boot = .running ∧ State.reset.hostIn = [] ∧ deviceMem State.reset (0x38 : BitVec 52).toNat = true ∧ hostStores State.reset = false ∧ (0x38 : BitVec 52).toNat % 64 + 8 ≤ 64 ∧
    (hostWrite u ((0x38 : BitVec 52).toNat / 256) ((0x38 : BitVec 52).toNat / 64)).isSome = true ∧
    (∀ k, k < 8 → deviceMem State.reset ((0x38 : BitVec 52).toNat + k) = true) ∧ poisonIn State.reset (0x38 : BitVec 52).toNat 8 = none ∧
    (match hostReadLines u (linesOf (0x38 : BitVec 52).toNat 8) with
     | .ok _ => true
     | .error _ => false) = true ∧ (8 : BitVec 4).toNat ≤ 8 ∧ (0x38 : BitVec 52).toNat % 8 = 0 ∧
    (∀ g, g < 64 → armedByHost State.reset g (0x38 : BitVec 52).toNat = false) ∧ (0x3A : BitVec 52).toNat % 8 ≠ 0 ∧
    deviceMem State.reset (0x4000000000000 : BitVec 52).toNat = false ∧ isMgmt (0x4000000000000 : BitVec 52).toNat = false ∧
    isHost (0x4000000000000 : BitVec 52).toNat = false ∧ (0x4000000000000 : BitVec 52).toNat % 8 = 0 := by decide +kernel

/-- The host waits for the ownership of a line that it stores to. -/
theorem meets_LinkAndHostEvents_waits :
    let s := { State.reset with rdc := [⟨4, 5, .ie, 0, 0, Vector.replicate 4 0, 1, 1, []⟩] }
    hostStores s = true ∧ s.boot = .running ∧ s.hostIn = [] ∧ deviceMem s (0x38 : BitVec 52).toNat = true := by decide +kernel

/-- A handover structure without a body. -/
def handed : State :=
  let b := natBytes 0x444E4148 4 ++ natBytes 0x0100 2 ++ natBytes 0 2 ++ natBytes 0x40 4 ++ natBytes 0 12 ++ sha3 [] ++ List.replicate 8 0
  { State.reset with mem := Store.write memDefault State.reset.mem handoverAddress b }

theorem meets_FirmwareEvents_heartbeat : (handoverLength handed (Config.imageMinor 5)).isSome = true ∧ handoverLength State.reset (Config.imageMinor 5) = none := by
  constructor
  · have h : (poisonIn handed handoverAddress 0x40).isNone = true ∧ fieldAt (memBytes handed handoverAddress 0x40) 0 4 = 0x444E4148 ∧
        fieldAt (memBytes handed handoverAddress 0x40) 4 2 = 0x0100 ∧ fieldAt (memBytes handed handoverAddress 0x40) 8 4 = 0x40 ∧
        fieldAt (memBytes handed handoverAddress 0x40) 0x18 32 = bytesNat (sha3 (memBytes handed (handoverAddress + 0x40) 0)) := by decide +kernel
    have hv : versionOk 0x0100 (Config.imageMinor 5) = true := rfl
    simp only [handoverLength, h.1, h.2.1, h.2.2.1, h.2.2.2.1, h.2.2.2.2, hv]
    rfl
  · have h : fieldAt (memBytes State.reset handoverAddress 0x40) 0 4 ≠ 0x444E4148 := by decide +kernel
    simp [handoverLength, h]

theorem meets_FirmwareEvents : State.reset.fw = .idle ∧ quiet State.reset = true ∧ { State.reset with fw := .quiesce 5 0 }.fw = .quiesce 5 0 ∧
    rinUpTo 0 State.reset.sealedRin = true ∧ { State.reset with fw := .sealing 5 0 }.fw = .sealing 5 0 ∧ { State.reset with fw := .await 5 0 }.fw = .await 5 0 ∧
    vsRoom { State.reset with fw := .sealing 5 0 } 0 (saveNeeds State.reset handoverAddress (roundUp (handoverBytes State.reset 0).length 64)) = true ∧
    State.reset.boot ≠ .dead ∧ (∃ g : BitVec 6, graphOn (graphed []) g = true) ∧ (∀ g : BitVec 6, graphOn State.reset g = false) ∧
    { State.reset with oz := { State.reset.oz with sigSelected := false } }.oz.sigSelected = false ∧ tokenOk State.reset [] = false ∧ State.reset.phys.fusesOk = true ∧
    (∀ g : BitVec 6, graphOn { State.reset with phys := { Phys.healthy with fusesOk := false } } g = false) ∧
    { State.reset with phys := { Phys.healthy with fusesOk := false } }.phys.fusesOk = false := by
  refine ⟨?_, ?_, ?_, ?_, ?_, ?_, ?_, ?_, ⟨0, ?_⟩, ?_, ?_, ?_, ?_, ?_, ?_⟩
  all_goals decide +kernel

theorem meets_ResetEvents : 110 ≤ (120 : BitVec 8).toNat ∧ 100 ≤ (120 : BitVec 8).toNat ∧ (80 : BitVec 8).toNat < 90 ∧ (99 : BitVec 8).toNat < 100 ∧ (109 : BitVec 8).toNat < 110 ∧ isDeviceMem 0x40 = true ∧
    0x40 < profileAddress ∧ isHost 0x8000000000040 = true := by decide +kernel

/-! Results from the spec's tables and worked cases, one step each. -/

/-- What a step leaves, none when it stops. -/
def left {α : Type} (f : State → α) (o : Host.Outcome State Fault Refusal) : Option α :=
  match o with
  | .next t => some (f t)
  | _ => none

/-- Elements of a vector register of a state, by width. -/
def els (r w n : Nat) (s : State) : List Nat := (List.range n).map (fun e => getEl s.hart.vec.vrf r w e)
/-- A hart with vector settings and its first registers filled: v1, v2, v3. -/
def filled (fmt w : Nat) (a b c : List Nat) : State :=
  let put := fun (m : Store 8) (r : Nat) (l : List Nat) => ((List.range l.length).zip l).foldl (fun m p => setEl m r w p.1 p.2) m
  vecs fmt a.length (fun v => { v with vrf := put (put (put [] 1 a) 2 b) 3 c })

-- 06 Table 6.2: division by zero, and the one overflow
theorem test_div : left (fun t => (t.sreg 1, t.sreg 7)) (exec (.div 1 4 0) r1) = some (0xFFFFFFFFFFFFFFFF, 0) ∧
    left (fun t => t.sreg 1) (exec (.div 1 4 3) r1) = some 0x8000000000000000 ∧ left (fun t => t.sreg 1) (exec (.rem 1 4 3) r1) = some 0 ∧
    left (fun t => t.sreg 1) (exec (.rem 1 2 0) r1) = some 5 := by decide +kernel
-- 06, the worked case of MOVHI: the third piece of 0x0029_0380_9ABC
theorem test_movhi : left (fun t => t.sreg 4) (exec (.movhi 4 0x09ABC) (regsOf [(4, 0xA40E0)])) = some 0x002903809ABC := by decide +kernel
-- 06 R141, 18 R387: TRAP has retired, so tepc is the address after it; the handler is at tvec
theorem test_trap : left (fun t => (t.hart.trap.tepc, t.front.pc, t.hart.trap.tstatus.getLsbD 0)) (exec (.trap 5) (handled id)) = some (0x10004, 0x10100, true) := by
  decide +kernel
-- 08, the worked case of R172: 100 + 50 in i8 wraps to 0x96 with SAT = 0, is 0x7F with SAT = 1; both set the overflow mask
theorem test_vadd_i8 : left (fun t => (els 1 8 1 t, t.hart.vec.masks, t.hart.vec.fflags)) (exec (.vadd 65 66 67 false) (filled 0x209 8 [0] [100] [50])) =
      some ([0x96], [(2 * 2 ^ 18, 1)], 0) ∧
    left (fun t => (els 1 8 1 t, t.hart.vec.fflags)) (exec (.vadd 65 66 67 false) (filled 0x1009 8 [0] [100] [50])) = some ([0x7F], 0x20) ∧
    left (fun t => els 1 8 1 t) (exec (.vadds 65 66 67 false) (filled 9 8 [0] [100] [50])) = some [0x7F] := by decide +kernel
theorem test_vwadd_i8 : left (fun t => (els 4 16 1 t, t.hart.vec.fflags)) (exec (.vwadd 68 66 67 false) (filled 9 8 [0] [100] [50])) = some ([0x96], 0) := by
  decide +kernel
-- 07, the worked case of R157: 2^24, 1, 1, 1 sum to 2^24 + 2
theorem test_vfredsum : left (fun t => (els 2 32 1 t, t.hart.vec.fflags)) (exec (.vfredsum 66 65 false)
    (filled 0 32 [0x4B800000, 0x3F800000, 0x3F800000, 0x3F800000] [] [])) = some ([0x4B800001], 1) := by decide +kernel
-- 07, the worked case of VFLOG2: 8.0 gives 3.0 with no flag
theorem test_vflog2 : left (fun t => (els 2 32 1 t, t.hart.vec.fflags)) (exec (.vflog2 66 65 false) (filled 0 32 [0x41000000] [] [])) =
    some ([0x40400000], 0) := by decide +kernel
-- 08 R179, the worked case of VFMA: v1 := v2 × v3 + v1, (2^12 + 1)(2^12 - 1) - 2^24 is -1.0 exactly; a = b = 2^12 + 1 gives 8193.0
theorem test_vfma : left (fun t => (els 1 32 2 t, t.hart.vec.fflags)) (exec (.vfma 65 66 67 false)
    (filled 0 32 [0xCB800000, 0xCB800000] [0x45800800, 0x45800800] [0x457FF000, 0x45800800])) = some ([0xBF800000, 0x46000400], 0) := by decide +kernel
-- 08 R186, its worked case: the first step of the LFSR of a task with wid = 0
theorem test_lfsr : lfsrSeed 0 = 0x9E3779B9 ∧ lfsrStep 0x9E3779B9 = 0xCF3BBCDF := by decide +kernel
-- 13, the worked case of R288: a rank-1 step of f8a 256 on f32 cells gives 65,536 in the active cells
theorem test_top : left (fun t => Store.get zeroOf t.hart.mat.tiles 0) (exec (.top 0 65 66 0 0) (mach (fun h => { h with
    mat := { h.mat with tshape := 0x10001, tfmt := 0x303 }, vec := { h.vec with vrf := setEl (setEl [] 1 8 0 0x78) 2 8 0 0x78 } }))) = some 0x47800000 := by
  decide +kernel
-- 14 Table 14.2, its worked case
theorem test_dadd : left (fun t => (t.hart.dist.points 1 0).map Prod.fst) (exec (.dadd 1 2 3) (vecs 0 1 id |> fun s => { s with hart := { s.hart with
    dist := { (s.hart.dist.put 2 0 ([(0, 5592405), (0x3F800000, 5592405), (0x40000000, 5592406)] ++ List.replicate 5 (0, 0))).put 3 0
      (List.replicate 8 (0x41200000, 2 ^ 21)) with tags := [(2, 1), (3, 2)] } } })) =
    some [0x41200000, 0x41200000, 0x41255554, 0x41300000, 0x41300000, 0x413AAAAC, 0x41400000, 0x41400000] := by decide +kernel
-- 03, the worked case of the launch header: widths 8, 2, 3, 51, hart 1, core 2, 512 tasks
theorem test_header : let h := (placedHeader.take 2 ++ [4, 0x21, 8, 2, 3, 0x33, 0, 0]) ++ (placedHeader.drop 10).take 6 ++ natBytes 512 4 ++ placedHeader.drop 20
    hdrBh h = 8 ∧ hdrGroups h = 128 ∧ hdrGroupSize h = 4 ∧ hdrTasks h = 512 := by decide +kernel
-- 16 R362: AMOADD gives the old word and leaves the sum
theorem test_amoadd : left (fun t => (t.sreg 7, memNat t 0 8)) (exec (.amoadd 4 7 5 2) { (regsOf [(2, 5), (5, 0x10000)]) with mem := [(0, 7)] }) = some (7, 12) := by
  decide +kernel
-- 19 R401, R404: a store keeps the bytes from before it in the version store
theorem test_undo : left (fun t => t.vs.map (fun e => (e.sector, e.data, e.tag, e.undo))) (exec (.std 2 5 8) { (regsOf [(2, 5), (5, 0x10000)]) with mem := [(8, 7)] }) =
    some [(0, 7 * 2 ^ 64, 1, true)] := by decide +kernel

end Sys2Proof.Tests
end

section
/-! PROOFS. Scalar results (06 R120): the quotients and remainders of Table 6.2, and the four instructions that give them. -/
namespace Sys2Proof.Machine

variable {s : State} {d a b : BitVec 7}

theorem isS_of_lt (h : a.toNat < 64) : isS a = true := decide_eq_true h

/-- A three-register word whose fields name scalar registers writes its result and retires (06 R119). -/
theorem alu3_next (hd : d.toNat < 64) (ha : a.toNat < 64) (hb : b.toNat < 64) (f : Word → Word → Word) :
    alu3 d a b f s = .next (s.setSreg d.toNat (f (s.sreg a.toNat) (s.sreg b.toNat))).retire := by
  simp only [alu3, isS_of_lt hd, isS_of_lt ha, isS_of_lt hb, Bool.and_self, if_true]

theorem exec_div : exec (.div d a b) s = alu3 d a b opDiv s := rfl
theorem exec_divu : exec (.divu d a b) s = alu3 d a b opDivu s := rfl
theorem exec_rem : exec (.rem d a b) s = alu3 d a b opRem s := rfl
theorem exec_remu : exec (.remu d a b) s = alu3 d a b opRemu s := rfl

/-- Table 6.2, first row: b = 0. -/
theorem division_by_zero (x : Word) : opDiv x 0 = BitVec.allOnes 64 ∧ opRem x 0 = x ∧ opDivu x 0 = BitVec.allOnes 64 ∧ opRemu x 0 = x :=
  ⟨if_pos rfl, if_pos rfl, if_pos rfl, if_pos rfl⟩

/-- Table 6.2, second row: a = −2^63 and b = −1, where the signed quotient overflows. -/
theorem division_overflow :
    opDiv (BitVec.intMin 64) (BitVec.allOnes 64) = BitVec.intMin 64 ∧ opRem (BitVec.intMin 64) (BitVec.allOnes 64) = 0 ∧
      opDivu (BitVec.intMin 64) (BitVec.allOnes 64) = 0 ∧ opRemu (BitVec.intMin 64) (BitVec.allOnes 64) = BitVec.intMin 64 := by
  decide +kernel

theorem opDiv_toInt {x y : Word} (hy : y ≠ 0) (ho : x ≠ BitVec.intMin 64 ∨ y ≠ BitVec.allOnes 64) : (opDiv x y).toInt = x.toInt.tdiv y.toInt := by
  rw [opDiv, if_neg hy]
  exact BitVec.toInt_sdiv_of_ne_or_ne x y (by rwa [BitVec.neg_one_eq_allOnes])

theorem opRem_toInt {x y : Word} (hy : y ≠ 0) : (opRem x y).toInt = x.toInt.tmod y.toInt := by
  rw [opRem, if_neg hy, BitVec.toInt_srem]

theorem toInt_ne_zero {y : Word} (hy : y ≠ 0) : y.toInt ≠ 0 := fun h => hy (BitVec.toInt_inj.mp h)

theorem abs_tmod_lt (x : Int) {y : Int} (hy : y ≠ 0) : |x.tmod y| < |y| := by
  rw [Int.abs_eq_natAbs, Int.abs_eq_natAbs, Int.natAbs_tmod]
  exact_mod_cast Nat.mod_lt _ (Int.natAbs_pos.mpr hy)

/-- A truncated remainder is zero or has the sign of the dividend, here a negative one. -/
theorem tmod_nonpos {x : Int} (y : Int) (hx : x ≤ 0) : x.tmod y ≤ 0 := by
  have h : 0 ≤ (-x).tmod y := Int.tmod_nonneg y (by omega)
  rw [Int.neg_tmod] at h
  omega

/-- The signed quotient and remainder outside the two rows of Table 6.2: a = q b + r, |r| < |b|, and r has the sign of a. -/
theorem signed_division {x y : Word} (hy : y ≠ 0) (ho : x ≠ BitVec.intMin 64 ∨ y ≠ BitVec.allOnes 64) :
    x.toInt = (opDiv x y).toInt * y.toInt + (opRem x y).toInt ∧ |(opRem x y).toInt| < |y.toInt| ∧
      (0 ≤ x.toInt → 0 ≤ (opRem x y).toInt) ∧ (x.toInt ≤ 0 → (opRem x y).toInt ≤ 0) := by
  rw [opDiv_toInt hy ho, opRem_toInt hy]
  refine ⟨?_, abs_tmod_lt _ (toInt_ne_zero hy), Int.tmod_nonneg _, tmod_nonpos _⟩
  rw [mul_comm, Int.mul_tdiv_add_tmod]

/-- The unsigned quotient and remainder of a divisor that is not zero. -/
theorem unsigned_division {x y : Word} (hy : y ≠ 0) :
    x.toNat = (opDivu x y).toNat * y.toNat + (opRemu x y).toNat ∧ (opRemu x y).toNat < y.toNat := by
  rw [opDivu, opRemu, if_neg hy, if_neg hy, BitVec.toNat_udiv, BitVec.toNat_umod]
  exact ⟨(Nat.div_add_mod' _ _).symm, Nat.mod_lt _ (BitVec.toNat_pos_of_ne_zero hy)⟩

/-- Settles O2: the four results are the model's operations, and each clause is one row of Table 6.2 or one of the two division laws. -/
theorem divisionNeverTraps : Obligations.DivisionNeverTraps := by
  unfold Obligations.DivisionNeverTraps
  intro s d a b hd ha hb
  refine ⟨opDiv (s.sreg a.toNat) (s.sreg b.toNat), opRem (s.sreg a.toNat) (s.sreg b.toNat),
    opDivu (s.sreg a.toNat) (s.sreg b.toNat), opRemu (s.sreg a.toNat) (s.sreg b.toNat),
    exec_div.trans (alu3_next hd ha hb _), exec_rem.trans (alu3_next hd ha hb _),
    exec_divu.trans (alu3_next hd ha hb _), exec_remu.trans (alu3_next hd ha hb _), ?_, ?_, signed_division, unsigned_division⟩
  · intro hz
    rw [hz]
    exact division_by_zero _
  · intro hx hy
    rw [hx, hy]
    exact division_overflow

end Sys2Proof.Machine
end

section
/-! PROOFS. Loop levels (06 R132, R133): what the loop rule and a transfer do with the innermost level, and with them retirement and jumps. -/
namespace Sys2Proof.Machine

variable {lc : Store 64} {l : Level} {r ls : List Level} {stop target : Word}

/-- R132: at the end of the innermost body, with more than one iteration to run. -/
theorem loopRule_again (hs : l.stop = stop) (hc : 1 < (Store.get zeroOf lc r.length).toNat) :
    loopRule lc (l :: r) stop = (Store.set zeroOf lc r.length (Store.get zeroOf lc r.length - 1), l :: r, l.start) := by
  simp [loopRule, hs, hc]

/-- R132: at the end of the innermost body, with its last iteration done, the rule goes on with the next level out. -/
theorem loopRule_ends (hs : l.stop = stop) (hc : (Store.get zeroOf lc r.length).toNat ≤ 1) :
    loopRule lc (l :: r) stop = loopRule (Store.set zeroOf lc r.length 0) r stop := by
  simp [loopRule, hs, Nat.not_lt.mpr hc]

/-- R132: no level is left, or the innermost one ends elsewhere. -/
theorem loopRule_next (h : ∀ m ∈ ls.head?, m.stop ≠ stop) : loopRule lc ls stop = (lc, ls, stop + 4) := by
  cases ls with
  | nil => rfl
  | cons m r => simp [loopRule, h m rfl]

/-- R133: no level is left, or the innermost one contains the target. -/
theorem leaveLoops_inside (h : ∀ m ∈ ls.head?, m.start.toNat ≤ target.toNat ∧ target.toNat ≤ m.stop.toNat) :
    leaveLoops lc ls target = (lc, ls) := by
  cases ls with
  | nil => rfl
  | cons m r => rw [leaveLoops, if_pos (h m rfl)]

/-- R133: a target outside the innermost level ends it, and the test goes on with the next level out. -/
theorem leaveLoops_outside (h : target.toNat < l.start.toNat ∨ l.stop.toNat < target.toNat) :
    leaveLoops lc (l :: r) target = leaveLoops (Store.set zeroOf lc r.length 0) r target := by
  rw [leaveLoops, if_neg (by omega)]

theorem Front.seqFrom_again {f : Front} (hl : f.levels = l :: r) (hs : l.stop = f.pc) (hc : 1 < (Store.get zeroOf f.lc r.length).toNat) :
    f.seqFrom false f.pc = { f with lc := Store.set zeroOf f.lc r.length (Store.get zeroOf f.lc r.length - 1), pc := l.start } := by
  simp [Front.seqFrom, hl, loopRule_again hs hc]

theorem Front.seqFrom_ends {f : Front} (hl : f.levels = l :: r) (hs : l.stop = f.pc) (hc : (Store.get zeroOf f.lc r.length).toNat ≤ 1) :
    f.seqFrom false f.pc = Front.seqFrom { f with lc := Store.set zeroOf f.lc r.length 0, levels := r } false f.pc := by
  simp [Front.seqFrom, hl, loopRule_ends hs hc]

theorem Front.seqFrom_next {f : Front} {at_ : Word} (h : ∀ m ∈ f.levels.head?, m.stop ≠ at_) : f.seqFrom false at_ = { f with pc := at_ + 4 } := by
  simp [Front.seqFrom, loopRule_next h]

theorem Front.jump_inside {f : Front} (h : ∀ m ∈ f.levels.head?, m.start.toNat ≤ target.toNat ∧ target.toNat ≤ m.stop.toNat) :
    f.jump false target = { f with pc := target } := by
  simp [Front.jump, leaveLoops_inside h]

theorem Front.jump_outside {f : Front} (hl : f.levels = l :: r) (h : target.toNat < l.start.toNat ∨ l.stop.toNat < target.toNat) :
    f.jump false target = Front.jump { f with lc := Store.set zeroOf f.lc r.length 0, levels := r } false target := by
  simp [Front.jump, hl, leaveLoops_outside h]

variable {s : State}

/-- Counting a retirement leaves the front end of a hart and of Ozsis; an advice word may end its context (12 R262). -/
theorem counted1_front (h : s.agent ≠ .advice) : s.counted1.front = s.front := by
  unfold State.counted1 State.front
  cases ha : s.agent with
  | hart => simp [bumpFree, Hart.served]
  | advice => exact absurd ha h
  | ozsis => simp only [ha]

theorem retire_front (h : s.agent ≠ .advice) : s.retire.front = s.front.seqFrom s.inHandler s.front.pc := by
  rw [State.retire, counted1_front (by rwa [setFront_agent]), setFront_front]

theorem jumpTo_front (h : s.agent ≠ .advice) : (s.jumpTo target).front = s.front.jump s.inHandler target := by
  rw [State.jumpTo, counted1_front (by rwa [setFront_agent]), setFront_front]

/-- Retirement with the front end replaced, outside a handler: the loop rule runs on the new front end. -/
theorem setFront_retire_front (h : s.agent ≠ .advice) (hh : s.inHandler = false) (f : Front) : (s.setFront f).retire.front = f.seqFrom false f.pc := by
  rw [retire_front (by rwa [setFront_agent]), setFront_front, setFront_inHandler, hh]

theorem setFront_jumpTo_front (h : s.agent ≠ .advice) (hh : s.inHandler = false) (f : Front) :
    ((s.setFront f).jumpTo target).front = f.jump false target := by
  rw [jumpTo_front (by rwa [setFront_agent]), setFront_front, setFront_inHandler, hh]

/-- Settles O5, from one equation of the loop rule and of a transfer for each case of the innermost level. -/
theorem loopLevels : Obligations.LoopLevels := by
  unfold Obligations.LoopLevels
  constructor
  · intro s l r ha hh hl hs
    have hr : s.retire.front = s.front.seqFrom false s.front.pc := by rw [retire_front ha, hh]
    rw [hr, setFront_retire_front ha hh]
    refine ⟨Front.seqFrom_again hl hs, Front.seqFrom_ends hl hs, fun hc hm => ?_⟩
    rw [Front.seqFrom_ends hl hs hc]
    exact Front.seqFrom_next hm
  · intro s target ha hh
    have hj : (s.jumpTo target).front = s.front.jump false target := by rw [jumpTo_front ha, hh]
    simp only [hj, setFront_jumpTo_front ha hh]
    refine ⟨fun hl => Front.jump_inside ?_, fun l r hl h₁ h₂ => Front.jump_inside ?_, fun l r hl => Front.jump_outside hl⟩
    · simp [hl]
    · simp [hl, h₁, h₂]

end Sys2Proof.Machine
end

section
/-! PROOFS. The end of a failed task (03 R47, 18 R389): after it the hart runs no task, and its node is FAILED with the cause. -/
namespace Sys2Proof.Machine

variable {s t u : State} {n : Nat}

/-- What a node's failure records: its state and the cause. -/
def Node.verdict (x : Node) : NodeState × BitVec 8 := (x.state, x.cause)

/-- The current hart is as before, and every node has the state and the cause it had. -/
structure KeepsVerdicts (s t : State) : Prop where
  hart : t.hart = s.hart
  nodes : ∀ n, (nodeOf t n).map Node.verdict = (nodeOf s n).map Node.verdict

theorem nodeOf_congr (h : t.nodes = s.nodes) (n : Nat) : nodeOf t n = nodeOf s n := by rw [nodeOf, nodeOf, h]

theorem KeepsVerdicts.of_eq (hh : t.hart = s.hart) (hn : t.nodes = s.nodes) : KeepsVerdicts s t :=
  ⟨hh, fun n => congrArg _ (nodeOf_congr hn n)⟩

theorem KeepsVerdicts.refl (s : State) : KeepsVerdicts s s := .of_eq rfl rfl

theorem KeepsVerdicts.trans (h : KeepsVerdicts s t) (g : KeepsVerdicts t u) : KeepsVerdicts s u :=
  ⟨g.hart.trans h.hart, fun n => (g.nodes n).trans (h.nodes n)⟩

/-- A step that keeps verdicts, after one that changes neither the hart nor the nodes. -/
theorem KeepsVerdicts.after (g : KeepsVerdicts t u) (hh : t.hart = s.hart) (hn : t.nodes = s.nodes) : KeepsVerdicts s u :=
  .trans (.of_eq hh hn) g

/-- The same with the two in the other order. -/
theorem KeepsVerdicts.before (h : KeepsVerdicts s t) (hh : u.hart = t.hart) (hn : u.nodes = t.nodes) : KeepsVerdicts s u :=
  h.trans (.of_eq hh hn)

theorem KeepsVerdicts.foldl {α : Type} {f : State → α → State} (h : ∀ t a, KeepsVerdicts t (f t a)) (l : List α) (s : State) :
    KeepsVerdicts s (l.foldl f s) := by
  induction l generalizing s with
  | nil => exact .refl s
  | cons a l ih => exact (h s a).trans (ih (f s a))

theorem KeepsVerdicts.verdict {x : Node} (h : KeepsVerdicts s t) (hx : nodeOf s n = some x) :
    ∃ y, nodeOf t n = some y ∧ y.verdict = x.verdict := by
  have hy : (nodeOf t n).map Node.verdict = some x.verdict := by rw [h.nodes, hx]; rfl
  exact Option.map_eq_some_iff.mp hy

theorem nodeOf_num {x : Node} (h : nodeOf s n = some x) : x.num = n := by simpa using List.find?_some h

/-- A node after an update of the nodes with a number, which keeps the numbers. -/
theorem nodeOf_updNode {f : Node → Node} (hf : ∀ x, (f x).num = x.num) (m : Nat) :
    nodeOf (updNode s n f) m = (nodeOf s m).map (fun x => if x.num = n then f x else x) := by
  have hp : (fun x : Node => decide (x.num = m)) ∘ (fun x => if x.num = n then f x else x) = fun x => decide (x.num = m) := by
    funext x
    by_cases hx : x.num = n <;> simp [hx, hf]
  simp only [nodeOf, updNode, updWhere, decide_eq_true_eq, List.find?_map, hp]

theorem nodeOf_updNode_same {f : Node → Node} {x : Node} (hf : ∀ x, (f x).num = x.num) (h : nodeOf s n = some x) :
    nodeOf (updNode s n f) n = some (f x) := by
  rw [nodeOf_updNode hf, h, Option.map_some, if_pos (nodeOf_num h)]

theorem updNode_keepsVerdicts {f : Node → Node} (hf : ∀ x, (f x).num = x.num) (hv : ∀ x, (f x).verdict = x.verdict) :
    KeepsVerdicts s (updNode s n f) := by
  refine ⟨rfl, fun m => ?_⟩
  rw [nodeOf_updNode hf, Option.map_map]
  congr 1
  funext x
  by_cases hx : x.num = n <;> simp [hx, hv]

theorem takeTag_keepsVerdicts (die : Nat) (s : State) (tag : W32) : KeepsVerdicts s (takeTag die s tag) := by
  unfold takeTag
  split
  · exact .of_eq rfl rfl
  · exact .refl s

theorem hearDies_keepsVerdicts : KeepsVerdicts s (hearDies s n) := .foldl (fun t _ => takeTag_keepsVerdicts 0 t _) _ s

theorem haltGraph_keepsVerdicts (g : Nat) (a : Word) : KeepsVerdicts s (haltGraph s g a) := by
  unfold haltGraph
  dsimp only
  split <;> exact .of_eq rfl rfl

theorem logEvent_keepsVerdicts (die cls unit : Nat) (pa synd : Word) : KeepsVerdicts s (logEvent s die cls unit pa synd) := by
  unfold logEvent
  dsimp only
  split
  · split <;> exact .of_eq rfl rfl
  · exact .of_eq rfl rfl

theorem escalate_keepsVerdicts (die cls unit : Nat) (pa : Word) : KeepsVerdicts s (escalate s die cls unit pa) := by
  have h := logEvent_keepsVerdicts (s := s) die cls unit pa (Config.freeWord s.free)
  unfold escalate
  dsimp only
  split <;> exact h.before (by simp) (by simp)

theorem logWalk_keepsVerdicts (die asid vpn : Nat) : KeepsVerdicts s (logWalk die s asid vpn) :=
  .foldl (fun t a => (logEvent_keepsVerdicts die 10 0 (BitVec.ofNat 64 a) (Config.freeWord t.free)).before (bumpFree_hart _) (bumpFree_nodes _)) _ s

theorem requestPage_keepsVerdicts (asid vpn home slot : Nat) : KeepsVerdicts s (requestPage s asid vpn home slot) := by
  have h := logWalk_keepsVerdicts (s := s) 0 asid vpn
  unfold requestPage
  dsimp only
  split
  · split
    · exact h
    · exact h.before rfl rfl
  · exact h.before (by simp [postMailbox]) (by simp [postMailbox])

theorem requestSeal_keepsVerdicts (k : W32) : KeepsVerdicts s (requestSeal s k) := by
  unfold requestSeal
  split <;> exact .of_eq rfl rfl

theorem egressEnter_keepsVerdicts (die : Nat) (es : List Egress) : KeepsVerdicts s (egressEnter s die es) := by
  unfold egressEnter
  dsimp only
  split
  · exact (requestSeal_keepsVerdicts _).after rfl rfl
  · exact .of_eq rfl rfl

theorem holdCword_keepsVerdicts (st cause : Nat) : KeepsVerdicts s (holdCword s n st cause) :=
  updNode_keepsVerdicts (fun _ => rfl) (fun _ => rfl)

/-- A completion word is queued, or waits with its node, whose verdict stands (03 R48). -/
theorem queueCword_keepsVerdicts (st cause : Nat) : KeepsVerdicts s (queueCword s n st cause) := by
  unfold queueCword
  split
  next => exact .refl s
  next nd _ =>
    dsimp only
    split
    next => exact .refl s
    next =>
      split
      next => exact holdCword_keepsVerdicts ..
      next =>
        split
        next =>
          refine .trans ?_ (updNode_keepsVerdicts (fun _ => rfl) (fun _ => rfl))
          exact (requestPage_keepsVerdicts ..).trans (holdCword_keepsVerdicts ..)
        next => exact (escalate_keepsVerdicts ..).after rfl rfl
        next =>
          split
          · split
            · exact (requestSeal_keepsVerdicts _).trans (holdCword_keepsVerdicts ..)
            · exact egressEnter_keepsVerdicts ..
          · exact haltGraph_keepsVerdicts ..

theorem invalGoesOn_keepsVerdicts : KeepsVerdicts s (invalGoesOn s) := by
  unfold invalGoesOn
  split
  next => exact .refl s
  next =>
    dsimp only
    split <;> split <;> exact .of_eq rfl rfl

theorem raiseOnce_keepsVerdicts (s : State) (i : Instr) : KeepsVerdicts s (raiseOnce s i) := by
  unfold raiseOnce
  split <;> exact .of_eq rfl rfl

theorem wakeAdmission_keepsVerdicts : KeepsVerdicts s (wakeAdmission s) := .foldl raiseOnce_keepsVerdicts _ s

theorem leaseEnded_keepsVerdicts : KeepsVerdicts s (leaseEnded s) := by
  refine invalGoesOn_keepsVerdicts.trans ?_
  unfold leaseEnded
  refine .trans ?_ wakeAdmission_keepsVerdicts
  split
  · split
    · exact raiseOnce_keepsVerdicts ..
    · exact .refl _
  · exact .refl _

theorem applyWrites_keepsVerdicts (p : Nat → Bool) : KeepsVerdicts s (applyWrites s p) :=
  (KeepsVerdicts.foldl (fun t (d : Nat × Word) => .of_eq (mgmtPut_hart t d.1 d.2) (mgmtPut_nodes t d.1 d.2)) _ _).after rfl rfl

theorem applyDeferred_keepsVerdicts : KeepsVerdicts s (applyDeferred s) := by
  unfold applyDeferred
  split
  · exact applyWrites_keepsVerdicts _
  · exact .refl s

/-- A node as it fails (03 R46, R47). -/
def Node.fail (cause : Nat) (rin : W32) (x : Node) : Node :=
  { x with state := .failed, resWait := false, cause := BitVec.ofNat 8 cause, lease := [], cores := [], left := 0, doneRin := rin }

/-- The tasks of a node stop on every hart that runs one (03 R47). -/
def stopTasks (s : State) (n : Nat) : State := updHarts s (fun h => decide (h.node = n) && h.alive) (fun h => h.finish .ended)

theorem stopTasks_alive (h : s.hart.node = n) : (stopTasks s n).hart.alive = false := by
  simp only [stopTasks, updHarts, h, decide_true, Bool.true_and]
  split
  next => rfl
  next ha => exact Bool.eq_false_iff.mpr ha

/-- After the node has failed and its tasks have stopped, the graph halts, the completion word is queued and the lease's end is told: none of it changes the
verdict. -/
theorem failNode_keepsVerdicts {nd : Node} (h : nodeOf s n = some nd) (cause : Nat) :
    KeepsVerdicts (stopTasks (updNode (hearDies s n) n (Node.fail cause (rinOf (hearDies s n) 0))) n) (failNode s n cause) := by
  simp only [failNode, h]
  refine .trans ?_ applyDeferred_keepsVerdicts
  refine .trans ?_ leaseEnded_keepsVerdicts
  refine .trans ?_ (queueCword_keepsVerdicts _ _)
  exact (haltGraph_keepsVerdicts _ _).after rfl rfl

/-- 03 R46, R47: the node of the current hart fails. -/
theorem failNode_fails {nd : Node} (hn : s.hart.node = n) (h : nodeOf s n = some nd) (cause : Nat) :
    (failNode s n cause).hart.alive = false ∧
      ∃ x, nodeOf (failNode s n cause) n = some x ∧ x.state = .failed ∧ x.cause = BitVec.ofNat 8 cause := by
  have hk := failNode_keepsVerdicts h cause
  obtain ⟨y, hy, -⟩ := (hearDies_keepsVerdicts (s := s) (n := n)).verdict h
  have hf := nodeOf_updNode_same (f := Node.fail cause (rinOf (hearDies s n) 0)) (fun _ => rfl) hy
  obtain ⟨x, hx, hv⟩ := hk.verdict hf
  refine ⟨?_, x, hx, Prod.mk.inj hv⟩
  rw [hk.hart]
  apply stopTasks_alive
  rwa [updNode_hart, hearDies_keepsVerdicts.hart]

theorem injectArm_nodes (h : Hart) : (injectArm s h).1.nodes = s.nodes := by
  unfold injectArm
  dsimp only
  split <;> rfl

theorem injectArm_node (h : Hart) : (injectArm s h).2.node = h.node := by
  unfold injectArm
  dsimp only
  split <;> rfl

/-- The next task of the group that begins on the context is one of the same node, and that node stays (04 R81). -/
theorem nextTask_node {nd x : Node} (ht : nextTask s nd = some t) (hn : nd.num = n) (hx : nodeOf s n = some x) :
    t.hart.node = n ∧ ∃ y, nodeOf t n = some y := by
  subst hn
  unfold nextTask at ht
  dsimp only at ht
  split at ht
  next =>
    cases ht
    exact ⟨injectArm_node _, _, (nodeOf_congr (injectArm_nodes _) _).trans (nodeOf_updNode_same (fun _ => rfl) hx)⟩
  next => cases ht

/-- The current hart's node notes the failed task with its cause (03 R47). -/
def noteFailed (s : State) (code : Nat) : State :=
  updNode s s.hart.node (fun x => { x with failedTasks := x.failedTasks ++ [(s.hart.task, BitVec.ofNat 8 code)] })

theorem noteFailed_node {nd : Node} (h : nodeOf s s.hart.node = some nd) (code : Nat) :
    ∃ x, nodeOf (noteFailed s code) s.hart.node = some x := ⟨_, nodeOf_updNode_same (fun _ => rfl) h⟩

/-- The context of a task that has failed: the next task of the group runs on it, or none does (04 R81). -/
def contextAfter (s : State) (nd : Node) : State := (nextTask s nd).getD { s with hart := s.hart.finish .failed }

theorem failTask_eq {nd : Node} (h : nodeOf s s.hart.node = some nd) (code : Nat) :
    failTask s code = failNode (contextAfter (noteFailed s code) nd) s.hart.node code := by
  simp only [failTask, h]
  rfl

theorem contextAfter_node {nd x : Node} (hs : s.hart.node = n) (hn : nd.num = n) (hx : nodeOf s n = some x) :
    (contextAfter s nd).hart.node = n ∧ ∃ y, nodeOf (contextAfter s nd) n = some y := by
  unfold contextAfter
  cases hc : nextTask s nd with
  | none => exact ⟨hs, x, hx⟩
  | some t => exact nextTask_node hc hn hx

/-- 03 R47: the current hart's task ends failed, and with it its node, whether or not a further task began on the context. -/
theorem failTask_fails {nd : Node} (h : nodeOf s s.hart.node = some nd) (code : Nat) :
    (failTask s code).hart.alive = false ∧
      ∃ x, nodeOf (failTask s code) s.hart.node = some x ∧ x.state = .failed ∧ x.cause = BitVec.ofNat 8 code := by
  obtain ⟨x, hx⟩ := noteFailed_node h code
  obtain ⟨hnode, y, hy⟩ := contextAfter_node (s := noteFailed s code) rfl (nodeOf_num h) hx
  rw [failTask_eq h]
  exact failNode_fails hnode hy code

end Sys2Proof.Machine
end

section
/-! PROOFS. Return from a trap (18 R390): the three cases of ERET on a hart. -/
namespace Sys2Proof.Machine

variable {s : State}

theorem Hart.leaveTrap_pc (h : Hart) : h.leaveTrap.front.pc = h.trap.tepc := Front.jump_pc ..

theorem Hart.leaveTrap_regs (h : Hart) : h.leaveTrap.front.regs = h.front.regs := Front.jump_regs ..

theorem Hart.leaveTrap_trap (h : Hart) : h.leaveTrap.trap = { h.trap with tstatus := h.trap.tstatus &&& 0xFFFE } := rfl

/-- Bits 15 to 8 of tstatus, PWB. -/
theorem ofNat_nbits_high (x : BitVec 16) : BitVec.ofNat 8 (nbits x.toNat 8 8) = x.extractLsb' 8 8 := by
  apply BitVec.eq_of_toNat_eq
  simp [nbits, Nat.shiftRight_eq_div_pow]

theorem Hart.leaveTrap_wbase (h : Hart) : h.leaveTrap.front.wbase = h.trap.tstatus.extractLsb' 8 8 :=
  (Front.jump_wbase ..).trans (ofNat_nbits_high _)

/-- The loop levels leave by R133: at the return the hart is in no handler, so they are not frozen. -/
theorem Hart.leaveTrap_levels (h : Hart) :
    (h.leaveTrap.front.lc, h.leaveTrap.front.levels) = leaveLoops h.front.lc h.front.levels h.trap.tepc := rfl

theorem counted1_of_hart (h : s.agent = .hart) : s.counted1 = { s with hart := s.hart.served s.free s.clock, free := s.free + 1 } := by
  simp only [State.counted1, h, bumpFree]

theorem exec_eret_returns (ha : s.agent = .hart) (hi : s.hart.trap.tstatus.getLsbD 0 = true) (he : s.hart.trap.tstatus.getLsbD 1 = false) :
    exec .eret s = .next { s with hart := s.hart.leaveTrap.served s.free s.clock, free := s.free + 1 } :=
  calc exec .eret s = execEret s := rfl
    _ = .next { s with hart := s.hart.leaveTrap }.counted1 :=
      (hartOnly_hart ha).trans ((if_neg (ne_false_of_eq_true hi)).trans (if_neg (ne_true_of_eq_false he)))
    _ = _ := congrArg _ (counted1_of_hart (s := { s with hart := s.hart.leaveTrap }) ha)

theorem exec_eret_fails (ha : s.agent = .hart) (hi : s.hart.trap.tstatus.getLsbD 0 = true) (he : s.hart.trap.tstatus.getLsbD 1 = true) :
    exec .eret s = .next (failTask s s.hart.trap.tcause.toNat) :=
  calc exec .eret s = execEret s := rfl
    _ = _ := (hartOnly_hart ha).trans ((if_neg (ne_false_of_eq_true hi)).trans (if_pos he))

theorem exec_eret_outside (ha : s.agent = .hart) (hi : s.hart.trap.tstatus.getLsbD 0 = false) :
    exec .eret s = .next (takeTrap s .illegalInstr 0x2E000001) :=
  calc exec .eret s = execEret s := rfl
    _ = illegalWord s (wordFS 0x17 0 0 1) := (hartOnly_hart ha).trans (if_pos hi)
    _ = _ := rfl

/-- Settles O18: each case of ERET is one equation of the instruction; under END the task fails as any failed task does. -/
theorem returnFromTrap : Obligations.ReturnFromTrap := by
  unfold Obligations.ReturnFromTrap
  intro s ha
  refine ⟨fun hi he => ⟨_, exec_eret_returns ha hi he, rfl, rfl, ?_, rfl, rfl, rfl, s.hart.leaveTrap_pc, s.hart.leaveTrap_wbase,
    s.hart.leaveTrap_trap, s.hart.leaveTrap_levels⟩, fun nd hi he hn => ?_, exec_eret_outside ha⟩
  · intro p _
    exact congrArg (fun m => Store.get zeroOf m p) s.hart.leaveTrap_regs
  · obtain ⟨halive, x, hx, hstate, hcause⟩ := failTask_fails hn s.hart.trap.tcause.toNat
    refine ⟨_, x, exec_eret_fails ha hi he, halive, hx, hstate, ?_⟩
    rw [hcause, BitVec.ofNat_toNat, BitVec.setWidth_eq]

end Sys2Proof.Machine
end
